-- ==== Sys2Proof/Word.lean ====
section
/-!
DEFINITION. The word types of the SA2 (R12, R44) and their plainest arithmetic.
Bit vectors stand for what the manual treats as bits; counts, indexes and identifiers are natural numbers.
-/

namespace Sys2Proof

/-- One byte of memory (R12). -/
abbrev Byte := BitVec 8
/-- A 16-bit halfword. -/
abbrev W16 := BitVec 16
/-- One scalar instruction word, one lane element (R19, R85). -/
abbrev W32 := BitVec 32
/-- A scalar register, a lane mask, an address (R85). -/
abbrev W64 := BitVec 64
/-- A vector register: one 32-bit element per lane (R85). -/
abbrev Lanes := Vector W32 64

/-- The mask that holds every lane (R85, p0). -/
def allLanes : W64 := BitVec.allOnes 64

/-- Lane `i` belongs to the mask `m` (R88: bit i belongs to lane i). -/
def laneIn (m : W64) (i : Nat) : Bool := m.getLsbD i

/-- A vector register that holds 0 in every lane (R85). -/
def zeroLanes : Lanes := Vector.replicate 64 0#32

end Sys2Proof
end

