-- ==== Sys2Proof/Config.lean ====
section
/-!
DEFINITION. What the specification leaves to the implementation or to the module's secrets: constants, and functions without
a body, of which no proof can know a value (logs 10 to 14).
-/

namespace Sys2Proof.Config

/-- The free values (log 10): the n-th value that the specification leaves open. -/
opaque freeValue : Nat → Nat

/-- What a lane of a valid latch holds that no word has written since the latch was last invalid (log 11), by the word that reads it, the latch and the
lane. -/
opaque latchLeft : Nat → Nat → Nat → BitVec 32

/-- The code that the translator of R42 and R43 gives a function (log 13), by section text, the device's feature mask and the function's place: its `.scode` and
`.lcode` words and the lane words at which its blocks begin, or nothing where its values do not fit their registers. -/
opaque ypfCode : List Byte → Nat → Nat → Option (List (BitVec 32) × List (BitVec 96) × List Nat)

/-- The physical frame of a page-table page (log 14), by context, level and virtual-address prefix. -/
opaque tableFrame : Nat → Nat → Nat → Nat

/-- The first 64 bits of KMAC256 under a launch's audit key (R370; log 12). -/
opaque auditTag : Nat → List Byte → BitVec 64

/-- ML-DSA-44 signature by the device identity key (R393; log 12), as 2,420 bytes. -/
opaque identitySign : List Byte → List Byte

/-- The firmware signature check of R392 (log 12). -/
opaque firmwareVerifies : List Byte → Bool

/-- The digests of the firmware images that the two slots hold when the package is first powered (R392; log 10). -/
opaque bootActive : List Byte
opaque bootOther : List Byte

/-- The SHA3-256 digest of the identity certificate, as 32 bytes (R393; log 12). -/
opaque identityDigest : List Byte

/-- What the memory processor works with where a poison responder answers its read of a byte (R384, R386; log 10). -/
opaque lostByte : Nat → BitVec 8

/-- The 4 KiB frames, by key divided by 4,096, that an HBM4E row holds bytes of (R374; log 19). -/
opaque rowFrames : Nat → List Nat

/-- The HBM4E row and bank of a physical address, and the spare rows of a bank (R374; log 19). -/
opaque hbmRow : Nat → Nat
opaque hbmBank : Nat → Nat
opaque hbmSpares : Nat

/-- The bytes of the sections of a state dump that R377 does not lay out (log 21). -/
opaque dumpSection : Nat → List Nat → Nat → BitVec 8

end Sys2Proof.Config
end

