-- ==== Sys2Proof/Syntax.lean ====
section
/-!
DEFINITION. The steps of the SA2 as syntax: one constructor for each row of spec/opcode_table.json.
Rows 0 to 98 are scalar words (R19, R20), rows 99 to 187 lane words (R21 to R28), the others the steps of the engines,
the memory processor, the host, the routers and the fabric. Register numbers and operation codes are typed here, so
that the machine never sees raw encodings. What an operand of a step of the last group names is said at its type.
-/

namespace Sys2Proof

/-- A scalar register number, s0 to s63 (R19). -/
abbrev SReg := Fin 64
/-- The 13-bit immediate or displacement of formats S-I and S-B (R19). -/
abbrev Imm13 := BitVec 13

/-- A lane source (R22): the codes 0-255, 256-259, 260-274, 275, 276, 277 and 278. Codes 279-511 are reserved and
have no constructor. -/
inductive Src where
  /-- v0 to v255; in PLOG and EXECWR the number names a predicate (R166, R169). -/
  | vreg (n : Fin 256)
  /-- b0 to b3. -/
  | latch (n : Fin 4)
  /-- s1 to s15 of the block's snapshot: `snap k` is s(k + 1). -/
  | snap (n : Fin 15)
  | zero
  | laneId
  | imm
  | crewId
  deriving DecidableEq, Repr

/-- The element types of the ty field (R24). -/
inductive Ty where
  | b32 | i32 | f32 | f16 | bf16 | e4m3 | e5m2 | e2m1 | b16 | i16 | b8 | i8 | b64 | i64 | xa96
  deriving DecidableEq, Repr

/-- The fields of a lane word (R21), the opcode apart. An unused source field is `.vreg 0` (R22). -/
structure LaneWord where
  vd  : Fin 256
  ws  : Bool
  ld  : Fin 4
  a   : Src
  b   : Src
  c   : Src
  pg  : Fin 16
  pn  : Bool
  ty  : Ty
  fn  : BitVec 9
  imm : W32
  deriving DecidableEq, Repr

/-- The fields of an M word (R27), the opcode and the reserved bits [72:69] apart. `lvl` is bits [54:24]. -/
structure MWord where
  tyA  : BitVec 4
  tyB  : BitVec 4
  tyC  : BitVec 4
  tyD  : BitVec 4
  lvl  : BitVec 31
  tA   : Fin 16
  vB   : Fin 256
  slot : Bool
  init : Bool
  vc   : Fin 16
  cc   : Fin 8
  klen : BitVec 16
  deriving DecidableEq, Repr

/-- Why a fetched word has no instruction (R29 steps 1 to 3). -/
inductive Reject where
  /-- Unassigned opcode: ILLEGAL, detail 0 (R114). -/
  | opcode
  /-- Function code that the ALU or UNARY group does not list: ILLEGAL, detail 1. -/
  | function
  /-- A nonzero reserved or unused field, a reserved source code, a ty that is not accepted: RESFIELD. -/
  | field
  deriving DecidableEq, Repr

/-- The remote words (R400). -/
inductive RemoteKind where
  | rput | rget | rred
  deriving DecidableEq, Repr

/-- One lane of a remote operation in flight (R402): its lane number, target physical address and data. -/
structure RemoteLane where
  lane : Nat
  pa   : Nat
  data : W32
  deriving DecidableEq, Repr

/-- A remote operation as it travels (R402, R419): source device, sequence number, word, lanes, type, RRED operation
and rounding, and the plane and the sender's port it travels on. -/
structure RemoteOp where
  src   : Nat
  seq   : Nat
  kind  : RemoteKind
  ty    : Ty
  op    : Nat
  rtz   : Bool
  lanes : List RemoteLane
  plane : Nat
  port  : Nat
  deriving DecidableEq, Repr

/-- One lane's answer (R402, R403): its data for RGET, or that the target refused it. -/
structure LaneAnswer where
  lane    : Nat
  refused : Bool
  data    : W32
  bad     : Bool
  deriving DecidableEq, Repr

/-- An acknowledgement or RGET reply (R403, R426), naming the sender's sequence number and the plane and sender's port that carried the request. -/
structure RemoteAnswer where
  seq   : Nat
  plane : Nat
  port  : Nat
  lanes : List LaneAnswer
  deriving DecidableEq, Repr

/-- A contribution line (R409, R410): source device, sequence number, window, byte offset, wire format and wire bytes. -/
structure CollLine where
  src    : Nat
  seq    : Nat
  wid    : Fin 256
  offset : Nat
  fmt    : Ty
  wire   : List Byte
  plane  : Nat
  port   : Nat
  deriving DecidableEq, Repr

/-- The links that recalibrate lane by lane (R375). -/
inductive LinkName where
  | ualink (port : Fin 24)
  | sound
  | hostPort
  | cxl (port : Fin 4)
  deriving DecidableEq, Repr

/-- A host access (R294, R385): a read, a write, one of the PCIe AtomicOps FetchAdd, Swap and CAS, or a load or a store over CXL.mem. -/
inductive HostOp where
  | read | write | fetchAdd | swap | cas | memLoad | memStore
  deriving DecidableEq, Repr

/-- A kind of request that crosses the Sound and waits for its answer (R382): a load or a store of a crew, an element of a copy at one destination, an
entry of one of a core's atomic buffers, a fill or a write-back of a granule on a team core; and what the host port, the fabric unit or the memory
processor of a device sends across it next. -/
inductive SoundReq where
  | load
  | store
  | copy (die dest el : Nat)
  | drain (die buf : Nat)
  | fill (core : Nat)
  | writeBack (core : Nat)
  | host
  | fabric (dev : Fin 3)
  | processor (dev : Fin 3)
  deriving DecidableEq, Repr

/-- A message that reaches a router, a fabric unit or a memory processor (R356 to R365, R396 to R422). The steps that
receive one take their operands from it: `State.message` holds the message of the step that runs. -/
inductive Message where
  /-- No message. -/
  | silent
  /-- A 64-bit beat from physical position `nb` at the router of `pos` (R356). -/
  | beat (die : Fin 2) (pos nb : Nat) (bits : W64)
  /-- An accusation, or its withdrawal, of `suspect` by the router of `nb` (R358). -/
  | vote (die : Fin 2) (pos nb suspect : Nat)
  /-- READMIT or RETIRE of `suspect`, sent to the router of `pos` (R364, R365). -/
  | verdict (die : Fin 2) (pos suspect : Nat)
  /-- A keep-alive, or the answer to one (R415). -/
  | keepalive (dev : Fin 3) (plane : Fin 8) (peer : Nat) (answer : Bool)
  /-- REPORT of a dead plane (R416). -/
  | report (dev : Fin 3) (peer : Nat) (plane : Fin 8)
  /-- PROPOSE of a generation and a set of dead planes (R416). -/
  | propose (dev : Fin 3) (peer gen : Nat) (dead : BitVec 8)
  /-- ACK or COMMIT of a generation (R416). -/
  | generation (dev : Fin 3) (peer gen : Nat)
  /-- A remote operation at its target (R402). -/
  | remoteOp (dev : Fin 3) (op : RemoteOp)
  /-- An acknowledgement or RGET reply at its sender (R403). -/
  | remoteAnswer (dev : Fin 3) (ans : RemoteAnswer)
  /-- A contribution line at its receiver (R411). -/
  | collLine (dev : Fin 3) (line : CollLine)
  /-- ABORT of a window, from a peer over a plane (R414). -/
  | windowAbort (dev : Fin 3) (peer plane : Nat) (wid : Fin 256)
  /-- A message of the gang exchange (R421, R422); `member` is the sender, or the absent device of ABSENT. -/
  | gang (dev : Fin 3) (gang member : Nat)
  deriving DecidableEq, Repr

/-- The mailbox request that the memory processor serves (R387, R388): the function, the code, the tag and the operands. The steps of
the mailbox requests take their operands from it: `State.request` holds the request of the step that runs. -/
structure Request where
  fn   : Fin 3
  code : W32
  tag  : W32
  ops  : List W64
  deriving DecidableEq, Repr

/-- Operand `n` of a request, counted from 0; an operand beyond those given reads 0. -/
def Request.op (r : Request) (n : Nat) : W64 := r.ops.getD n 0#64

/-- The steps of the SA2: one constructor for each row of spec/opcode_table.json. In the steps without an encoding,
`crew`, `team` and `launch` are the identifiers of the model's records, `die` and `core` name a logical core,
`pos` and `nb` physical positions (R356), `dev` and `fn` the physical function and the device it presents (R379),
`wid` a window. The steps that serve a mailbox request read `State.request`, those that receive a message `State.message`.
(The constructors without operands stand last: Lean's code generator numbers at most 245 constructors with fields.) -/
inductive Instr where
  /-- ADD (R120): Writes the 64-bit wrapping sum of two scalar registers. -/
  | add (d a b : SReg)
  /-- SUB (R120): Writes the 64-bit wrapping difference of two scalar registers. -/
  | sub (d a b : SReg)
  /-- AND (R120): Writes the bitwise AND of two scalar registers. -/
  | andd (d a b : SReg)
  /-- OR (R120): Writes the bitwise OR of two scalar registers. -/
  | orr (d a b : SReg)
  /-- XOR (R120): Writes the bitwise XOR of two scalar registers. -/
  | xor (d a b : SReg)
  /-- SHL (R120): Shifts a scalar register left by bits [5:0] of another. -/
  | shl (d a b : SReg)
  /-- SHR (R120): Shifts a scalar register right logically by bits [5:0] of another. -/
  | shr (d a b : SReg)
  /-- SRA (R120): Shifts a scalar register right arithmetically by bits [5:0] of another. -/
  | sra (d a b : SReg)
  /-- SLT (R120): Writes 1 when the first register is below the second as signed, else 0. -/
  | slt (d a b : SReg)
  /-- SLTU (R120): Writes 1 when the first register is below the second as unsigned, else 0. -/
  | sltu (d a b : SReg)
  /-- MIN (R120): Writes the signed minimum of two scalar registers. -/
  | min (d a b : SReg)
  /-- MAX (R120): Writes the signed maximum of two scalar registers. -/
  | max (d a b : SReg)
  /-- MINU (R120): Writes the unsigned minimum of two scalar registers. -/
  | minu (d a b : SReg)
  /-- MAXU (R120): Writes the unsigned maximum of two scalar registers. -/
  | maxu (d a b : SReg)
  /-- MUL (R120): Writes bits [63:0] of the product of two scalar registers. -/
  | mul (d a b : SReg)
  /-- MULH (R120): Writes bits [127:64] of the signed product. -/
  | mulh (d a b : SReg)
  /-- MULHU (R120): Writes bits [127:64] of the unsigned product. -/
  | mulhu (d a b : SReg)
  /-- DIV (R120): Writes the signed quotient under the division rules of R45. -/
  | div (d a b : SReg)
  /-- DIVU (R120): Writes the unsigned quotient under the division rules of R45. -/
  | divu (d a b : SReg)
  /-- REM (R120): Writes the signed remainder under the division rules of R45. -/
  | rem (d a b : SReg)
  /-- REMU (R120): Writes the unsigned remainder under the division rules of R45. -/
  | remu (d a b : SReg)
  /-- ADDW (R120): Writes the sign-extended low 32 bits of the sum. -/
  | addw (d a b : SReg)
  /-- SUBW (R120): Writes the sign-extended low 32 bits of the difference. -/
  | subw (d a b : SReg)
  /-- ADDI (R121): Adds a sign-extended 13-bit immediate to a scalar register. -/
  | addi (d a : SReg) (i : Imm13)
  /-- ANDI (R121): ANDs a scalar register with a sign-extended immediate. -/
  | andi (d a : SReg) (i : Imm13)
  /-- ORI (R121): ORs a scalar register with a sign-extended immediate. -/
  | ori (d a : SReg) (i : Imm13)
  /-- XORI (R121): XORs a scalar register with a sign-extended immediate. -/
  | xori (d a : SReg) (i : Imm13)
  /-- SHLI (R121): Shifts a scalar register left by an immediate amount. -/
  | shli (d a : SReg) (k : Fin 64)
  /-- SHRI (R121): Shifts a scalar register right logically by an immediate amount. -/
  | shri (d a : SReg) (k : Fin 64)
  /-- SRAI (R121): Shifts a scalar register right arithmetically by an immediate amount. -/
  | srai (d a : SReg) (k : Fin 64)
  /-- SLTI (R121): Writes 1 when the register is below the immediate as signed. -/
  | slti (d a : SReg) (i : Imm13)
  /-- SLTIU (R121): Writes 1 when the register is below the sign-extended immediate as unsigned. -/
  | sltiu (d a : SReg) (i : Imm13)
  /-- SHI (R122): Shifts the destination left by 19 and inserts a 19-bit immediate. -/
  | shi (d : SReg) (i : BitVec 19)
  /-- CLZ (R123): Counts the leading zero bits of a scalar register. -/
  | clz (d a : SReg)
  /-- CTZ (R123): Counts the trailing zero bits of a scalar register. -/
  | ctz (d a : SReg)
  /-- POPC (R123): Counts the one bits of a scalar register. -/
  | popc (d a : SReg)
  /-- BREV (R123): Reverses the bit order of a scalar register. -/
  | brev (d a : SReg)
  /-- SEXTB (R123): Sign-extends bits [7:0] of a scalar register. -/
  | sextb (d a : SReg)
  /-- SEXTH (R123): Sign-extends bits [15:0] of a scalar register. -/
  | sexth (d a : SReg)
  /-- SEXTW (R123): Sign-extends bits [31:0] of a scalar register. -/
  | sextw (d a : SReg)
  /-- ZEXTW (R123): Zero-extends bits [31:0] of a scalar register. -/
  | zextw (d a : SReg)
  /-- MADD (R124): Writes bits [63:0] of sa times sb plus sc. -/
  | madd (d a b c : SReg)
  /-- ADDSH (R124): Adds sb shifted left by k to sa. -/
  | addsh (d a b : SReg) (k : Fin 8)
  /-- SEL (R124): Selects sa when sc is nonzero, otherwise sb. -/
  | sel (d a b c : SReg)
  /-- BEQ (R126): Branches by disp13 when two scalar registers are equal. -/
  | beq (a b : SReg) (i : Imm13)
  /-- BNE (R126): Branches when two scalar registers differ. -/
  | bne (a b : SReg) (i : Imm13)
  /-- BLT (R126): Branches when sa is below sb as signed. -/
  | blt (a b : SReg) (i : Imm13)
  /-- BGE (R126): Branches when sa is at least sb as signed. -/
  | bge (a b : SReg) (i : Imm13)
  /-- BLTU (R126): Branches when sa is below sb as unsigned. -/
  | bltu (a b : SReg) (i : Imm13)
  /-- BGEU (R126): Branches when sa is at least sb as unsigned. -/
  | bgeu (a b : SReg) (i : Imm13)
  /-- BRA (R127): Transfers the scalar stream by a 25-bit displacement. -/
  | bra (i : BitVec 25)
  /-- CALL (R127): Writes the return index to s62 and transfers by a 25-bit displacement. -/
  | call (i : BitVec 25)
  /-- JMPR (R128): Jumps to a register plus offset and writes the link index. -/
  | jmpr (d a : SReg) (i : Imm13)
  /-- LOOP (R129): Decrements a counter and branches while the new value is nonzero. -/
  | loopDec (a : SReg) (i : Imm13)
  /-- SLDB (R132): Loads one byte from global memory, zero-extended. -/
  | sldb (d a : SReg) (i : Imm13)
  /-- SLDH (R132): Loads two bytes from global memory, zero-extended. -/
  | sldh (d a : SReg) (i : Imm13)
  /-- SLDW (R132): Loads four bytes from global memory, zero-extended. -/
  | sldw (d a : SReg) (i : Imm13)
  /-- SLDD (R132): Loads eight bytes from global memory. -/
  | sldd (d a : SReg) (i : Imm13)
  /-- SSTB (R132): Stores one byte to global memory through the store queue. -/
  | sstb (d a : SReg) (i : Imm13)
  /-- SSTH (R132): Stores two bytes to global memory. -/
  | ssth (d a : SReg) (i : Imm13)
  /-- SSTW (R132): Stores four bytes to global memory. -/
  | sstw (d a : SReg) (i : Imm13)
  /-- SSTD (R132): Stores eight bytes to global memory. -/
  | sstd (d a : SReg) (i : Imm13)
  /-- SLDK (R133): Reads eight bytes through the constant path. -/
  | sldk (d a : SReg) (i : Imm13)
  /-- SATOM (R135): Performs a scalar atomic read-modify-write with scope and ordering. -/
  | satom (d a b : SReg) (ord : Bool) (scope : Fin 4) (w : Bool) (op : Fin 8)
  /-- SCAS (R136): Performs a scalar compare-and-swap and returns the old value. -/
  | scas (d a b : SReg) (ord : Bool) (scope : Fin 4) (w : Bool)
  /-- SRD (R139): Reads a special register into a scalar register. -/
  | srd (d : SReg) (x : Fin 256)
  /-- SWR (R140): Writes a scalar register to a special register under its access code. -/
  | swr (a : SReg) (x : Fin 256)
  /-- LRUN (R141): Enqueues a lane block at an absolute lane-word index with a snapshot of s1-s15. -/
  | lrun (l : Bool) (i : BitVec 22)
  /-- LRUNR (R141): Enqueues a lane block whose start index is held in a scalar register. -/
  | lrunr (l : Bool) (a : SReg)
  /-- SGETP (R143): Waits as LSYNC and copies a predicate into a scalar register. -/
  | sgetp (d : SReg) (p : Fin 16)
  /-- SGETV (R144): Waits as LSYNC and reads one lane of a vector register. -/
  | sgetv (d a : SReg) (v : Fin 256)
  /-- BARA (R227): Arrives at a barrier without waiting and returns the phase parity. -/
  | bara (d a : SReg) (i : Imm13)
  /-- BARW (R228): Waits for a barrier parity or abandonment and writes the status. -/
  | barw (d a : SReg) (i : Imm13)
  /-- BARAW (R228): Arrives at a barrier and waits for the phase of its own arrival. -/
  | baraw (d a : SReg) (i : Imm13)
  /-- BARINIT (R229): Sets a barrier's EXPECTED, clears COUNT and ABND, keeps PAR. -/
  | barinit (a b : SReg)
  /-- QPUSH (R232): Pushes a handle into a core queue, blocking without allowance. -/
  | qpush (a : SReg) (n : Fin 64)
  /-- QPOP (R232): Pops the oldest handle of a core queue, blocking when empty. -/
  | qpop (d : SReg) (n : Fin 64)
  /-- QTRY_PUSH (R232): Tries to push a handle without blocking and reports failure. -/
  | qtryPush (d a : SReg) (n : Fin 64)
  /-- QTRY_POP (R232): Tries to pop a handle without blocking and reports failure. -/
  | qtryPop (d : SReg) (n : Fin 64)
  /-- QINIT (R231): Places a queue ring in the scratchpad, discards handles and sets the allowance. -/
  | qinit (a b : SReg) (n : Fin 64)
  /-- WAITC (R223): Holds the scalar stream until a completion counter's DONE reaches a value. -/
  | waitc (a : SReg) (n : Fin 8)
  /-- ARMC (R225): Arms a copy, arrival or push to fire at a counter threshold. -/
  | armc (d a b : SReg) (w : Fin 4) (k : Fin 4) (n : Fin 8)
  /-- CYIELD (R224): Leaves the schedulers until a counter condition holds, then continues at a target. -/
  | cyield (n : Fin 8) (a : SReg) (i : Imm13)
  /-- PCHK (R326): Copies PREQ into a scalar register. -/
  | pchk (d : SReg)
  /-- FENCE (R234): Orders the crew's accesses at a scope, drains buffers and writes back regions. -/
  | fenceWord (w : Bool) (k : Fin 4) (s : Fin 8)
  /-- WLPOP (R239): Takes up to 64 items from a work list into the scratchpad, or 0 at quiescence. -/
  | wlpop (d a : SReg) (l : Fin 256)
  /-- WLDONE (R240): Retires items the crew holds on a work list. -/
  | wldone (a : SReg) (l : Fin 256)
  /-- TRAP (R334): Raises SWTRAP with the word's code. -/
  | trap (c : BitVec 19)
  /-- BKPT (R334): Raises BKPT with detail 0 and the word's code. -/
  | bkpt (c : BitVec 19)
  /-- SYSC (R335): Posts a service request and holds until RESPOND returns a value. -/
  | sysc (d : SReg) (c : BitVec 19)
  /-- GATED_SCALAR_OPCODE (R32): A feature-gated scalar opcode raises EMUL to its bound routine, or ILLEGAL. -/
  | gatedScalarOpcode (g : Fin 16) (x : BitVec 25)
  /-- VADD (R148): Adds two 32-bit lane operands. -/
  | vadd (w : LaneWord)
  /-- VSUB (R148): Subtracts two 32-bit lane operands. -/
  | vsub (w : LaneWord)
  /-- VMUL (R148): Writes the low 32 bits of the lane product. -/
  | vmul (w : LaneWord)
  /-- VMULH (R148): Writes the high 32 bits of the lane product. -/
  | vmulh (w : LaneWord)
  /-- VMAD (R148): Writes the low 32 bits of A times B plus C. -/
  | vmad (w : LaneWord)
  /-- VAND (R148): Bitwise AND in each lane. -/
  | vand (w : LaneWord)
  /-- VOR (R148): Bitwise OR in each lane. -/
  | vor (w : LaneWord)
  /-- VXOR (R148): Bitwise XOR in each lane. -/
  | vxor (w : LaneWord)
  /-- VSHL (R148): Shifts each lane left by B[4:0]. -/
  | vshl (w : LaneWord)
  /-- VSHR (R148): Shifts each lane right, arithmetic or logical by type. -/
  | vshr (w : LaneWord)
  /-- VMIN (R148): Lane minimum, signed or unsigned by type. -/
  | vmin (w : LaneWord)
  /-- VMAX (R148): Lane maximum, signed or unsigned by type. -/
  | vmax (w : LaneWord)
  /-- VABS (R148): Lane absolute value of a signed integer. -/
  | vabs (w : LaneWord)
  /-- VSEL (R148): Selects A or B in each lane by a predicate bit. -/
  | vsel (w : LaneWord)
  /-- VCLZ (R148): Counts leading zeros in each lane. -/
  | vclz (w : LaneWord)
  /-- VPOPC (R148): Counts one bits in each lane. -/
  | vpopc (w : LaneWord)
  /-- VBFE (R150): Extracts a bit field in each lane. -/
  | vbfe (w : LaneWord)
  /-- VBFI (R150): Inserts a bit field in each lane. -/
  | vbfi (w : LaneWord)
  /-- VMOV (R148): Copies a source to the destination in each lane. -/
  | vmov (w : LaneWord)
  /-- VCMP (R149): Compares integers in each lane into a predicate. -/
  | vcmp (w : LaneWord)
  /-- VADDC (R148): Writes the carry of a three-input lane add. -/
  | vaddc (w : LaneWord)
  /-- VNEG (R148): Negates each lane. -/
  | vneg (w : LaneWord)
  /-- FADD (R152): Floating add in each lane with one rounding. -/
  | fadd (w : LaneWord)
  /-- FSUB (R152): Floating subtract in each lane. -/
  | fsub (w : LaneWord)
  /-- FMUL (R152): Floating multiply in each lane. -/
  | fmul (w : LaneWord)
  /-- FFMA (R152): Fused multiply-add in each lane with one rounding. -/
  | ffma (w : LaneWord)
  /-- FSCALE (R152): Multiplies each lane by 2 to an integer power. -/
  | fscale (w : LaneWord)
  /-- FMIN (R153): Floating minimum in each lane. -/
  | fmin (w : LaneWord)
  /-- FMAX (R153): Floating maximum in each lane. -/
  | fmax (w : LaneWord)
  /-- FCMP (R154): Compares floating values in each lane into a predicate. -/
  | fcmp (w : LaneWord)
  /-- FRCP (R155): Correctly rounded reciprocal in each lane. -/
  | frcp (w : LaneWord)
  /-- FRSQ (R155): Correctly rounded reciprocal square root in each lane. -/
  | frsq (w : LaneWord)
  /-- FSQRT (R155): Correctly rounded square root in each lane. -/
  | fsqrt (w : LaneWord)
  /-- FEXP2 (R155): Correctly rounded 2 to the x in each lane. -/
  | fexp2 (w : LaneWord)
  /-- FLOG2 (R155): Correctly rounded log2 in each lane. -/
  | flog2 (w : LaneWord)
  /-- FSIN (R155): Correctly rounded sin of pi x in each lane. -/
  | fsin (w : LaneWord)
  /-- FCOS (R155): Correctly rounded cos of pi x in each lane. -/
  | fcos (w : LaneWord)
  /-- FCLASS (R156): Writes a one-hot class mask of each lane's value. -/
  | fclass (w : LaneWord)
  /-- FCVT (R157): Converts between floating formats in each lane. -/
  | fcvt (w : LaneWord)
  /-- FRND (R156): Rounds each lane to an integral value in the same format. -/
  | frnd (w : LaneWord)
  /-- FTOI (R157): Converts floating values to integers in each lane. -/
  | ftoi (w : LaneWord)
  /-- ITOF (R157): Converts integers to floating values in each lane. -/
  | itof (w : LaneWord)
  /-- QPACK (R158): Scales, converts and packs an element into a register slot. -/
  | qpack (w : LaneWord)
  /-- QUNPK (R158): Unpacks and scales a narrow element to FP32. -/
  | qunpk (w : LaneWord)
  /-- VSHFL (R159): Moves values between lanes of the word's lane set. -/
  | vshfl (w : LaneWord)
  /-- VVOTE (R160): Writes an any, all or uniform vote to a predicate. -/
  | vvote (w : LaneWord)
  /-- VFOLD (R161): Reduces the lane set by a fixed pairwise tree. -/
  | vfold (w : LaneWord)
  /-- VSCAN (R162): Forms an inclusive or exclusive scan across lanes. -/
  | vscan (w : LaneWord)
  /-- VSYNC (R163): Records lane arrivals and parks until every member of each mask has arrived. -/
  | vsync (w : LaneWord)
  /-- PLOG (R166): Combines three predicates by a truth table. -/
  | plog (w : LaneWord)
  /-- PSET (R167): Sets a predicate from a value. -/
  | pset (w : LaneWord)
  /-- EXECRD (R168): Reads half of the fragment's EXEC into a register. -/
  | execrd (w : LaneWord)
  /-- EXECWR (R169): Rewrites owned lanes of EXEC from a predicate. -/
  | execwr (w : LaneWord)
  /-- BRL (R99): Branches a fragment, splitting, jumping or serialising it. -/
  | brl (w : LaneWord)
  /-- JOIN (R100): Parks a fragment at its pending join and fuses when all siblings have parked. -/
  | joinWord (w : LaneWord)
  /-- LEND (R172): Ends the fragment or the running serial arm. -/
  | lend (w : LaneWord)
  /-- LYIELD (R173): Ranks the fragment below non-urgent candidates for 64 cycles. -/
  | lyield (w : LaneWord)
  /-- LNOP (R173): Occupies one issue slot with no effect. -/
  | lnop (w : LaneWord)
  /-- LTRAP (R174): Raises SWTRAP in the lanes of its lane set. -/
  | ltrap (w : LaneWord)
  /-- LWAITC (R222): Makes a fragment wait on a completion counter condition. -/
  | lwaitc (w : LaneWord)
  /-- BATCH (R221): Closes the open batch of a completion counter. -/
  | batch (w : LaneWord)
  /-- VLD (R209): Loads global memory into each lane. -/
  | vld (w : LaneWord)
  /-- VST (R209): Stores each lane's data to global memory. -/
  | vst (w : LaneWord)
  /-- VLDS (R209): Loads from the team's scratchpad window into each lane. -/
  | vlds (w : LaneWord)
  /-- VSTS (R209): Stores each lane's data into the team's scratchpad window. -/
  | vsts (w : LaneWord)
  /-- VLDK (R210): Loads through the constant path in each lane. -/
  | vldk (w : LaneWord)
  /-- VATOM (R212): Performs a lane atomic that returns the old value. -/
  | vatom (w : LaneWord)
  /-- VATOM_NO_RETURN (R212): Performs a store-class lane atomic that returns nothing (WS = 1). -/
  | vatomNoReturn (w : LaneWord)
  /-- VCAS (R213): Performs a lane compare-and-swap. -/
  | vcas (w : LaneWord)
  /-- VRED (R214): Contributes lane values to the atomic buffer for reduction. -/
  | vred (w : LaneWord)
  /-- VRDX (R215): Adds lane values exactly into XA96 cells. -/
  | vrdx (w : LaneWord)
  /-- VPREF (R211): Asks home slices to fetch lines, with no visible effect. -/
  | vpref (w : LaneWord)
  /-- CPY (R216): Issues one copy between global memory and the scratchpad. -/
  | cpy (w : LaneWord)
  /-- CPYM (R216): Issues a multicast copy from global memory to several cores. -/
  | cpym (w : LaneWord)
  /-- CPYT (R216): Issues a copy between the scratchpad and the tile store. -/
  | cpyt (w : LaneWord)
  /-- WLAPP (R238): Appends lane items to context work lists. -/
  | wlapp (w : LaneWord)
  /-- MXMMA (R256): Submits a quad matrix multiply-accumulate that waits for joint acceptance. -/
  | mxmma (w : MWord)
  /-- MXDRAIN (R261): Queues a drain of an accumulator slot to tile store, scratchpad or registers. -/
  | mxdrain (w : MWord)
  /-- MXZERO (R265): Queues a clear of a slot, optionally loading an accumulator input. -/
  | mxzero (w : MWord)
  /-- MXFENCE (R255): Waits for earlier register writes and sets the fence flag. -/
  | mxfence (w : MWord)
  /-- MXSTAT (R266): Queues a read of a slot's monitors, kind and flags into a register. -/
  | mxstat (w : MWord)
  /-- RPUT (R400): Issues remote writes to a peer device. -/
  | rput (w : LaneWord)
  /-- RGET (R400): Issues remote reads from a peer device. -/
  | rget (w : LaneWord)
  /-- RRED (R400): Issues remote atomic reductions to a peer device. -/
  | rred (w : LaneWord)
  /-- COLL (R409): Compresses and sends lines of contributions to peer reduction windows. -/
  | coll (w : LaneWord)
  /-- CWIN (R408): Opens a reduction window from a scratchpad descriptor. -/
  | cwin (w : LaneWord)
  /-- CSTAT (R413): Reads the status of a reduction window into lanes. -/
  | cstat (w : LaneWord)
  /-- CABORT (R414): Aborts a reduction window, optionally on every peer. -/
  | cabort (w : LaneWord)
  /-- GATED_LANE_OPCODE (R32): A feature-gated lane opcode raises EMUL to its bound routine, or ILLEGAL. -/
  | gatedLaneOpcode (g : Fin 32) (x : BitVec 88)
  /-- LANE_BLOCK_COMPLETE (R81): A lane block completes once its fragments have ended and words retired. -/
  | laneBlockComplete (crew : Nat)
  /-- LOAD_DATA_RETURN (R130): Data of a load or returning access arrives and the destination is written. -/
  | loadDataReturn (crew idx : Nat) (lanes : W64)
  /-- FAIRT_URGENT (R105): A ready candidate passed over for FAIRT cycles becomes urgent. -/
  | fairtUrgent (crew : Nat) (slot : Option (Fin 8))
  /-- YIELD_DEMOTION_END (R106): The 64-cycle demotion of LYIELD or YIELD runs out. -/
  | yieldDemotionEnd (crew : Nat) (slot : Option (Fin 8))
  /-- TEAM_BARRIER_REQUEST (R286): An arrival, wait or BARINIT from another core reaches the leader's port. -/
  | teamBarrierRequest (team n : Nat)
  /-- TEAM_BARRIER_COMPLETION (R286): A team-barrier phase completion reaches a core of the team. -/
  | teamBarrierCompletion (team core id : Nat)
  /-- COPY_COMPLETE (R218): A copy has written every destination element and completes in its batch. -/
  | copyComplete (die core n : Nat)
  /-- BATCH_COMPLETE (R189): Closed batches complete, DONE rises and waits are released. -/
  | batchComplete (crew : Nat) (cc : Fin 8)
  /-- ARMED_PUSH_RETRY (R191): A fired push waiting for allowance pushes once one becomes free. -/
  | armedPushRetry (crew : Nat)
  /-- MXMMA_JOINT_ACCEPT (R246): With four quad MXMMA words waiting and queue room, the engine compares and accepts or traps them. -/
  | mxmmaJointAccept (die core : Nat)
  /-- MX_ENTRY_COMPLETE (R257): A quadrant's MXMMA, MXZERO or MXSTAT entry completes its effect. -/
  | mxEntryComplete (die core : Nat) (quad : Fin 4) (n : Nat)
  /-- MXDRAIN_COMPLETE (R263): A drain finishes writing its image and completes. -/
  | mxdrainComplete (die core : Nat) (quad : Fin 4) (n : Nat)
  /-- GRANULE_FILL_COMPLETE (R283): A region granule fill completes and waiting accesses proceed. -/
  | granuleFillComplete (team core granule : Nat)
  /-- GRANULE_WRITE_BACK_DONE (R283): A region write-back is performed and the granule returns to CLEAN or DIRTY. -/
  | granuleWriteBackDone (team core granule : Nat)
  /-- SIDE_LOG_REPLAY (R319): A side-log entry whose pages are answered replays at its homes. -/
  | sideLogReplay (crew : Nat)
  /-- PAGE_MIGRATION (R315): The memory processor moves a unified-range page to a new frame. -/
  | pageMigration (ctx : Nat) (va frame : W64)
  /-- DOORBELL_WRITE (R391): A doorbell write gives a queue's producer index or is rejected. -/
  | doorbellWrite (fn : Fin 3) (q : Nat) (p : W32)
  /-- REGISTER_WRITE (R387): A write to a BAR0 register without behaviour of its own. -/
  | registerWrite (fn : Fin 3) (off : Nat) (v : W32)
  /-- LAUNCH (R345): Accepts a launch command after its checks and section copies, or rejects it. -/
  | launchCmd (dev : Fin 3) (q : Nat) (a : W64)
  /-- WAIT (R339): Accepts a WAIT command that blocks its queue on an event counter. -/
  | waitCmd (dev : Fin 3) (q : Nat) (a b : W64)
  /-- WAIT_SATISFIED (R339): A WAIT's event counter reaches its value and the command completes. -/
  | waitSatisfied (dev : Fin 3) (q : Nat)
  /-- SIGNAL (R339): Stores a value to an event after every earlier command of its queue completes. -/
  | signalCmd (dev : Fin 3) (q : Nat) (a b : W64)
  /-- DISTRIBUTOR_STEP (R347): The distributor places unplaced teams on eligible clusters. -/
  | distributorStep (dev : Fin 3)
  /-- PDEAD_EXPIRY (R328): PDEAD cycles after REQ rose, remaining crews are stopped for the forced save. -/
  | pdeadExpiry (team : Nat)
  /-- TEAM_SAVE (R328): Once crews are stopped and commands complete, the team image is written and resources freed. -/
  | teamSave (team : Nat)
  /-- TEAM_RETIRE (R351): An ended team retires after commands, drains, write-backs and replays complete. -/
  | teamRetire (team : Nat)
  /-- QUIESCENCE (R354): The termination detector reports quiescence of a launch's work lists. -/
  | quiescenceEvent (launch : Nat)
  /-- HOST_ACCESS (R294): A host read or write of device memory arrives on the host link. `n` bytes are read or, 4 or 8, updated by an AtomicOp; `data` is
  what is written, the operand of FetchAdd and Swap, or the compare value and then the swap value of CAS. -/
  | hostAccess (op : HostOp) (pa : W64) (n : Nat) (data : List Byte)
  /-- HOST_LINK_TRAINING (R385): The host port trains to PCIe or CXL mode. -/
  | hostLinkTraining (cxl : Bool) (width : Nat)
  /-- SECOND_TIER_PORT_FAIL (R386): A second-tier CXL link fails and its range becomes a poison responder. -/
  | secondTierPortFail (port : Fin 4)
  /-- LANE_RECALIBRATION (R375): One link lane is recalibrated while traffic continues. -/
  | laneRecalibration (link : LinkName)
  /-- SOUND_REQUEST_TIMEOUT (R382): A Sound request reaches XTMO and is completed poisoned or as discarded: the `n`-th of crew,
  core or team `who`. -/
  | soundRequestTimeout (req : SoundReq) (who n : Nat)
  /-- DIE_POWER_UP (R4): A die powers up and loads the running REFTIME. -/
  | diePowerUp (die : Fin 2)
  /-- DIE_POWER_DOWN (R383): A die powers down and its Sound port cancels outstanding requests. -/
  | diePowerDown (die : Fin 2)
  /-- DIE_RESET (R384): A die enters reset; its Sound port becomes a poison responder. -/
  | dieReset (die : Fin 2)
  /-- DIE_READY (R384): A reset die's memory processor reports ready and the port passes traffic. -/
  | dieReady (die : Fin 2)
  /-- PACKAGE_POWER_ON (R392): The security processor verifies and starts a firmware slot. -/
  | packagePowerOn (activeOk otherOk : Bool)
  /-- REFERENCE_CLOCK_LOSS (R377): Loss of a die's reference clock is a fatal error. -/
  | referenceClockLoss (die : Fin 2)
  /-- POWER_SAMPLE (R395): Every 1,000 ticks the module measures draw and stretches cycles over the cap. -/
  | powerSample (watts : Nat)
  /-- BEAT_SEND (R356): A router sends a heartbeat to each neighbour at its tick. -/
  | beatSend (die : Fin 2) (pos : Nat)
  /-- BEAT_WINDOW_END (R360): A 256-tick window ends and the router judges each neighbour. -/
  | beatWindowEnd (die : Fin 2) (pos nb flits : Nat)
  /-- ACCUSATION_LAPSE (R358): An accusation lapses 1,024 ticks after its last renewal. -/
  | accusationLapse (die : Fin 2) (pos from_ suspect : Nat)
  /-- FENCE_REPORT (R360): The memory processor receives a FENCE report and raises the fence table. -/
  | fenceReport (die : Fin 2) (suspect : Nat)
  /-- BIST_RESULT (R363): A fenced core's self-test result arrives and the fence is classified. -/
  | bistResult (die : Fin 2) (pos : Nat) (pass tagOk : Bool) (failures : W64)
  /-- BIST_TIMEOUT (R362): No self-test result within 1,000,000 ticks counts as a fail. -/
  | bistTimeout (die : Fin 2) (pos : Nat)
  /-- LINK_SESSION (R394): A peer starts a session and the key exchange runs on the port. -/
  | linkSession (dev : Fin 3) (port : Fin 24) (peer : Nat) (ok : Bool)
  /-- SESSION_REKEY (R394): A port repeats the exchange after 2^40 bytes or 24 hours. -/
  | sessionRekey (dev : Fin 3) (port : Fin 24) (ok : Bool)
  /-- PORT_LOSS (R396): A UALink port is lost and its outstanding operations are reissued. -/
  | portLoss (dev : Fin 3) (port : Fin 24)
  /-- KEEPALIVE_SEND (R415): A keep-alive is sent on each plane every PTMO / 10 ticks. -/
  | keepaliveSend (dev : Fin 3) (plane : Fin 8)
  /-- PLANE_DEAD (R415): A plane with no answered keep-alive for PTMO ticks is found dead. -/
  | planeDead (dev : Fin 3) (plane : Fin 8)
  /-- PROPOSE_TIMEOUT (R416): 10 x PTMO after PROPOSE the coordinator commits without missing ACKs. -/
  | proposeTimeout (dev : Fin 3)
  /-- COMMIT_TIMEOUT (R416): 20 x PTMO with no COMMIT the next member becomes coordinator. -/
  | commitTimeout (dev : Fin 3)
  /-- REMOTE_TIMEOUT (R403): A remote lane unanswered for RTMO ticks on a live plane fails. -/
  | remoteTimeout (dev : Fin 3) (seq : Nat)
  /-- WINDOW_EXPIRY (R412): A window's deadline passes and its lines close as EXPIRED. -/
  | windowExpiry (dev : Fin 3) (w : Fin 256)
  /-- GANG_TIMEOUT (R421): GTMO ticks pass without every READY or START-ACK. -/
  | gangTimeout (dev : Fin 3) (gang : Nat)
  /-- UNDECODABLE_WORD (R29): A fetched word with an unassigned opcode, an unlisted fn or a nonzero reserved field raises ILLEGAL or RESFIELD. -/
  | undecodableWord (lane : Bool) (w : BitVec 96) (reason : Reject)
  /-- STORE_PERFORMED (R296): A queued store leaves the crew's store queue and is performed at its home slice, the owner core's port or the host. -/
  | storePerformed (crew idx : Nat) (lanes : W64)
  /-- MALFORMED_COMMAND (R346): A command with an unknown KIND or a nonzero reserved field is taken from its queue and rejected with reason 8. -/
  | malformedCommand (dev : Fin 3) (q : Nat) (bytes : List Byte)
  /-- CONS_ADVANCE (R322): System software advances CONS of a fault or service queue, freeing ring entries for a word that holds. -/
  | consAdvance (ctx : Nat) (service : Bool) (cons : W32)
  /-- SOFTWARE_SAVE_REQUEST (R325): PREQ is raised in a team for a context switch, a debugger stop or a move by the memory processor. -/
  | softwareSaveRequest (team : Nat) (reason : Fin 8)
  /-- TEAM_BARRIER_REPLY (R286): The leader's reply to a remote BARA or BARAW returns and writes s[sd]. -/
  | teamBarrierReply (crew : Nat)
  /-- UNIFIED_RANGE_FAULT_ANSWER (R321): The memory processor itself answers a kind-1 fault record of a unified range by placing the page. -/
  | unifiedRangeFaultAnswer (ctx : Nat) (va frame : W64)
  /-- PROCESSOR_STATE_UNCORRECTABLE_ERROR (R377): An uncorrectable error in memory-processor or security-processor state stops the device and writes the state dump. -/
  | processorStateUncorrectableError (die : Fin 2)
  /-- LSYNC (R142): Waits until every enqueued lane block of the crew has completed. -/
  | lsync
  /-- YIELD (R241): Ranks the scalar stream below non-urgent candidates for 64 cycles. -/
  | yield
  /-- PYIELD (R327): Saves a light crew image when a save is requested. -/
  | pyield
  /-- END (R242): Closes open batches, waits for counters and ends the crew. -/
  | endCrew
  /-- FENCEP (R405): Waits until every accepted remote operation of the crew has completed. -/
  | fencep
  /-- CFENCE (R236): Makes later constant reads return the newest observable value. -/
  | cfence
  /-- RFLUSH (R237): Waits as LSYNC, drains the core's atomic buffers and writes back regions. -/
  | rflush
  /-- RTE (R115): Leaves handler mode and resumes the crew from the trap registers. -/
  | rte
  /-- CREATE_CONTEXT (R389): Creates a context with its queues, fault and service queues and save region. -/
  | createContext
  /-- DESTROY_CONTEXT (R388): Destroys a context, saving and discarding resident teams. -/
  | destroyContext
  /-- MAP (R312): Writes present page-table entries for a range. -/
  | mapPages
  /-- UNMAP (R312): Writes V = 0 for a range and performs a shootdown. -/
  | unmapPages
  /-- PROTECT (R312): Changes permissions for a range and performs a shootdown. -/
  | protectPages
  /-- RESOLVE (R320): Answers a page's fault records with MAPPED or REFUSED. -/
  | resolvePage
  /-- TRANSLATE (R312): Returns the physical address and permissions of a virtual page. -/
  | translatePage
  /-- RESPOND (R335): Returns a value to the crew whose SYSC carries the tag. -/
  | respondReq
  /-- PLANT (R337): Plants a BKPT word in a private copy of a code page. -/
  | plantWord
  /-- UNPLANT (R337): Restores a planted word in the private copy. -/
  | unplantWord
  /-- DEBUG (R336): Writes a breakpoint comparator. -/
  | debugReq
  /-- ATTEST (R393): Writes a signed attestation report. -/
  | attest
  /-- FW_STAGE (R392): Verifies and writes a firmware image into the inactive slot. -/
  | fwStage
  /-- FW_ACTIVATE (R376): Switches the management processors to the staged firmware. -/
  | fwActivate
  /-- PWRCAP (R395): Sets the module power cap. -/
  | pwrcap
  /-- FABRIC_CONFIG (R397): Sets the device's id, members, plane map, exports and time-outs. -/
  | fabricConfig
  /-- GANG_ARM (R420): Checks a launch and holds it armed for a gang. -/
  | gangArm
  /-- GANG_START (R421): Starts the gang exchange at the initiator. -/
  | gangStart
  /-- DEVICE_INIT (R390): Prepares the journal, dump region and INJB of a function's device. -/
  | deviceInit
  /-- BEAT_RECEIVE (R357): A router receives and validates a neighbour's beat. -/
  | beatReceive
  /-- ACCUSE (R358): A router receives an accusation and applies the majority test. -/
  | accuseMsg
  /-- WITHDRAW (R358): A router receives a withdrawal and removes the accuser's vote. -/
  | withdrawMsg
  /-- READMIT (R364): A router receives READMIT and restores the link. -/
  | readmitLink
  /-- RETIRE (R365): A router receives RETIRE and keeps the link dropped. -/
  | retireLink
  /-- REPORT (R416): A REPORT of a dead plane reaches a member and is acted on or forwarded. -/
  | reportMsg
  /-- PROPOSE (R416): A PROPOSE blocks the dead planes' entries and marks operations for reissue. -/
  | proposeMsg
  /-- ACK (R416): An ACK of a proposed generation reaches the coordinator. -/
  | ackMsg
  /-- COMMIT (R416): A COMMIT installs the new map, raises GEN and reissues operations. -/
  | commitMsg
  /-- REMOTE_OP_RECEIVE (R402): A remote operation arrives at the target and is performed or refused. -/
  | remoteOpReceive
  /-- REMOTE_ANSWER_RECEIVE (R403): An acknowledgement or RGET reply reaches the sender. -/
  | remoteAnswerReceive
  /-- COLL_LINE_RECEIVE (R411): A contribution line reaches the receiver and is admitted, entered or refused. -/
  | collLineReceive
  /-- WINDOW_ABORT (R414): An ABORT message aborts the receiver's window. -/
  | windowAbort
  /-- GANG_PREPARE (R421): A member receives PREPARE and answers READY if armed. -/
  | gangPrepare
  /-- GANG_READY (R421): The initiator receives READY from a member. -/
  | gangReady
  /-- GANG_NOTREADY (R421): The initiator receives NOTREADY and cancels the gang. -/
  | gangNotready
  /-- GANG_START_MESSAGE (R421): A member receives START, places teams and acknowledges. -/
  | gangStartMessage
  /-- GANG_START_ACK (R421): The initiator receives START-ACK from a member. -/
  | gangStartAck
  /-- GANG_CANCEL (R421): A member receives CANCEL and drops its armed launch. -/
  | gangCancel
  /-- GANG_ABORT (R421): A member receives ABORT and halts the launch's crews. -/
  | gangAbort
  /-- GANG_ABSENT (R422): A member marks a device absent for the gang's windows. -/
  | gangAbsent
  /-- MALFORMED_MAILBOX_REQUEST (R387): A mailbox request whose code is not listed returns STATUS 3. -/
  | malformedMailboxRequest
  /-- KEEPALIVE_RECEIVE (R415): A keep-alive or its answer arrives on a plane; the device answers it or restarts the plane's dead-plane timer. -/
  | keepaliveReceive  deriving DecidableEq, Repr

end Sys2Proof
end

