-- ==== Sys2Proof/WellFormed.lean ====
section
/-!
DEFINITION. Which instruction words are well formed: the checks of R29 step 3 (RESFIELD) that do not depend on the
machine's state. The checks that do (registers outside the crew's allocation, R30) are made when the word runs.
-/

namespace Sys2Proof

/-- How a lane word uses one of its source fields (R22). -/
inductive SrcUse where
  /-- The field is not read and must hold 0. -/
  | unused
  /-- Every source code is accepted. -/
  | any
  /-- Every code but 277, because imm32 holds the word's own fields. -/
  | noImm
  /-- Every code but a latch (VSYNC, R163). -/
  | noLatch
  /-- "A snapshot register or a literal": codes 260-274, 275 and 277 (R22). -/
  | lit
  /-- The base of a global memory word, by its WA bit (R204). -/
  | base (wa : Bool)
  /-- A predicate number in bits [3:0] (R166, R169). -/
  | pred
  /-- 64-bit store data: an even register pair, a snapshot register or zero (R24). -/
  | pair
  deriving DecidableEq, Repr

/-- The destination classes of R23. -/
inductive DestClass where
  | vector | loaded | predicate | none
  deriving DecidableEq, Repr

/-- One source field obeys its use (R22, R204). -/
def SrcUse.ok : SrcUse → Src → Bool
  | .unused, .vreg n => n.val == 0
  | .unused, _ => false
  | .any, _ => true
  | .noImm, .imm => false
  | .noImm, _ => true
  | .noLatch, .latch _ => false
  | .noLatch, _ => true
  | .lit, .snap _ => true
  | .lit, .zero => true
  | .lit, .imm => true
  | .lit, _ => false
  | .base false, .snap _ => true
  | .base false, .zero => true
  | .base false, _ => false
  | .base true, .vreg n => n.val % 2 == 0
  | .base true, _ => false
  | .pred, .vreg n => n.val < 16
  | .pred, _ => false
  | .pair, .vreg n => n.val % 2 == 0
  | .pair, .snap _ => true
  | .pair, .zero => true
  | .pair, _ => false

/-- The destination fields obey the word's class (R21, R23). -/
def DestClass.ok (c : DestClass) (w : LaneWord) : Bool :=
  match c with
  | .vector => !w.ws || w.vd.val == 0
  | .loaded => !w.ws && w.ld.val == 0
  | .predicate => w.vd.val < 16 && !w.ws && w.ld.val == 0
  | .none => w.vd.val == 0 && !w.ws && w.ld.val == 0

/-- imm32 is 0 unless a source reads it (R21). -/
def LaneWord.immUnused (w : LaneWord) : Bool :=
  w.imm == 0#32 || w.a == .imm || w.b == .imm || w.c == .imm

/-- The guard fields of an unguardable word are 0 (R26). -/
def LaneWord.unguarded (w : LaneWord) : Bool := w.pg.val == 0 && !w.pn

/-- Class and sources together; `own` says that imm32 holds the word's own fields. -/
def LaneWord.shape (w : LaneWord) (cls : DestClass) (a b c : SrcUse) (own : Bool) : Bool :=
  cls.ok w && a.ok w.a && b.ok w.b && c.ok w.c && (own || w.immUnused)

/-- The field fn[hi:lo] as a number (R21). -/
def fnBits (fn : BitVec 9) (hi lo : Nat) : Nat := fn.toNat / 2 ^ lo % 2 ^ (hi + 1 - lo)

/-- The types of R24 that hold 64 bits. -/
def Ty.is64 (t : Ty) : Bool := t == .b64 || t == .i64
/-- `.b32` or `.i32` (R148). -/
def Ty.isInt32 (t : Ty) : Bool := t == .b32 || t == .i32
/-- FP32, FP16 or BF16 (R152). -/
def Ty.isFloat (t : Ty) : Bool := t == .f32 || t == .f16 || t == .bf16
/-- ty 2 to 7 (R154). -/
def Ty.isAnyFloat (t : Ty) : Bool := t.isFloat || t == .e4m3 || t == .e5m2 || t == .e2m1
/-- ty 0, 1, 8, 9, 10, 11 (R157). -/
def Ty.isIntElem (t : Ty) : Bool :=
  t.isInt32 || t == .b16 || t == .i16 || t == .b8 || t == .i8
/-- ty 0-6 and 8-11: one 32-bit register per lane in memory words (R209, R400). -/
def Ty.isMem32 (t : Ty) : Bool := t.isIntElem || (t.isAnyFloat && t != .e2m1)

/-- The type code of R24. -/
def Ty.code : Ty → Nat
  | .b32 => 0 | .i32 => 1 | .f32 => 2 | .f16 => 3 | .bf16 => 4 | .e4m3 => 5 | .e5m2 => 6 | .e2m1 => 7
  | .b16 => 8 | .i16 => 9 | .b8 => 10 | .i8 => 11 | .b64 => 12 | .i64 => 13 | .xa96 => 14

/-- The type of a code of R24; code 15 and above have none. -/
def Ty.ofCode : Nat → Option Ty
  | 0 => some .b32 | 1 => some .i32 | 2 => some .f32 | 3 => some .f16 | 4 => some .bf16 | 5 => some .e4m3
  | 6 => some .e5m2 | 7 => some .e2m1 | 8 => some .b16 | 9 => some .i16 | 10 => some .b8 | 11 => some .i8
  | 12 => some .b64 | 13 => some .i64 | 14 => some .xa96 | _ => none

/-- The modifier field of R147: RM at most `maxRm`, SEED only under SR, SAT only where allowed, fn[8] zero. -/
def fnRound (fn : BitVec 9) (maxRm : Nat) (sat : Bool) : Bool :=
  fnBits fn 2 0 ≤ maxRm && (sat || fnBits fn 3 3 == 0) && (fnBits fn 7 4 == 0 || fnBits fn 2 0 == 4) &&
    fnBits fn 8 8 == 0

/-- An integer word of R148. -/
def wfInt (w : LaneWord) (b c : SrcUse) : Bool :=
  w.shape .vector .any b c false && w.ty.isInt32 && w.fn == 0#9

/-- An arithmetic word of R152. -/
def wfFloat (w : LaneWord) (c : SrcUse) : Bool :=
  w.shape .vector .any .any c false && w.ty.isFloat && fnRound w.fn 4 false

/-- A function word of R155. -/
def wfFunction (w : LaneWord) : Bool :=
  w.shape .vector .any .unused .unused false && w.ty.isFloat && fnRound w.fn 3 false

/-- The shared checks of VFOLD and VSCAN (R161, R162), `excl` being the EXCL bit. -/
def wfFold (w : LaneWord) (excl : Bool) : Bool :=
  w.shape .vector .any .unused (if excl then .any else .unused) false && fnBits w.fn 8 8 == 0 &&
    ((w.ty.isInt32 && fnBits w.fn 3 0 ≤ 5 && fnBits w.fn 6 4 == 0) ||
     (w.ty.isFloat && fnBits w.fn 3 0 ≤ 2 && fnBits w.fn 6 4 ≤ 3))

/-- A word whose fields are all 0 but the opcode (R171 to R173). -/
def wfBare (w : LaneWord) : Bool :=
  w.unguarded && w.shape .none .unused .unused .unused true && w.ty == .b32 && w.fn == 0#9 && w.imm == 0#32

/-- A word whose only operand is "a snapshot register or a literal" in opA (R216, R408, R413, R414). -/
def wfLiteral (w : LaneWord) (cls : DestClass) (fnOk : Bool) : Bool :=
  w.shape cls .lit .unused .unused false && w.ty == .b32 && fnOk

/-- Number of slots of QPACK and QUNPK (R158). -/
def packSlots : Ty → Nat
  | .f16 => 2 | .bf16 => 2 | .e4m3 => 4 | .e5m2 => 4 | .e2m1 => 8 | _ => 0

/-- QPACK and QUNPK (R158). -/
def wfPack (w : LaneWord) (c : SrcUse) (sat : Bool) : Bool :=
  w.shape .vector .noImm .noImm c true && w.imm.toNat < packSlots w.ty && fnRound w.fn 4 sat

/-- A conversion word of R157: the target's class of types and the source's. -/
def wfConvert (w : LaneWord) (dst src : Ty → Bool) (sat : Bool) : Bool :=
  w.shape .vector .noImm .unused .unused true && dst w.ty &&
    (match Ty.ofCode w.imm.toNat with | some t => src t | none => false) && fnRound w.fn 4 sat

/-- SAT is allowed for the 8-bit targets only (R147, R157, R158). -/
def LaneWord.satTarget (w : LaneWord) : Bool := w.ty == .e4m3 || w.ty == .e5m2

/-- WA of a memory or remote word (R206, R400). -/
def LaneWord.wa (w : LaneWord) : Bool := w.fn.getLsbD 0

/-- A 64-bit type names an even vd (R24). -/
def LaneWord.evenVd (w : LaneWord) : Bool := !w.ty.is64 || w.vd.val % 2 == 0

/-- The use of a data operand B (R24, R203). -/
def LaneWord.dataUse (w : LaneWord) : SrcUse := if w.ty.is64 then .pair else .noImm

/-- A global memory word: base by WA, index C, displacement in imm32 (R203, R204). -/
def wfGlobal (w : LaneWord) (cls : DestClass) (b : SrcUse) : Bool :=
  w.shape cls (.base w.wa) b .noImm true

/-- P of VRDX and of VLD.xa96, fn[7:1] (R206). -/
def LaneWord.xaP (w : LaneWord) : Nat := fnBits w.fn 7 1

/-- The accepted pairs of tyA and tyB of MXMMA (R256). -/
def mxPair (a b : BitVec 4) : Bool :=
  (a.toNat ≤ 1 && b.toNat ≤ 1) || (a == 2#4 && b == 2#4) ||
  ((a == 2#4 || a == 3#4) && (b == 2#4 || b == 3#4)) || (a == 4#4 && b == 4#4) ||
  ((a == 5#4 || a == 6#4) && (b == 5#4 || b == 6#4))

/-- MX types of R28 (R71, R251). -/
def mxIsMx (t : BitVec 4) : Bool := t == 2#4 || t == 3#4

/-- MXMMA (R27, R71, R256). -/
def wfMxmma (w : MWord) : Bool :=
  w.tyC == 0#4 && w.tyD == 0#4 && mxPair w.tyA w.tyB && w.klen != 0#16 &&
    (!(mxIsMx w.tyA && mxIsMx w.tyB) || w.klen.toNat % 8 == 0) && (w.tyA != 4#4 || w.lvl == 0#31)

/-- DST of MXDRAIN, bits [25:24] (R261). -/
def MWord.dst (w : MWord) : Nat := w.lvl.toNat % 4
/-- SAT of MXDRAIN, bit [26] (R261). -/
def MWord.sat (w : MWord) : Bool := w.lvl.getLsbD 2
/-- SREG of MXDRAIN, bits [30:27] (R261). -/
def MWord.sreg (w : MWord) : Nat := w.lvl.toNat / 8 % 16

/-- MXDRAIN (R261). -/
def wfMxdrain (w : MWord) : Bool :=
  w.tyA == 0#4 && w.tyB == 0#4 &&
    ((w.tyC == 0#4 && (w.tyD == 0#4 || w.tyD == 1#4 || w.tyD == 4#4 || w.tyD == 5#4 || w.tyD == 6#4 || w.tyD == 7#4)) ||
     (w.tyC == 8#4 && w.tyD == 0#4)) &&
    w.dst != 3 && (!w.sat || (w.tyC == 0#4 && w.tyD.toNat ≤ 1)) && ((w.dst == 1) == (w.sreg != 0)) &&
    w.lvl.toNat / 128 == 0 && (w.dst == 0 || w.tA.val == 0) && (w.dst == 2 || w.vB.val == 0) &&
    w.vc.val == 0 && w.klen == 0#16

/-- MXZERO (R265). -/
def wfMxzero (w : MWord) : Bool :=
  w.tyA == 0#4 && w.tyB == 0#4 && w.tyD == 0#4 && w.vB.val == 0 && w.klen == 0#16 &&
    (if w.init then w.tyC == 0#4 && w.tA.val == 0 && w.vc.val == 0
     else w.tyC.toNat ≤ 8 && !mxIsMx w.tyC && (w.tyC != 4#4 || w.lvl == 0#31))

/-- MXSTAT (R266). -/
def wfMxstat (w : MWord) : Bool :=
  w.tyA == 0#4 && w.tyB == 0#4 && w.tyC == 0#4 && w.tyD == 0#4 && w.lvl == 0#31 && w.tA.val == 0 &&
    w.vc.val == 0 && w.klen == 0#16

/-- MXFENCE: every bit beyond the opcode is 0 (R255). -/
def wfMxfence (w : MWord) : Bool :=
  wfMxstat w && w.vB.val == 0 && !w.slot && !w.init && w.cc.val == 0

/-- The special-register indices listed in R116. -/
def specialListed (x : Nat) : Bool :=
  x ≤ 0x0D || (0x10 ≤ x && x ≤ 0x1D) || (0x20 ≤ x && x ≤ 0x4F)

/-- The checks of R29 step 3 that need only the word. -/
def Instr.wellFormed : Instr → Bool
  | .fenceWord _ k s => k.val ≤ 2 && s.val ≤ 4
  | .armc _ _ _ w k _ => k.val ≤ 2 && (if k.val == 0 then w.val ≤ 2 else w.val == 0)
  | .srd _ x => specialListed x.val
  | .swr _ x => specialListed x.val
  | .vadd w => wfInt w .any .unused
  | .vsub w => wfInt w .any .unused
  | .vmul w => wfInt w .any .unused
  | .vmulh w => wfInt w .any .unused
  | .vmad w => wfInt w .any .any
  | .vand w => wfInt w .any .unused
  | .vor w => wfInt w .any .unused
  | .vxor w => wfInt w .any .unused
  | .vshl w => wfInt w .any .unused
  | .vshr w => wfInt w .any .unused
  | .vmin w => wfInt w .any .unused
  | .vmax w => wfInt w .any .unused
  | .vabs w => wfInt w .unused .unused && w.ty == .i32
  | .vsel w => w.shape .vector .any .any .unused false && w.ty.isInt32 && fnBits w.fn 8 4 == 0
  | .vclz w => wfInt w .unused .unused
  | .vpopc w => wfInt w .unused .unused
  | .vbfe w => wfInt w .any .unused
  | .vbfi w => wfInt w .any .any
  | .vmov w => wfInt w .unused .unused
  | .vcmp w => w.shape .predicate .any .any .unused false && w.ty.isInt32 && w.fn.toNat ≤ 5
  | .vaddc w => wfInt w .any .any
  | .vneg w => wfInt w .unused .unused
  | .fadd w => wfFloat w .unused
  | .fsub w => wfFloat w .unused
  | .fmul w => wfFloat w .unused
  | .ffma w => wfFloat w .any
  | .fscale w => wfFloat w .unused
  | .fmin w => w.shape .vector .any .any .unused false && w.ty.isFloat && w.fn == 0#9
  | .fmax w => w.shape .vector .any .any .unused false && w.ty.isFloat && w.fn == 0#9
  | .fcmp w => w.shape .predicate .any .any .unused false && w.ty.isAnyFloat && fnBits w.fn 8 3 == 0
  | .frcp w => wfFunction w
  | .frsq w => wfFunction w
  | .fsqrt w => wfFunction w
  | .fexp2 w => wfFunction w
  | .flog2 w => wfFunction w
  | .fsin w => wfFunction w
  | .fcos w => wfFunction w
  | .fclass w => w.shape .vector .any .unused .unused false && w.ty.isAnyFloat && w.fn == 0#9
  | .fcvt w => wfConvert w Ty.isAnyFloat Ty.isAnyFloat w.satTarget
  | .frnd w => w.shape .vector .any .unused .unused false && w.ty.isFloat && fnRound w.fn 4 false
  | .ftoi w => wfConvert w Ty.isIntElem Ty.isAnyFloat false
  | .itof w => wfConvert w Ty.isAnyFloat Ty.isIntElem w.satTarget
  | .qpack w => wfPack w .noImm w.satTarget
  | .qunpk w => wfPack w .unused false
  | .vshfl w => w.shape .vector .any .any .any false && w.ty == .b32 && fnBits w.fn 8 2 == 0
  | .vvote w => w.shape .predicate .any .unused .unused false && w.ty == .b32 && w.fn.toNat ≤ 2
  | .vfold w => wfFold w false && fnBits w.fn 7 7 == 0
  | .vscan w => wfFold w (w.fn.getLsbD 7)
  | .vsync w => w.shape .none .noLatch .noLatch .unused false && w.ty == .b32 && w.fn == 0#9
  | .plog w => w.shape .predicate .pred .pred .pred false && w.ty == .b32 && fnBits w.fn 8 8 == 0
  | .pset w => w.shape .predicate .any .unused .unused false && w.ty == .b32 && w.fn == 0#9
  | .execrd w => w.shape .vector .unused .unused .unused false && w.ty == .b32 && fnBits w.fn 8 1 == 0
  | .execwr w => w.shape .none .pred .unused .unused false && w.ty == .b32 && w.fn == 0#9
  | .brl w => w.shape .none .unused .unused .unused true && w.ty == .b32 && w.fn == 0#9
  | .joinWord w => wfBare w
  | .lend w => wfBare w
  | .lyield w => wfBare w
  | .lnop w => wfBare w
  | .ltrap w => w.shape .none .unused .unused .unused true && w.ty == .b32 && w.fn == 0#9 && w.imm.toNat < 2 ^ 19
  | .lwaitc w => w.unguarded && wfLiteral w .none (fnBits w.fn 8 4 == 0)
  | .batch w => w.unguarded && w.shape .none .unused .unused .unused false && w.ty == .b32 && fnBits w.fn 8 3 == 0
  | .vld w =>
    wfGlobal w .loaded .unused && w.evenVd &&
      (if w.ty == .xa96 then w.xaP ≤ 95 && fnBits w.fn 8 8 == 0
       else (w.ty.isMem32 || w.ty.is64) && fnBits w.fn 8 3 == 0)
  | .vst w => wfGlobal w .none w.dataUse && (w.ty.isMem32 || w.ty.is64) && fnBits w.fn 8 3 == 0
  | .vlds w =>
    w.shape .loaded .noImm .unused .noImm true && w.evenVd && (w.ty.isMem32 || w.ty.is64) && !w.wa &&
      fnBits w.fn 8 4 == 0
  | .vsts w =>
    w.shape .none .noImm w.dataUse .noImm true && (w.ty.isMem32 || w.ty.is64) && !w.wa && fnBits w.fn 8 4 == 0
  | .vldk w => wfGlobal w .loaded .unused && w.ty.isMem32 && fnBits w.fn 8 3 == 0
  | .vatom w => wfGlobal w .loaded w.dataUse && w.evenVd && (w.ty.isInt32 || w.ty.is64)
  | .vatomNoReturn w =>
    w.vd.val == 0 && w.ld.val == 0 && w.ws && SrcUse.ok (.base w.wa) w.a && w.dataUse.ok w.b && SrcUse.noImm.ok w.c &&
      (w.ty.isInt32 || w.ty.is64)
  | .vcas w => wfGlobal w .loaded w.dataUse && w.evenVd && (w.ty.isInt32 || w.ty.is64) && fnBits w.fn 6 4 == 0
  | .vred w =>
    wfGlobal w .none .noImm && (w.ty.isInt32 || w.ty == .f32) && fnBits w.fn 3 3 == 0 && fnBits w.fn 5 4 ≤ 2 &&
      (if w.ty == .f32 then fnBits w.fn 8 6 ≤ 3 else fnBits w.fn 8 6 == 0)
  | .vrdx w => wfGlobal w .none .noImm && (w.ty == .i32 || w.ty.isFloat) && w.xaP ≤ 95 && fnBits w.fn 8 8 == 0
  | .vpref w => wfGlobal w .none .unused && w.ty == .b32 && fnBits w.fn 8 3 == 0
  | .cpy w => wfLiteral w .none (w.fn == 0#9)
  | .cpym w => wfLiteral w .none (w.fn == 0#9)
  | .cpyt w => wfLiteral w .none (w.fn == 0#9)
  | .wlapp w => w.shape .none .any .any .unused true && w.ty == .b32 && w.fn == 0#9 && w.imm == 0#32
  | .mxmma w => wfMxmma w
  | .mxdrain w => wfMxdrain w
  | .mxzero w => wfMxzero w
  | .mxfence w => wfMxfence w
  | .mxstat w => wfMxstat w
  | .rput w => wfGlobal w .none .noImm && w.ty.isMem32 && fnBits w.fn 8 6 == 0
  | .rget w => wfGlobal w .loaded .unused && w.ty.isMem32 && fnBits w.fn 8 6 == 0
  | .rred w =>
    wfGlobal w .none .noImm && (w.ty.isInt32 || w.ty == .f32) && fnBits w.fn 7 6 ≤ 2 &&
      (w.ty == .f32 || fnBits w.fn 8 8 == 0)
  | .coll w =>
    wfGlobal w .none .noImm && (w.ty == .f32 || w.ty == .bf16 || w.ty == .e4m3 || w.ty == .e2m1) &&
      fnBits w.fn 8 7 == 0 && w.imm.toNat < 16 && (w.ty != .f32 || fnBits w.fn 6 6 == 0) &&
      (fnBits w.fn 6 6 == 1 || w.imm == 0#32)
  | .cwin w => wfLiteral w .none (w.fn == 0#9)
  | .cstat w => wfLiteral w .loaded (w.fn == 0#9)
  | .cabort w => wfLiteral w .none (fnBits w.fn 8 1 == 0)
  | _ => true

end Sys2Proof
end

