-- ==== Sys2Proof/Decode.lean ====
section
/-!
DEFINITION. Decoding (R19 to R29) and, after it, encoding from the same tables.
A word is a natural number whose bit i is the word's bit i (R12); fields are cut out by division and remainder. Decoding is
total: a word that is no instruction is rejected with the reason of R29. Commands in submission queues (R339) and
mailbox requests (R388) are decoded here too.
-/

namespace Sys2Proof

/-- The field of `n` bits that starts at bit `lo` (R12). -/
def fld (w lo n : Nat) : Nat := w / 2 ^ lo % 2 ^ n

/-- What a word decodes to: an instruction, or the reason it is none. -/
inductive Decoded where
  | ok (i : Instr)
  | bad (r : Reject)
  deriving DecidableEq, Repr

/-- The scalar register named at bit `lo`. -/
def sregAt (w lo : Nat) : SReg := Fin.ofNat 64 (w / 2 ^ lo)
/-- imm13 or disp13 (R19). -/
def immAt (w : Nat) : Imm13 := BitVec.ofNat 13 w

/-- Accepts an instruction when its reserved fields hold 0 and its own checks pass (R29 step 3). -/
def fieldsOk (clear : Bool) (i : Instr) : Decoded := if clear && i.wellFormed then .ok i else .bad .field

/-- The ALU group (R20, R120): fn 23 to 127 are not listed. -/
def decodeAlu (w : Nat) : Decoded :=
  let d := sregAt w 19
  let a := sregAt w 13
  let b := sregAt w 7
  match fld w 0 7 with
  | 0 => .ok (.add d a b)
  | 1 => .ok (.sub d a b)
  | 2 => .ok (.andd d a b)
  | 3 => .ok (.orr d a b)
  | 4 => .ok (.xor d a b)
  | 5 => .ok (.shl d a b)
  | 6 => .ok (.shr d a b)
  | 7 => .ok (.sra d a b)
  | 8 => .ok (.slt d a b)
  | 9 => .ok (.sltu d a b)
  | 10 => .ok (.min d a b)
  | 11 => .ok (.max d a b)
  | 12 => .ok (.minu d a b)
  | 13 => .ok (.maxu d a b)
  | 14 => .ok (.mul d a b)
  | 15 => .ok (.mulh d a b)
  | 16 => .ok (.mulhu d a b)
  | 17 => .ok (.div d a b)
  | 18 => .ok (.divu d a b)
  | 19 => .ok (.rem d a b)
  | 20 => .ok (.remu d a b)
  | 21 => .ok (.addw d a b)
  | 22 => .ok (.subw d a b)
  | _ => .bad .function

/-- The UNARY group (R20, R123): fn 8 to 127 are not listed; sb must be 0. -/
def decodeUnary (w : Nat) : Decoded :=
  let d := sregAt w 19
  let a := sregAt w 13
  let z := fld w 7 6 == 0
  match fld w 0 7 with
  | 0 => fieldsOk z (.clz d a)
  | 1 => fieldsOk z (.ctz d a)
  | 2 => fieldsOk z (.popc d a)
  | 3 => fieldsOk z (.brev d a)
  | 4 => fieldsOk z (.sextb d a)
  | 5 => fieldsOk z (.sexth d a)
  | 6 => fieldsOk z (.sextw d a)
  | 7 => fieldsOk z (.zextw d a)
  | _ => .bad .function

/-- A scalar word (R19, R20). -/
def decodeScalar (w : Nat) : Decoded :=
  let d := sregAt w 19
  let a := sregAt w 13
  let b := sregAt w 7
  let i := immAt w
  match fld w 25 7 with
  | 0x01 => decodeAlu w
  | 0x02 => .ok (.addi d a i)
  | 0x03 => .ok (.andi d a i)
  | 0x04 => .ok (.ori d a i)
  | 0x05 => .ok (.xori d a i)
  | 0x06 => fieldsOk (fld w 6 7 == 0) (.shli d a (Fin.ofNat 64 w))
  | 0x07 => fieldsOk (fld w 6 7 == 0) (.shri d a (Fin.ofNat 64 w))
  | 0x08 => fieldsOk (fld w 6 7 == 0) (.srai d a (Fin.ofNat 64 w))
  | 0x09 => .ok (.slti d a i)
  | 0x0A => .ok (.sltiu d a i)
  | 0x0B => .ok (.shi d (BitVec.ofNat 19 w))
  | 0x0C => decodeUnary w
  | 0x0D => fieldsOk (fld w 0 1 == 0) (.madd d a b (sregAt w 1))
  | 0x0E => fieldsOk (fld w 3 4 == 0) (.addsh d a b (Fin.ofNat 8 w))
  | 0x0F => fieldsOk (fld w 0 1 == 0) (.sel d a b (sregAt w 1))
  | 0x10 => .ok (.beq d a i)
  | 0x11 => .ok (.bne d a i)
  | 0x12 => .ok (.blt d a i)
  | 0x13 => .ok (.bge d a i)
  | 0x14 => .ok (.bltu d a i)
  | 0x15 => .ok (.bgeu d a i)
  | 0x16 => .ok (.bra (BitVec.ofNat 25 w))
  | 0x17 => .ok (.call (BitVec.ofNat 25 w))
  | 0x18 => .ok (.jmpr d a i)
  | 0x19 => fieldsOk (fld w 13 6 == 0) (.loopDec d i)
  | 0x20 => .ok (.sldb d a i)
  | 0x21 => .ok (.sldh d a i)
  | 0x22 => .ok (.sldw d a i)
  | 0x23 => .ok (.sldd d a i)
  | 0x24 => .ok (.sstb d a i)
  | 0x25 => .ok (.ssth d a i)
  | 0x26 => .ok (.sstw d a i)
  | 0x27 => .ok (.sstd d a i)
  | 0x28 => .ok (.sldk d a i)
  | 0x29 => .ok (.satom d a b (fld w 6 1 == 1) (Fin.ofNat 4 (fld w 4 2)) (fld w 3 1 == 1) (Fin.ofNat 8 w))
  | 0x2A => fieldsOk (fld w 0 3 == 0) (.scas d a b (fld w 6 1 == 1) (Fin.ofNat 4 (fld w 4 2)) (fld w 3 1 == 1))
  | 0x30 => fieldsOk (fld w 8 5 == 0 && fld w 13 6 == 0) (.srd d (Fin.ofNat 256 w))
  | 0x31 => fieldsOk (fld w 8 5 == 0 && fld w 19 6 == 0) (.swr a (Fin.ofNat 256 w))
  | 0x38 => fieldsOk (fld w 23 2 == 0) (.lrun (fld w 22 1 == 1) (BitVec.ofNat 22 w))
  | 0x39 => fieldsOk (fld w 23 2 == 0 && fld w 19 3 == 0 && fld w 0 13 == 0) (.lrunr (fld w 22 1 == 1) a)
  | 0x3A => fieldsOk (fld w 0 25 == 0) .lsync
  | 0x3B => fieldsOk (fld w 13 6 == 0 && fld w 4 9 == 0) (.sgetp d (Fin.ofNat 16 w))
  | 0x3C => fieldsOk (fld w 8 5 == 0) (.sgetv d a (Fin.ofNat 256 w))
  | 0x40 => .ok (.bara d a i)
  | 0x41 => .ok (.barw d a i)
  | 0x42 => .ok (.baraw d a i)
  | 0x43 => fieldsOk (fld w 19 6 == 0 && fld w 0 7 == 0) (.barinit a b)
  | 0x44 => fieldsOk (fld w 19 6 == 0 && fld w 7 6 == 0 && fld w 6 1 == 0) (.qpush a (Fin.ofNat 64 w))
  | 0x45 => fieldsOk (fld w 13 6 == 0 && fld w 6 7 == 0) (.qpop d (Fin.ofNat 64 w))
  | 0x46 =>
    if fld w 6 1 == 0 then fieldsOk (fld w 7 6 == 0) (.qtryPush d a (Fin.ofNat 64 w))
    else fieldsOk (fld w 7 6 == 0 && fld w 13 6 == 0) (.qtryPop d (Fin.ofNat 64 w))
  | 0x47 => fieldsOk (fld w 19 6 == 0 && fld w 6 1 == 0) (.qinit a b (Fin.ofNat 64 w))
  | 0x48 => fieldsOk (fld w 19 6 == 0 && fld w 3 10 == 0) (.waitc a (Fin.ofNat 8 w))
  | 0x49 => fieldsOk true (.armc d a b (Fin.ofNat 4 (fld w 5 2)) (Fin.ofNat 4 (fld w 3 2)) (Fin.ofNat 8 w))
  | 0x4A => fieldsOk (fld w 22 3 == 0) (.cyield (Fin.ofNat 8 (fld w 19 3)) a i)
  | 0x4B => fieldsOk (fld w 0 25 == 0) .yield
  | 0x4C => fieldsOk (fld w 0 19 == 0) (.pchk d)
  | 0x4D => fieldsOk (fld w 0 25 == 0) .pyield
  | 0x4E => fieldsOk (fld w 0 25 == 0) .endCrew
  | 0x50 => fieldsOk (fld w 6 19 == 0) (.fenceWord (fld w 5 1 == 1) (Fin.ofNat 4 (fld w 3 2)) (Fin.ofNat 8 w))
  | 0x51 => fieldsOk (fld w 0 25 == 0) .fencep
  | 0x52 => fieldsOk (fld w 0 25 == 0) .cfence
  | 0x53 => fieldsOk (fld w 0 25 == 0) .rflush
  | 0x58 => fieldsOk (fld w 8 5 == 0) (.wlpop d a (Fin.ofNat 256 w))
  | 0x59 => fieldsOk (fld w 8 5 == 0 && fld w 19 6 == 0) (.wldone a (Fin.ofNat 256 w))
  | 0x60 => fieldsOk (fld w 19 6 == 0) (.trap (BitVec.ofNat 19 w))
  | 0x61 => fieldsOk (fld w 19 6 == 0) (.bkpt (BitVec.ofNat 19 w))
  | 0x62 => .ok (.sysc d (BitVec.ofNat 19 w))
  | 0x63 => fieldsOk (fld w 0 25 == 0) .rte
  | op => if 0x70 ≤ op then .ok (.gatedScalarOpcode (Fin.ofNat 16 op) (BitVec.ofNat 25 w)) else .bad .opcode

/-- A 9-bit source code (R22); codes 279 to 511 are reserved. -/
def srcOfCode (c : Nat) : Option Src :=
  if c < 256 then some (.vreg (Fin.ofNat 256 c))
  else if c < 260 then some (.latch (Fin.ofNat 4 (c - 256)))
  else if c < 275 then some (.snap (Fin.ofNat 15 (c - 260)))
  else if c == 275 then some .zero
  else if c == 276 then some .laneId
  else if c == 277 then some .imm
  else if c == 278 then some .crewId
  else none

/-- The fields of a lane word (R21), where its source codes and its type have a meaning. -/
def laneFields (w : Nat) : Option LaneWord :=
  match srcOfCode (fld w 19 9), srcOfCode (fld w 28 9), srcOfCode (fld w 37 9), Ty.ofCode (fld w 51 4) with
  | some a, some b, some c, some t =>
    some { vd := Fin.ofNat 256 (fld w 8 8), ws := fld w 16 1 == 1, ld := Fin.ofNat 4 (fld w 17 2), a := a, b := b, c := c,
           pg := Fin.ofNat 16 (fld w 46 4), pn := fld w 50 1 == 1, ty := t, fn := BitVec.ofNat 9 (fld w 55 9),
           imm := BitVec.ofNat 32 (fld w 64 32) }
  | _, _, _, _ => none

/-- The fields of an M word (R27), where its reserved bits [72:69] are 0. -/
def mFields (w : Nat) : Option MWord :=
  if fld w 69 4 == 0 then
    some { tyA := BitVec.ofNat 4 (fld w 8 4), tyB := BitVec.ofNat 4 (fld w 12 4), tyC := BitVec.ofNat 4 (fld w 16 4),
           tyD := BitVec.ofNat 4 (fld w 20 4), lvl := BitVec.ofNat 31 (fld w 24 31), tA := Fin.ofNat 16 (fld w 55 4),
           vB := Fin.ofNat 256 (fld w 59 8), slot := fld w 67 1 == 1, init := fld w 68 1 == 1,
           vc := Fin.ofNat 16 (fld w 73 4), cc := Fin.ofNat 8 (fld w 77 3), klen := BitVec.ofNat 16 (fld w 80 16) }
  else none

/-- The instruction of an assigned lane opcode that uses the format of R21 (R25). -/
def laneOpcode (op : Nat) (w : LaneWord) : Option Instr :=
  match op with
  | 0x01 => some (.vadd w)
  | 0x02 => some (.vsub w)
  | 0x03 => some (.vmul w)
  | 0x04 => some (.vmulh w)
  | 0x05 => some (.vmad w)
  | 0x06 => some (.vand w)
  | 0x07 => some (.vor w)
  | 0x08 => some (.vxor w)
  | 0x09 => some (.vshl w)
  | 0x0A => some (.vshr w)
  | 0x0B => some (.vmin w)
  | 0x0C => some (.vmax w)
  | 0x0D => some (.vabs w)
  | 0x0E => some (.vsel w)
  | 0x0F => some (.vclz w)
  | 0x10 => some (.vpopc w)
  | 0x11 => some (.vbfe w)
  | 0x12 => some (.vbfi w)
  | 0x13 => some (.vmov w)
  | 0x14 => some (.vcmp w)
  | 0x15 => some (.vaddc w)
  | 0x16 => some (.vneg w)
  | 0x20 => some (.fadd w)
  | 0x21 => some (.fsub w)
  | 0x22 => some (.fmul w)
  | 0x23 => some (.ffma w)
  | 0x24 => some (.fmin w)
  | 0x25 => some (.fmax w)
  | 0x26 => some (.fcmp w)
  | 0x27 => some (.frcp w)
  | 0x28 => some (.frsq w)
  | 0x29 => some (.fsqrt w)
  | 0x2A => some (.fexp2 w)
  | 0x2B => some (.flog2 w)
  | 0x2C => some (.fsin w)
  | 0x2D => some (.fcos w)
  | 0x2E => some (.fscale w)
  | 0x2F => some (.fclass w)
  | 0x30 => some (.fcvt w)
  | 0x31 => some (.frnd w)
  | 0x32 => some (.ftoi w)
  | 0x33 => some (.itof w)
  | 0x34 => some (.qpack w)
  | 0x35 => some (.qunpk w)
  | 0x40 => some (.vshfl w)
  | 0x41 => some (.vvote w)
  | 0x42 => some (.vfold w)
  | 0x43 => some (.vscan w)
  | 0x44 => some (.vsync w)
  | 0x48 => some (.plog w)
  | 0x49 => some (.pset w)
  | 0x4A => some (.execrd w)
  | 0x4B => some (.execwr w)
  | 0x50 => some (.brl w)
  | 0x51 => some (.joinWord w)
  | 0x52 => some (.lend w)
  | 0x53 => some (.lyield w)
  | 0x54 => some (.lnop w)
  | 0x55 => some (.ltrap w)
  | 0x56 => some (.lwaitc w)
  | 0x57 => some (.batch w)
  | 0x60 => some (.vld w)
  | 0x61 => some (.vst w)
  | 0x62 => some (.vlds w)
  | 0x63 => some (.vsts w)
  | 0x64 => some (.vldk w)
  | 0x65 => some (if w.ws then .vatomNoReturn w else .vatom w)
  | 0x66 => some (.vcas w)
  | 0x67 => some (.vred w)
  | 0x68 => some (.vrdx w)
  | 0x69 => some (.vpref w)
  | 0x70 => some (.cpy w)
  | 0x71 => some (.cpym w)
  | 0x72 => some (.cpyt w)
  | 0x73 => some (.wlapp w)
  | 0xF0 => some (.rput w)
  | 0xF1 => some (.rget w)
  | 0xF2 => some (.rred w)
  | 0xF3 => some (.coll w)
  | 0xF4 => some (.cwin w)
  | 0xF5 => some (.cstat w)
  | 0xF6 => some (.cabort w)
  | _ => none

/-- The instruction of an M opcode (R27). -/
def mOpcode (op : Nat) (w : MWord) : Option Instr :=
  match op with
  | 0xE0 => some (.mxmma w)
  | 0xE1 => some (.mxdrain w)
  | 0xE2 => some (.mxzero w)
  | 0xE3 => some (.mxfence w)
  | 0xE4 => some (.mxstat w)
  | _ => none

/-- The opcodes of R25 that use the format of R21. -/
def laneAssigned (op : Nat) : Bool :=
  (0x01 ≤ op && op ≤ 0x16) || (0x20 ≤ op && op ≤ 0x35) || (0x40 ≤ op && op ≤ 0x44) || (0x48 ≤ op && op ≤ 0x4B) ||
  (0x50 ≤ op && op ≤ 0x57) || (0x60 ≤ op && op ≤ 0x69) || (0x70 ≤ op && op ≤ 0x73) || (0xF0 ≤ op && op ≤ 0xF6)

/-- A lane word (R21 to R29): opcode first, then the reserved encodings. -/
def decodeLane (w : Nat) : Decoded :=
  let op := fld w 0 8
  if laneAssigned op then
    match laneFields w with
    | some f => match laneOpcode op f with
      | some i => fieldsOk true i
      | none => .bad .opcode
    | none => .bad .field
  else if 0xE0 ≤ op && op ≤ 0xE4 then
    match mFields w with
    | some f => match mOpcode op f with
      | some i => fieldsOk true i
      | none => .bad .opcode
    | none => .bad .field
  else if 0xC0 ≤ op && op ≤ 0xDF then .ok (.gatedLaneOpcode (Fin.ofNat 32 op) (BitVec.ofNat 88 (w / 2 ^ 8)))
  else .bad .opcode

/-- The instruction of a rejected word, so that every fetched word has one (R29). -/
def rejected (lane : Bool) (w : Nat) (r : Reject) : Instr := .undecodableWord lane (BitVec.ofNat 96 w) r

/-- The instruction that a fetched scalar word runs as. -/
def scalarInstr (w : Nat) : Instr :=
  match decodeScalar w with
  | .ok i => i
  | .bad r => rejected false w r

/-- The instruction that a fetched lane word runs as. -/
def laneInstr (w : Nat) : Instr :=
  match decodeLane w with
  | .ok i => i
  | .bad r => rejected true w r

/-- The little-endian number of a list of bytes (R12). -/
def leNat : List Byte → Nat
  | [] => 0
  | b :: bs => b.toNat + 256 * leNat bs

/-- `n` bytes of a number, least significant first (R12). -/
def leBytes : Nat → Nat → List Byte
  | 0, _ => []
  | n + 1, x => BitVec.ofNat 8 x :: leBytes n (x / 256)

/-- The bytes at `[off, off + n)` of a structure, as a little-endian number. -/
def leAt (bs : List Byte) (off n : Nat) : Nat := leNat ((bs.drop off).take n)

/-- A submission-queue command of 64 bytes (R339). An unknown KIND, a nonzero reserved field, a nonzero B in a LAUNCH or a
misaligned A is a malformed command (R346, reason 8). -/
def decodeCommand (dev : Fin 3) (q : Nat) (bs : List Byte) : Instr :=
  let a := leAt bs 8 8
  let b := leAt bs 16 8
  let clear := leAt bs 1 7 == 0 && leAt bs 24 40 == 0
  match leAt bs 0 1 with
  | 1 => if clear && b == 0 && a % 128 == 0 then .launchCmd dev q (BitVec.ofNat 64 a) else .malformedCommand dev q bs
  | 2 => if clear && a % 8 == 0 then .waitCmd dev q (BitVec.ofNat 64 a) (BitVec.ofNat 64 b) else .malformedCommand dev q bs
  | 3 => if clear && a % 8 == 0 then .signalCmd dev q (BitVec.ofNat 64 a) (BitVec.ofNat 64 b)
         else .malformedCommand dev q bs
  | _ => .malformedCommand dev q bs

/-- The n-th operand of a mailbox request (R388): 8 bytes each after the code and the tag. -/
def mboxOperand (bs : List Byte) (n : Nat) : W64 := BitVec.ofNat 64 (leAt bs (8 + 8 * n) 8)

/-- A mailbox request (R388): a 4-byte code, a 4-byte tag, then its operands; the layout has room for 31. -/
def decodeRequest (fn : Fin 3) (bs : List Byte) : Request :=
  { fn := fn, code := BitVec.ofNat 32 (leAt bs 0 4), tag := BitVec.ofNat 32 (leAt bs 4 4),
    ops := (List.range 31).map (mboxOperand bs) }

/-- The instruction of a mailbox code (R388); a code that is not listed is a malformed request. -/
def mailboxInstr (code : Nat) : Instr :=
  match code with
  | 1 => .createContext
  | 2 => .destroyContext
  | 3 => .mapPages
  | 4 => .unmapPages
  | 5 => .protectPages
  | 6 => .resolvePage
  | 7 => .translatePage
  | 8 => .respondReq
  | 9 => .plantWord
  | 10 => .unplantWord
  | 11 => .debugReq
  | 12 => .attest
  | 13 => .fwStage
  | 14 => .fwActivate
  | 15 => .pwrcap
  | 16 => .fabricConfig
  | 17 => .gangArm
  | 18 => .gangStart
  | 19 => .deviceInit
  | _ => .malformedMailboxRequest

/-- The instruction the decoder reads from the bits `w` of an instruction of `nbits` bits: 32 for a scalar word, 96 for a
lane word, whose three 32-bit words lie first word lowest (R12, R19, R21), 512 for a command of queue 0 of device 0. -/
def decodeTableWord (nbits w : Nat) : Option Instr :=
  if nbits ≤ 32 then
    match decodeScalar (leNat (leBytes 4 w)) with
    | .ok i => some i
    | .bad _ => none
  else if nbits ≤ 96 then
    match decodeLane (leNat (leBytes 12 w)) with
    | .ok i => some i
    | .bad _ => none
  else some (decodeCommand 0 0 (leBytes 64 w))

/-! Encoding, from the same tables. -/

/-- Format S-R (R19). -/
def encR (op : Nat) (d a b : SReg) (fn : Nat) : Nat :=
  op * 2 ^ 25 + d.val * 2 ^ 19 + a.val * 2 ^ 13 + b.val * 2 ^ 7 + fn
/-- Formats S-I and S-B (R19): two registers and 13 bits. -/
def encI (op : Nat) (d a : SReg) (i : Nat) : Nat := op * 2 ^ 25 + d.val * 2 ^ 19 + a.val * 2 ^ 13 + i
/-- Formats S-J and S-L (R19): 25 bits. -/
def encJ (op i : Nat) : Nat := op * 2 ^ 25 + i
/-- Format S-U (R19): a register and 19 bits. -/
def encU (op : Nat) (d : SReg) (i : Nat) : Nat := op * 2 ^ 25 + d.val * 2 ^ 19 + i
/-- The fn field of SATOM and SCAS (R134). -/
def encAtom (ord : Bool) (scope : Fin 4) (w : Bool) (op : Nat) : Nat :=
  ord.toNat * 64 + scope.val * 16 + w.toNat * 8 + op

/-- The 9-bit code of a source (R22). -/
def Src.code : Src → Nat
  | .vreg n => n.val
  | .latch n => 256 + n.val
  | .snap n => 260 + n.val
  | .zero => 275
  | .laneId => 276
  | .imm => 277
  | .crewId => 278

/-- A lane word of the format of R21. -/
def encLane (op : Nat) (w : LaneWord) : Nat :=
  op + w.vd.val * 2 ^ 8 + w.ws.toNat * 2 ^ 16 + w.ld.val * 2 ^ 17 + w.a.code * 2 ^ 19 + w.b.code * 2 ^ 28 +
    w.c.code * 2 ^ 37 + w.pg.val * 2 ^ 46 + w.pn.toNat * 2 ^ 50 + w.ty.code * 2 ^ 51 + w.fn.toNat * 2 ^ 55 +
    w.imm.toNat * 2 ^ 64

/-- An M word (R27). -/
def encM (op : Nat) (w : MWord) : Nat :=
  op + w.tyA.toNat * 2 ^ 8 + w.tyB.toNat * 2 ^ 12 + w.tyC.toNat * 2 ^ 16 + w.tyD.toNat * 2 ^ 20 + w.lvl.toNat * 2 ^ 24 +
    w.tA.val * 2 ^ 55 + w.vB.val * 2 ^ 59 + w.slot.toNat * 2 ^ 67 + w.init.toNat * 2 ^ 68 + w.vc.val * 2 ^ 73 +
    w.cc.val * 2 ^ 77 + w.klen.toNat * 2 ^ 80

/-- The words of an instruction: the 32-bit scalar word or the 96-bit lane word as a number, with its length in bits. The
steps of the other agents have no word. -/
def encode : Instr → Option (Nat × Nat)
  | .add d a b => some (32, encR 1 d a b 0)
  | .sub d a b => some (32, encR 1 d a b 1)
  | .andd d a b => some (32, encR 1 d a b 2)
  | .orr d a b => some (32, encR 1 d a b 3)
  | .xor d a b => some (32, encR 1 d a b 4)
  | .shl d a b => some (32, encR 1 d a b 5)
  | .shr d a b => some (32, encR 1 d a b 6)
  | .sra d a b => some (32, encR 1 d a b 7)
  | .slt d a b => some (32, encR 1 d a b 8)
  | .sltu d a b => some (32, encR 1 d a b 9)
  | .min d a b => some (32, encR 1 d a b 10)
  | .max d a b => some (32, encR 1 d a b 11)
  | .minu d a b => some (32, encR 1 d a b 12)
  | .maxu d a b => some (32, encR 1 d a b 13)
  | .mul d a b => some (32, encR 1 d a b 14)
  | .mulh d a b => some (32, encR 1 d a b 15)
  | .mulhu d a b => some (32, encR 1 d a b 16)
  | .div d a b => some (32, encR 1 d a b 17)
  | .divu d a b => some (32, encR 1 d a b 18)
  | .rem d a b => some (32, encR 1 d a b 19)
  | .remu d a b => some (32, encR 1 d a b 20)
  | .addw d a b => some (32, encR 1 d a b 21)
  | .subw d a b => some (32, encR 1 d a b 22)
  | .addi d a i => some (32, encI 0x02 d a i.toNat)
  | .andi d a i => some (32, encI 0x03 d a i.toNat)
  | .ori d a i => some (32, encI 0x04 d a i.toNat)
  | .xori d a i => some (32, encI 0x05 d a i.toNat)
  | .slti d a i => some (32, encI 0x09 d a i.toNat)
  | .sltiu d a i => some (32, encI 0x0A d a i.toNat)
  | .beq d a i => some (32, encI 0x10 d a i.toNat)
  | .bne d a i => some (32, encI 0x11 d a i.toNat)
  | .blt d a i => some (32, encI 0x12 d a i.toNat)
  | .bge d a i => some (32, encI 0x13 d a i.toNat)
  | .bltu d a i => some (32, encI 0x14 d a i.toNat)
  | .bgeu d a i => some (32, encI 0x15 d a i.toNat)
  | .jmpr d a i => some (32, encI 0x18 d a i.toNat)
  | .sldb d a i => some (32, encI 0x20 d a i.toNat)
  | .sldh d a i => some (32, encI 0x21 d a i.toNat)
  | .sldw d a i => some (32, encI 0x22 d a i.toNat)
  | .sldd d a i => some (32, encI 0x23 d a i.toNat)
  | .sstb d a i => some (32, encI 0x24 d a i.toNat)
  | .ssth d a i => some (32, encI 0x25 d a i.toNat)
  | .sstw d a i => some (32, encI 0x26 d a i.toNat)
  | .sstd d a i => some (32, encI 0x27 d a i.toNat)
  | .sldk d a i => some (32, encI 0x28 d a i.toNat)
  | .bara d a i => some (32, encI 0x40 d a i.toNat)
  | .barw d a i => some (32, encI 0x41 d a i.toNat)
  | .baraw d a i => some (32, encI 0x42 d a i.toNat)
  | .shli d a k => some (32, encI 6 d a k.val)
  | .shri d a k => some (32, encI 7 d a k.val)
  | .srai d a k => some (32, encI 8 d a k.val)
  | .shi d i => some (32, encU 0x0B d i.toNat)
  | .clz d a => some (32, encR 0x0C d a 0 0)
  | .ctz d a => some (32, encR 0x0C d a 0 1)
  | .popc d a => some (32, encR 0x0C d a 0 2)
  | .brev d a => some (32, encR 0x0C d a 0 3)
  | .sextb d a => some (32, encR 0x0C d a 0 4)
  | .sexth d a => some (32, encR 0x0C d a 0 5)
  | .sextw d a => some (32, encR 0x0C d a 0 6)
  | .zextw d a => some (32, encR 0x0C d a 0 7)
  | .madd d a b c => some (32, encR 0x0D d a b (c.val * 2))
  | .addsh d a b k => some (32, encR 0x0E d a b k.val)
  | .sel d a b c => some (32, encR 0x0F d a b (c.val * 2))
  | .bra i => some (32, encJ 0x16 i.toNat)
  | .call i => some (32, encJ 0x17 i.toNat)
  | .loopDec a i => some (32, encI 0x19 a 0 i.toNat)
  | .satom d a b o s w p => some (32, encR 0x29 d a b (encAtom o s w p.val))
  | .scas d a b o s w => some (32, encR 0x2A d a b (encAtom o s w 0))
  | .srd d x => some (32, encI 0x30 d 0 x.val)
  | .swr a x => some (32, encI 0x31 0 a x.val)
  | .lrun l i => some (32, encJ 0x38 (l.toNat * 2 ^ 22 + i.toNat))
  | .lrunr l a => some (32, encJ 0x39 (l.toNat * 2 ^ 22 + a.val * 2 ^ 13))
  | .lsync => some (32, encJ 0x3A 0)
  | .sgetp d p => some (32, encI 0x3B d 0 p.val)
  | .sgetv d a v => some (32, encI 0x3C d a v.val)
  | .barinit a b => some (32, encR 0x43 0 a b 0)
  | .qpush a n => some (32, encR 0x44 0 a 0 n.val)
  | .qpop d n => some (32, encI 0x45 d 0 n.val)
  | .qtryPush d a n => some (32, encR 0x46 d a 0 n.val)
  | .qtryPop d n => some (32, encR 0x46 d 0 0 (64 + n.val))
  | .qinit a b n => some (32, encR 0x47 0 a b n.val)
  | .waitc a n => some (32, encI 0x48 0 a n.val)
  | .armc d a b w k n => some (32, encR 0x49 d a b (w.val * 32 + k.val * 8 + n.val))
  | .cyield n a i => some (32, encJ 0x4A (n.val * 2 ^ 19 + a.val * 2 ^ 13 + i.toNat))
  | .yield => some (32, encJ 0x4B 0)
  | .pchk d => some (32, encI 0x4C d 0 0)
  | .pyield => some (32, encJ 0x4D 0)
  | .endCrew => some (32, encJ 0x4E 0)
  | .fenceWord w k s => some (32, encI 0x50 0 0 (w.toNat * 32 + k.val * 8 + s.val))
  | .fencep => some (32, encJ 0x51 0)
  | .cfence => some (32, encJ 0x52 0)
  | .rflush => some (32, encJ 0x53 0)
  | .wlpop d a l => some (32, encI 0x58 d a l.val)
  | .wldone a l => some (32, encI 0x59 0 a l.val)
  | .trap c => some (32, encU 0x60 0 c.toNat)
  | .bkpt c => some (32, encU 0x61 0 c.toNat)
  | .sysc d c => some (32, encU 0x62 d c.toNat)
  | .rte => some (32, encJ 0x63 0)
  | .gatedScalarOpcode g x => some (32, encJ (0x70 + g.val) x.toNat)
  | .vadd w => some (96, encLane 0x01 w)
  | .vsub w => some (96, encLane 0x02 w)
  | .vmul w => some (96, encLane 0x03 w)
  | .vmulh w => some (96, encLane 0x04 w)
  | .vmad w => some (96, encLane 0x05 w)
  | .vand w => some (96, encLane 0x06 w)
  | .vor w => some (96, encLane 0x07 w)
  | .vxor w => some (96, encLane 0x08 w)
  | .vshl w => some (96, encLane 0x09 w)
  | .vshr w => some (96, encLane 0x0A w)
  | .vmin w => some (96, encLane 0x0B w)
  | .vmax w => some (96, encLane 0x0C w)
  | .vabs w => some (96, encLane 0x0D w)
  | .vsel w => some (96, encLane 0x0E w)
  | .vclz w => some (96, encLane 0x0F w)
  | .vpopc w => some (96, encLane 0x10 w)
  | .vbfe w => some (96, encLane 0x11 w)
  | .vbfi w => some (96, encLane 0x12 w)
  | .vmov w => some (96, encLane 0x13 w)
  | .vcmp w => some (96, encLane 0x14 w)
  | .vaddc w => some (96, encLane 0x15 w)
  | .vneg w => some (96, encLane 0x16 w)
  | .fadd w => some (96, encLane 0x20 w)
  | .fsub w => some (96, encLane 0x21 w)
  | .fmul w => some (96, encLane 0x22 w)
  | .ffma w => some (96, encLane 0x23 w)
  | .fmin w => some (96, encLane 0x24 w)
  | .fmax w => some (96, encLane 0x25 w)
  | .fcmp w => some (96, encLane 0x26 w)
  | .frcp w => some (96, encLane 0x27 w)
  | .frsq w => some (96, encLane 0x28 w)
  | .fsqrt w => some (96, encLane 0x29 w)
  | .fexp2 w => some (96, encLane 0x2A w)
  | .flog2 w => some (96, encLane 0x2B w)
  | .fsin w => some (96, encLane 0x2C w)
  | .fcos w => some (96, encLane 0x2D w)
  | .fscale w => some (96, encLane 0x2E w)
  | .fclass w => some (96, encLane 0x2F w)
  | .fcvt w => some (96, encLane 0x30 w)
  | .frnd w => some (96, encLane 0x31 w)
  | .ftoi w => some (96, encLane 0x32 w)
  | .itof w => some (96, encLane 0x33 w)
  | .qpack w => some (96, encLane 0x34 w)
  | .qunpk w => some (96, encLane 0x35 w)
  | .vshfl w => some (96, encLane 0x40 w)
  | .vvote w => some (96, encLane 0x41 w)
  | .vfold w => some (96, encLane 0x42 w)
  | .vscan w => some (96, encLane 0x43 w)
  | .vsync w => some (96, encLane 0x44 w)
  | .plog w => some (96, encLane 0x48 w)
  | .pset w => some (96, encLane 0x49 w)
  | .execrd w => some (96, encLane 0x4A w)
  | .execwr w => some (96, encLane 0x4B w)
  | .brl w => some (96, encLane 0x50 w)
  | .joinWord w => some (96, encLane 0x51 w)
  | .lend w => some (96, encLane 0x52 w)
  | .lyield w => some (96, encLane 0x53 w)
  | .lnop w => some (96, encLane 0x54 w)
  | .ltrap w => some (96, encLane 0x55 w)
  | .lwaitc w => some (96, encLane 0x56 w)
  | .batch w => some (96, encLane 0x57 w)
  | .vld w => some (96, encLane 0x60 w)
  | .vst w => some (96, encLane 0x61 w)
  | .vlds w => some (96, encLane 0x62 w)
  | .vsts w => some (96, encLane 0x63 w)
  | .vldk w => some (96, encLane 0x64 w)
  | .vatom w => some (96, encLane 0x65 w)
  | .vatomNoReturn w => some (96, encLane 0x65 w)
  | .vcas w => some (96, encLane 0x66 w)
  | .vred w => some (96, encLane 0x67 w)
  | .vrdx w => some (96, encLane 0x68 w)
  | .vpref w => some (96, encLane 0x69 w)
  | .cpy w => some (96, encLane 0x70 w)
  | .cpym w => some (96, encLane 0x71 w)
  | .cpyt w => some (96, encLane 0x72 w)
  | .wlapp w => some (96, encLane 0x73 w)
  | .rput w => some (96, encLane 0xF0 w)
  | .rget w => some (96, encLane 0xF1 w)
  | .rred w => some (96, encLane 0xF2 w)
  | .coll w => some (96, encLane 0xF3 w)
  | .cwin w => some (96, encLane 0xF4 w)
  | .cstat w => some (96, encLane 0xF5 w)
  | .cabort w => some (96, encLane 0xF6 w)
  | .mxmma w => some (96, encM 0xE0 w)
  | .mxdrain w => some (96, encM 0xE1 w)
  | .mxzero w => some (96, encM 0xE2 w)
  | .mxfence w => some (96, encM 0xE3 w)
  | .mxstat w => some (96, encM 0xE4 w)
  | .gatedLaneOpcode g x => some (96, 0xC0 + g.val + x.toNat * 2 ^ 8)
  | _ => none

end Sys2Proof
end

