-- ==== Sys2Proof/Machine/State.lean ====
section
/-!
DEFINITION. The state of the SA2 as plain data, the reasons a step can stop, and the state after reset.
INVENTORY.md lists every piece with the rule that names it.
-/

namespace Sys2Proof.Machine

/-! ## Keyed lists -/

/-- A map from natural numbers in canonical form: keys strictly rising. -/
abbrev KMap (α : Type) := List (Nat × α)

/-! ## Crew state (R78, R85) -/

/-- A pending join of a fragment: the join index and the 4-bit split identifier (R98, R99). -/
structure JoinEntry where
  join : Nat
  id   : Nat
  deriving DecidableEq, Repr

/-- A serial entry (R101): join index, mask N, resume index, the lanes that ran the BRL, the fragment's slot, and
whether the second arm runs. -/
structure SerialEntry where
  join   : Nat
  resume : Nat
  maskN  : W64
  ran    : W64
  slot   : Nat
  second : Bool
  deriving DecidableEq, Repr

/-- A page that an access waits for (R316, R320): its 4 KiB page number and the answer, if any. -/
structure PageWait where
  vp     : Nat
  answer : Option Bool
  deriving DecidableEq, Repr

/-- An open latch window (R93, R96): its first word, its length, the words run, the vector registers and predicates
that they have read. -/
structure Window where
  start : Nat
  len   : Nat
  done  : Nat
  readV : List Nat
  readP : List Nat
  deriving DecidableEq, Repr

/-- The states of a fragment (R98, R163). -/
inductive FragSt where
  | ready | parked | atVsync
  deriving DecidableEq, Repr

/-- What a scheduler keeps for a candidate (R105, R106): cycles ready and not issued, urgency, one more than the cycles of demotion left, the
present one among them, and whether it has issued or was made in the present cycle, which then does not count. -/
structure Fair where
  count  : Nat
  urgent : Bool
  demote : Nat
  fresh  : Bool
  deriving DecidableEq, Repr

/-- A fragment (R98, R92): masks, program counter, stamp, join stack, latches with their validity and the lanes that ever
wrote them, the open window, the VSYNC mask of each arrived lane and the lanes of that VSYNC, what the scheduler keeps, the marks of a resumed or
held word, and the lanes whose items a WLAPP that waits for room has appended (R238). -/
structure Frag where
  owned    : W64
  exec     : W64
  lpc      : Nat
  st       : FragSt
  stamp    : Nat
  stack    : List JoinEntry
  latch    : Vector Lanes 4
  latchOk  : BitVec 4
  latchSet : Vector W64 4
  win      : Option Window
  arrivals : KMap W64
  vlanes   : W64
  fair     : Fair
  skipAt   : Option Nat
  bpPass   : Option Nat
  held     : List PageWait
  appended : Option W64
  deriving DecidableEq, Repr

/-- A slot of the split table: its generation bit and its fragment, if any (R98). -/
structure SplitSlot where
  gen  : Bool
  frag : Option Frag
  deriving DecidableEq, Repr

/-- A lane block (R80): its number among the crew's blocks and its place in the issue order, start index, the snapshot of s1 to s15, the SKEW and tile registers in effect (R117), and the
number of CFENCEs before it (R210). -/
structure Block where
  ord    : Nat
  stamp  : Nat
  start  : Nat
  snap   : Vector W64 15
  skew   : W64
  tiles  : Vector W64 16
  cfence : Nat
  deriving DecidableEq, Repr

/-- The divergence state of a running block (R98, R101): the split table, the serial stack, and whether the block has
started. -/
structure Diverge where
  slots   : Vector SplitSlot 8
  serial  : List SerialEntry
  started : Bool
  deriving DecidableEq, Repr

/-- How a loaded element is extended to its register (R146, R132, R135, R53). -/
inductive Extend where
  | zero | sign | pair | exact (p : Nat)
  deriving DecidableEq, Repr

/-- Where an access goes (R131, R204, R205). -/
inductive Space where
  | global
  | scratch (core : Nat)
  | constant
  deriving DecidableEq, Repr

/-- An atomic's operation, ordering and operands (R134, R135, R136). `cas` marks SCAS and VCAS. -/
structure AtomOp where
  cas   : Bool
  op    : Nat
  ord   : Bool
  scope : Nat
  deriving DecidableEq, Repr

/-- One lane of an access: its lane (64 for a scalar word), virtual or scratchpad address, physical address, data and
compare value, what an atomic that was performed before its turn has returned, with whether it carried an error (R297; log 7), and where the upper four
bytes of a skewed 8-byte access lie (R183). -/
structure LaneAcc where
  lane    : Nat
  va      : W64
  pa      : Nat
  data    : W64
  expect  : W64
  took    : Option (W64 × Bool)
  hi      : Option Nat
  deriving DecidableEq, Repr

/-- An issued load or returning access whose data has not arrived (R119, R130). `reg` is the destination register, a
scalar register when `scalar`; `sent` is the tick at which it was sent across the Sound (R382); `vsync` lists the VSYNC sets of its lanes that have completed meanwhile: the place in the issue order, and the set (R165). -/
structure PendingLoad where
  stamp  : Nat
  scalar : Bool
  reg    : Nat
  space  : Space
  width  : Nat
  ext    : Extend
  atom   : Option AtomOp
  lanes  : List LaneAcc
  word   : Nat
  slot   : Nat
  block  : Nat
  fresh  : Bool
  sent   : Option Nat
  vsync  : List (Nat × W64)
  deriving DecidableEq, Repr

/-- The store-class words (R317, R333). -/
inductive StoreKind where
  | plain | vred | vrdx | vatom
  deriving DecidableEq, Repr

/-- A queued or logged store-class word (R201, R317): its issue order, kind, space, width, type, operation, rounding mode and P (a
no-return VATOM keeps ORD and its block's stamp there), its lanes, the place in the issue order at which the port took it, its word, the pages
it waits for, the tick at which it was sent across the Sound (R382), and the bytes that it has written of poisoned sectors, by address and length
(R372). -/
structure StoreEntry where
  stamp  : Nat
  scalar : Bool
  kind   : StoreKind
  space  : Space
  width  : Nat
  ty     : Ty
  op     : Nat
  rm     : Nat
  p      : Nat
  lanes  : List LaneAcc
  port   : Option Nat
  word   : Nat
  slot   : Nat
  block  : Nat
  waits  : List PageWait
  sent   : Option Nat
  wrote  : List (Nat × Nat)
  deriving DecidableEq, Repr

/-- A failure that a batch carries (R220): cause, detail and lowest failing address, and the command it comes from. -/
structure Failure where
  cmd    : Nat
  cause  : Nat
  detail : Nat
  addr   : W64
  deriving DecidableEq, Repr

/-- A batch of a completion counter (R189): commands not yet completed, whether it is closed, its earliest failure. -/
structure Batch where
  pending : List Nat
  closed  : Bool
  failure : Option Failure
  deriving DecidableEq, Repr

/-- The kinds of armed operation (R191, R225). -/
inductive ArmKind where
  | copy (kind : Nat) | arrive | push
  deriving DecidableEq, Repr

/-- An armed operation (R191): threshold, kind, operand, arming order, the last block the ARMC is ordered after (R225), and the
index of the ARMC. -/
structure Armed where
  threshold : W32
  kind      : ArmKind
  operand   : W64
  order     : Nat
  synced    : Nat
  word      : Nat
  deriving DecidableEq, Repr

/-- What a release covers (R138, R194, R197): the scalar accesses of a crew before a place in the issue order, and those of its
blocks up to one. -/
structure RelMark where
  crew   : Nat
  stamp  : Nat
  synced : Nat
  deriving DecidableEq, Repr

/-- A completion counter (R189): ISSUED, DONE, its batches (oldest first; the last may be open), failures of completed
batches not yet raised (R220), and armed operations. -/
structure Counter where
  issued  : W32
  done    : W32
  batches : List Batch
  carried : List Failure
  armed   : List Armed
  deriving DecidableEq, Repr

/-- The content of a trap (R111): cause, the stream's word, its place, masks, detail, argument and address; `at_` is the index of a scalar word
that the stream has passed (R286). -/
structure TrapInfo where
  cause  : Nat
  detail : Nat
  arg    : Nat
  lane   : Bool
  noWord : Bool
  slot   : Nat
  woff   : Nat
  tlpc   : W64
  texec  : W64
  tfmask : W64
  addr   : W64
  word0  : W64
  word1  : W64
  entry  : Option Nat
  at_    : Option Nat
  deriving DecidableEq, Repr

/-- A scalar word that has begun and waits (R228, R286, R335): what it has already done. -/
inductive Await where
  | none
  /-- BARAW has arrived for this parity. -/
  | phase (par : Bool)
  /-- QPUSH or QPOP has found no allowance or no handle (R196). -/
  | blocked (push : Bool) (queue : Nat)
  /-- WLPOP has found no item (R239). -/
  | popping (list : Nat)
  /-- FENCE or RFLUSH waits for write-backs (R235, R283): granules still to trigger, granules being written. -/
  | flush (todo writing : List Nat)
  /-- SYSC has posted its request (R335). -/
  | sysc (tag : Nat) (answer : Option W64)
  /-- FENCEP waits for the remote commands of the crew below this number (R405). -/
  | fencep (upTo : Nat)
  /-- END has closed the open batches and waits for them (R242). -/
  | ending
  deriving DecidableEq, Repr

/-- The reply to a remote BARA or BARAW (R286): the register it writes, the barrier, the parity returned by the leader once it
has applied the arrival, and whether it waits for the phase. -/
structure BarReply where
  reg   : SReg
  id    : Nat
  tag   : Nat
  par   : Option Bool
  waits : Bool
  deriving DecidableEq, Repr

/-- A FENCE with release that earlier accesses have not yet satisfied (R235): its place in the issue order, the last block it
covers, the first block after it, and its scope. -/
structure FenceMark where
  stamp  : Nat
  synced : Nat
  blocks : Nat
  scope  : Nat
  deriving DecidableEq, Repr

/-- What trap entry freezes (R111, R112): the lane queue, the divergence state, what a waiting scalar word
has done, its index, and the matched word whose next execution passes its breakpoint (R336). -/
structure Frozen where
  laneQ : List Block
  div   : Diverge
  await : Await
  reply : List BarReply
  spc   : Nat
  bpPass : Option Nat
  deriving DecidableEq, Repr

/-- Where a crew stands (R202, R224, R239, R242, R327, R328). -/
inductive CrewSt where
  | running
  /-- Out of the scheduler by CYIELD, on a counter and a threshold, with the target. -/
  | parkedOn (cc : Fin 8) (n : W32) (target : Nat)
  /-- PYIELD has saved it (light image). -/
  | yielded
  /-- Stopped by the forced save. -/
  | stopped
  /-- Halted with the journal code of R342 kind 5; 0 for a crew lost with its core or its gang. -/
  | halted (code : Nat)
  | ended
  deriving DecidableEq, Repr

/-- A crew (R78, R85, R116). `reqLeft` counts down PREQ.LEFT in the cycles of the crew's core (R325, R328). `engineRegs` lists the vector registers that
engine commands have written since the crew last observed completions (R254). -/
structure Crew where
  uid     : Nat
  team    : Nat
  index   : Nat
  die     : Nat
  core    : Nat
  slot    : Nat
  role    : Nat
  fast    : Nat
  slow    : Nat
  st      : CrewSt
  reqLeft : Nat
  spc     : Nat
  s       : Vector W64 64
  v       : KMap Lanes
  p       : Vector W64 16
  t       : Vector W64 16
  astat   : W64
  skew    : W64
  tscr    : Vector W64 2
  tcause  : W64
  tspc    : W64
  tlpc    : W64
  texec   : W64
  tfmask  : W64
  tinfo   : W64
  taddr   : W64
  tvec    : W64
  tword   : Vector W64 2
  tsplit  : Vector W64 8
  cc      : Vector Counter 8
  firing  : List (Nat × Armed)
  laneQ   : List Block
  nextBlock : Nat
  synced  : Nat
  fences  : List FenceMark
  div     : Diverge
  handler : Bool
  frozen  : Option Frozen
  trapping : Option TrapInfo
  loads   : List PendingLoad
  storeQ  : List StoreEntry
  sideLog : List StoreEntry
  discard : Option (Nat × W64)
  stamp   : Nat
  held    : List PageWait
  bpPass  : Option Nat
  fair    : Fair
  await   : Await
  reply   : List BarReply
  cfence  : Nat
  constRead : KMap W32
  fenceFlag : Bool
  mma     : Option MWord
  capture : KMap (Nat × Bool)
  engineRegs : List Nat
  holds   : KMap Nat
  deriving DecidableEq, Repr

/-! ## Core storage and engines -/

/-- A copy descriptor (R217). -/
structure CopyDesc where
  gaddr   : W64
  soff    : Nat
  trow    : Nat
  tcol    : Nat
  dir     : Bool
  tdst    : Bool
  esz     : Nat
  cols    : Nat
  rows    : Nat
  gstride : W64
  sstride : Nat
  bcols   : Nat
  brows   : Nat
  cc      : Nat
  cmask   : Nat
  deriving DecidableEq, Repr

/-- An accepted copy (R186, R216): its command number, crew, kind (0 CPY, 1 CPYM, 2 CPYT), descriptor image, issue
order, the bounds of the accesses it comes after (R187: lane words before `stamp`, scalar words before `scalarTo`, blocks up to
`blockTo`), its word for fault records, the source elements already read with what they carried, elements already written (destination core, element),
the ticks at which elements were sent across the Sound (R382), by destination core and element, the bytes that it has written of poisoned sectors
(R372), the pages it waits for, and its failure so far. -/
structure CopyCmd where
  id     : Nat
  crew   : Nat
  kind   : Nat
  desc   : CopyDesc
  stamp  : Nat
  scalarTo : Nat
  blockTo : Nat
  word   : Nat
  data   : KMap (List Byte × Bool)
  doneEl : List (Nat × Nat)
  sent   : List ((Nat × Nat) × Nat)
  wrote  : List (Nat × Nat)
  waits  : List PageWait
  failure : Option Failure
  deriving DecidableEq, Repr

/-- A summation value (R72): (-1)^neg × mag × 2^exp; zero has mag 0. -/
structure Dyadic where
  neg : Bool
  mag : Nat
  exp : Int
  deriving DecidableEq, Repr

/-- A cell's slot (R73, R75): three accumulators, two group counters, four flags, and the 32-bit sum of the integer kind. -/
structure Cell where
  lv1 : Dyadic
  lv2 : Dyadic
  lv3 : Dyadic
  n1  : Nat
  n2  : Nat
  nan : Bool
  pinf : Bool
  ninf : Bool
  ufl : Bool
  sum : W32
  deriving DecidableEq, Repr

/-- The kind of a slot (R256, R266). -/
inductive SlotKind where
  | empty | floating | integer
  deriving DecidableEq, Repr

/-- A quadrant's slot (R73, R77, R256): kind, recorded fields, the cells that are not cleared, by 64 m + n, and the
monitors: event counts and largest shifts of levels 0 to 3. -/
structure MxSlot where
  kind   : SlotKind
  fields : BitVec 31
  cells  : KMap Cell
  counts : Vector Nat 4
  shifts : Vector Nat 4
  deriving DecidableEq, Repr

/-- The words that an MX queue holds (R245). -/
inductive MxOp where
  | mma | drain | zero | stat
  deriving DecidableEq, Repr

/-- An accepted M word (R245): its command number, crew, fields, the descriptors in effect (R250, R251), the valid-row
count, the scratchpad offset of a drain, the elements already read (R254) and whether each carried an error, the 32-bit words already written of each row
of a drain or of MXSTAT's register (R264), as a mask, and a drain's failure (R284). -/
structure MxEntry where
  id     : Nat
  crew   : Nat
  op     : MxOp
  word   : MWord
  tile   : W64
  scale  : W64
  rows   : Nat
  soff   : Nat
  capture : KMap (Nat × Bool)
  drained : KMap Nat
  failure : Option Failure
  deriving DecidableEq, Repr

/-- A quadrant (R185, R245): its queue and its two slots. -/
structure Quad where
  queue : List MxEntry
  slots : Vector MxSlot 2
  deriving DecidableEq, Repr

/-- An atomic-buffer entry (R199): crew, virtual and physical address, type, operation, rounding mode, value, and the tick at which its
drain was sent across the Sound (R382). -/
structure BufEntry where
  crew  : Nat
  va    : W64
  pa    : Nat
  ty    : Ty
  op    : Nat
  rm    : Nat
  value : W32
  sent  : Option Nat
  deriving DecidableEq, Repr

/-- A translation-cache entry (R311): context, page size as a shift, virtual page, the leaf entry. -/
structure TransEntry where
  ctx   : Nat
  shift : Nat
  vp    : Nat
  leaf  : W64
  deriving DecidableEq, Repr

/-- Bytes of global memory that a load of a crew has read at their home before its turn (R297; log 7), from address `pa` on, and whether they carried
an error. -/
structure EarlyRead where
  crew  : Nat
  pa    : Nat
  bytes : List Byte
  bad   : Bool
  deriving DecidableEq, Repr

/-- A scratchpad word that a copy or a drain of `crew` has overwritten, by its offset, with the bytes that stood there (R187, R264): the crew may still
read them until it observes the completion; `seen` lists the blocks and lanes that have observed it through LWAITC (R222; log 77). -/
structure OldWord where
  addr  : Nat
  bytes : List Byte
  crew  : Nat
  cmd   : Nat
  seen  : List (Nat × W64)
  deriving DecidableEq, Repr

/-- A scheduler of a core (R178, R179): its active set, and what has issued in the present cycle, as crew and split-table slot (64 for the scalar
stream). -/
structure Sched where
  active : List (Nat × Nat)
  issued : List (Nat × Nat)
  deriving DecidableEq, Repr

/-- A logical core (R177, R181, R184 to R186, R199, R201, R300, R311, R336, R272). The poison lists hold the bytes of the scratchpad
and of the tile store that carry an uncorrectable error (R220). `port` is one more than the cycle in which the memory port last took a store,
0 before the first; `early` holds the loads performed before their turn, `old` the words that engines have overwritten and that their crews may still
read. -/
structure CoreSt where
  scratch : List Host.Cell
  tiles   : List Host.Cell
  scrPoison : List Nat
  tilePoison : List Nat
  copyQ   : List CopyCmd
  quads   : Vector Quad 4
  bufs    : Vector (List BufEntry) 4
  port    : Nat
  early   : List EarlyRead
  old     : List OldWord
  scheds  : Vector Sched 4
  cycles  : W64
  tcache  : List TransEntry
  bpc     : Vector W64 16
  fenced  : Bool
  phys    : Nat
  deriving DecidableEq, Repr

/-! ## Teams and launches -/

/-- A barrier (R192), with what the arrivals of its present phase and of completed phases release (R194). -/
structure Barrier where
  expected : Nat
  count    : Nat
  par      : Bool
  abnd     : Bool
  marks    : List RelMark
  past     : List RelMark
  deriving DecidableEq, Repr

/-- The barrier words that travel to the leader (R286). -/
inductive BarOp where
  | arrive | init (expected : Nat) | armed
  deriving DecidableEq, Repr

/-- A barrier word on its way to the leader's port (R286), with the word itself and its index. -/
structure BarReq where
  tag  : Nat
  crew : Nat
  core : Nat
  id   : Nat
  op   : BarOp
  mark : RelMark
  word : Nat
  spc  : Nat
  deriving DecidableEq, Repr

/-- A queue (R196, R331): ring offset, depth, handles held, index of the oldest, allowance, and whether it is initialised. -/
structure QueueSt where
  ring  : Nat
  depth : Nat
  count : Nat
  head  : Nat
  allow : Nat
  init  : Bool
  deriving DecidableEq, Repr

/-- The states of a region granule (R283). -/
inductive GranSt where
  | empty | filling | clean | dirty | writing
  deriving DecidableEq, Repr

/-- Who began a granule's fill (R284): a word of a stream, by crew, split-table slot (64 for the scalar stream, 65 for a fired operation), block
and index, or an engine command. -/
inductive Toucher where
  | word (crew slot block idx : Nat)
  | engine (cmd : Nat)
  deriving DecidableEq, Repr

/-- A region granule (R283): state, sector marks, the marks, bytes and poisoned sectors being written back, pages waited for, the crew whose RFLUSH or
FENCE triggered the write-back, the write-backs that failed, by crew, with cause and address (R284), who began the fill under way, who waits for it in
order of arrival, the tick at which the request of the fill or write-back was sent across the Sound (R382), and the fills that failed and that their causes have not yet met (R284). -/
structure Granule where
  st    : GranSt
  marks : BitVec 8
  wb    : BitVec 8
  bytes : List Byte
  bad   : BitVec 8
  waits : List PageWait
  by_   : Option Nat
  fail  : List (Nat × Nat × W64)
  cause : Option Toucher
  queue : List Toucher
  sent  : Option Nat
  failed : List (Toucher × Nat × W64)
  deriving DecidableEq, Repr

/-- An entry of a region table (R281). -/
structure RegionEntry where
  gbase   : W64
  tstride : W64
  soff    : Nat
  len     : Nat
  core    : Nat
  valid   : Bool
  fill    : Bool
  wb      : Bool
  deriving DecidableEq, Repr

/-- Where a team stands (R242, R328, R351). -/
inductive TeamSt where
  | resident | saving | saved | ended | retired
  deriving DecidableEq, Repr

/-- Why a team failed (R342, kind 4): code, logical core and slot, and the REFTIME tick. -/
structure TeamFail where
  code : Nat
  core : Nat
  slot : Nat
  at_  : Nat
  deriving DecidableEq, Repr

/-- The run of an audited team (R368): the original, its replay or the third run. -/
inductive RunKind where
  | original | replay | third
  deriving DecidableEq, Repr

/-- A placed team (R271, R275, R325, R349, R351, R366 to R371). `avoid` lists the cores of earlier runs that it may not share (R368), `lost` lists the team core indices whose core was fenced (R287). `shadows` lists the 4 KiB pages of which a replay holds a private
copy, `shadowMem` their bytes, `shadowBad` their poisoned sectors (R369). -/
structure Team where
  uid      : Nat
  avoid    : List (Nat × Nat)
  launch   : Nat
  index    : Nat
  age      : Nat
  die      : Nat
  cores    : List Nat
  scratch0 : List Nat
  tile0    : List Nat
  st       : TeamSt
  barriers : KMap Barrier
  barReqs  : List BarReq
  barSeen  : KMap Bool
  barSent  : KMap (List Bool)
  queues   : KMap QueueSt
  granules : KMap Granule
  lost     : List Nat
  halted   : Bool
  failure  : Option TeamFail
  reqReason : Nat
  drained  : Bool
  image    : Nat
  run      : RunKind
  sigSum   : W64
  sigCount : Nat
  shadows  : List Nat
  shadowMem : List Host.Cell
  shadowBad : List Nat
  deriving DecidableEq, Repr

/-- A kernel record (R38). -/
structure KernelRec where
  entry    : Nat
  crews    : Nat
  shape    : Nat
  prog     : Bool
  audit    : Bool
  matrix   : Bool
  energy   : Nat
  barriers : Nat
  queues   : Nat
  tileG    : Nat
  scratchG : Nat
  fastG    : List Nat
  slowG    : List Nat
  patch0   : Nat
  patchN   : Nat
  roles    : List Nat
  deriving DecidableEq, Repr

/-- A patch slot (R36, R40): word index, section, value. -/
structure PatchSlot where
  word  : Nat
  sect  : Nat
  value : W32
  deriving DecidableEq, Repr

/-- The launch record (R343). -/
structure LaunchRec where
  obj       : W64
  krec      : Nat
  grid      : Nat
  patch     : W64
  region    : W64
  wlbase    : W64
  wlcap     : Nat
  auditk    : Nat
  auditSeed : W64
  coreset   : BitVec 128
  dataVa    : W64
  constVa   : W64
  deriving DecidableEq, Repr

/-- A team of a launch that waits for a cluster (R347, R350, R368): its index, the saved team it restores, its run, and
the cores it may not share. -/
structure Unplaced where
  index  : Nat
  saved  : Option Nat
  run    : RunKind
  avoid  : List (Nat × Nat)
  deriving DecidableEq, Repr

/-- A finished run kept for the audit verdict (R368 to R371). -/
structure AuditRun where
  index : Nat
  run   : RunKind
  sum   : W64
  count : Nat
  die   : Nat
  cores : List Nat
  failed : Bool
  deriving DecidableEq, Repr

/-- An accepted launch (R343 to R352). `jIndex` is the SEQ of its accepted entry (R330). `scode` and `lcode` are its code sections as read at acceptance (R344), `sBase` and
`lBase` their virtual addresses, whose pages a fetch still walks (R310); `translated` marks sections that the translator built
(R42). `constMem` is memory as it stood at launch (R133). `next` is the first team index never placed. -/
structure Launch where
  uid      : Nat
  ctx      : Nat
  dev      : Fin 3
  queue    : Nat
  cmdIndex : Nat
  jIndex   : Nat
  order    : Nat
  record   : LaunchRec
  recAddr  : W64
  handle   : Nat
  scode    : List W32
  lcode    : List (BitVec 96)
  sBase    : W64
  lBase    : W64
  translated : Bool
  bindings : List (Nat × Nat)
  patches  : List PatchSlot
  kernel   : KernelRec
  regions  : List RegionEntry
  constMem : List Host.Cell
  next     : Nat
  back     : List Unplaced
  retired  : Nat
  failed   : Nat
  quiet    : Bool
  aborted  : Bool
  complete : Bool
  gang     : Option Nat
  armed    : Bool
  absent   : List Nat
  audits   : List AuditRun
  extra    : Nat
  deriving DecidableEq, Repr

/-! ## Contexts and submission queues -/

/-- A command taken from a queue and not yet completed (R339, R340). -/
structure Outstanding where
  index  : Nat
  launch : Option Nat
  deriving DecidableEq, Repr

/-- A submission queue (R338): ring, priority, owner, indices, commands outstanding, the command that blocks it, and what the acceptance under way has
read: for a GANG_ARM or a LAUNCH, address and bytes (R344). -/
structure SubQueue where
  ctx     : Nat
  desc    : Nat
  base    : Nat
  log2n   : Nat
  prio    : Nat
  prod    : Nat
  cons    : Nat
  open_   : List Outstanding
  waiting : Option (Nat × W64 × W64)
  accepted : Bool
  waits   : List PageWait
  got     : List (Bool × Nat × List Byte)
  deriving DecidableEq, Repr

/-- A word of code that PLANT has written (R337): object, word index, the word's virtual address, the word that stands there now, and the one that
stood there first. -/
structure Planted where
  obj  : Nat
  idx  : Nat
  va   : Nat
  word : W32
  old  : W32
  deriving DecidableEq, Repr

/-- An item of a work list (R238): its value, its place in the list's storage (R353), and what its WLAPP releases: the crew's lane accesses
before `stamp` and its scalar accesses before `blk`. -/
structure WorkItem where
  value : W32
  place : Nat
  crew  : Nat
  stamp : Nat
  blk   : Nat
  deriving DecidableEq, Repr

/-- A context (R308, R312, R315, R320, R322, R335, R353, R389). Page-table entries are kept by level and virtual-address prefix
(log 14); `pteErr` marks a table entry's live copy: 0 second read succeeds, 1 rebuilt from the master, 2 lost, 3 lost with its row spared. `moving` holds the leaves of the
pages in migration (R315), by virtual page of 4 KiB; `barred` the ranges that a MAP onto no memory has named (R130, R292); `dying` marks a context that DESTROY_CONTEXT is emptying (R388). -/
structure Context where
  id       : Nat
  dev      : Fin 3
  pdead    : Nat
  fairt    : Nat
  faultQ   : Nat
  serviceQ : Option Nat
  saveBase : Nat
  saveSize : Nat
  images   : List (Nat × Nat)
  ptes     : KMap W64
  pteErr   : KMap Nat
  unified  : List (Nat × Nat)
  moving   : KMap W64
  barred   : List (Nat × Nat)
  dying    : Bool
  unanswered : List Nat
  planted  : List Planted
  wlCap    : Nat
  wlBase   : W64
  lists    : KMap (List WorkItem)
  wlLaunch : Option Nat
  deriving DecidableEq, Repr

/-- What a function's device keeps (R338, R341, R357, R387, R390, R391). `placing` is the tick of the events that the next distributor step serves (R347). -/
structure DevSt where
  prepared : Bool
  jBase    : Nat
  jLog     : Nat
  seq      : Nat
  dumpBase : Nat
  dumpSize : Nat
  mboxReq  : List Byte
  mboxRsp  : List Byte
  go       : Bool
  status   : Nat
  bells    : KMap W32
  queues   : KMap SubQueue
  lastServed : Option Nat
  placing  : Option Nat
  freed    : List (Nat × Nat × List Nat)
  deriving DecidableEq, Repr

/-! ## Reliability -/

/-- A router's state for one neighbour (R360). -/
inductive VoteSt where
  | trusted | accusing | fenced | retired
  deriving DecidableEq, Repr

/-- A router's record of one neighbour (R357 to R360): state, MISS, BAB, VOTES with the tick of the last renewal, last valid
SEQ, beats and valid beats in the window, good windows in a row, alert sent, the reason it accuses for, the tick of the window end judged last, a FENCE report on its
way, and the accusers that the router held when it fenced it. -/
structure Neighbour where
  st     : VoteSt
  miss   : Nat
  bab    : Nat
  votes  : KMap Nat
  seq    : Option Nat
  beats  : Nat
  valid  : Nat
  good   : Nat
  alert  : Bool
  reason : Nat
  judged : Option Nat
  report : Bool
  voters : List Nat
  deriving DecidableEq, Repr

/-- A physical core's part in reliability (R356, R362 to R365): its next SEQ and the tick of its last beat, its router's neighbours, the
ticks of its last two fences, the tick of a self-test order, the logical core that a reserve is tested for, a readmission that waits for
the core's teams, retirement, whether the core is in use, and a self-test that an audit verdict asks for (R371). -/
structure PhysCore where
  seq      : Nat
  beatAt   : Option Nat
  nbs      : KMap Neighbour
  lastFence : Option Nat
  prevFence : Option Nat
  bistAt   : Option Nat
  reserveFor : Option Nat
  readmit  : Bool
  retired  : Bool
  inUse    : Bool
  mustTest : Bool
  deriving DecidableEq, Repr

/-- A die (R311, R356, R383, R384): `start` is the tick since which its routers run. -/
structure DieSt where
  powered : Bool
  inReset : Bool
  table   : BitVec 42
  prev    : BitVec 42
  gen     : Nat
  injb    : Nat
  start   : Nat
  phys    : KMap PhysCore
  tcache  : List TransEntry
  deriving DecidableEq, Repr

/-! ## Fabric -/

/-- A UALink port (R394, R396): whether it is live and keyed, its peer and the tick of its session. -/
structure PortSt where
  live  : Bool
  keyed : Bool
  peer  : Nat
  since : Nat
  deriving DecidableEq, Repr

/-- One entry of the table of windows that peers may use (R398). -/
structure PeerWindow where
  base  : Nat
  size  : Nat
  valid : Bool
  read  : Bool
  write : Bool
  deriving DecidableEq, Repr

/-- One lane's operation, or one COLL line, that the fabric unit has accepted and not completed (R400 to R403, R409, R416, R419): its
sequence number, command, crew and destination register, fabric address, the plane and port it was sent on, whether it was sent and
when, whether it is marked for reissue, and what travels. -/
structure RemoteOut where
  seq    : Nat
  cmd    : Nat
  crew   : Nat
  reg    : Nat
  fa     : W64
  plane  : Nat
  port   : Nat
  sent   : Bool
  sentAt : Nat
  mark   : Bool
  op     : RemoteOp
  line   : Option CollLine
  deriving DecidableEq, Repr

/-- The states of the agreement machine (R416). -/
inductive AgreeSt where
  | normal | blocked | prepared
  deriving DecidableEq, Repr

/-- A reduction window's states (R406, R413). -/
inductive WinSt where
  | free | opened | complete | expired | aborted
  deriving DecidableEq, Repr

/-- A window descriptor (R407). -/
structure WinDesc where
  base   : W64
  len    : Nat
  wid    : Nat
  fmt    : Ty
  replace : Bool
  w4     : Nat
  t4     : Bool
  rnd4   : Bool
  expect : Nat
  cc     : Nat
  deadline : Nat
  stage  : Nat
  peers  : List Nat
  deriving DecidableEq, Repr

/-- One element's accumulator of a line (R411): lv3 and the flags. -/
structure WinAcc where
  value : Dyadic
  nan   : Bool
  pinf  : Bool
  ninf  : Bool
  deriving DecidableEq, Repr

/-- A line of an open window (R411): contributors admitted, lines staged until their turn, the contributors entered, the
accumulators once one has entered, whether the region's line was read with an error, and whether the line is closed. -/
structure WinLine where
  admitted : Nat
  waiting  : KMap (List Byte)
  entered  : Nat
  acc      : List WinAcc
  started  : Bool
  bad      : Bool
  closed   : Bool
  deriving DecidableEq, Repr

/-- A reduction window (R406 to R414): state, descriptor image, context, crew, launch and command of its CWIN, expiry, lines, absent contributors, DISCARDS, FAULT, lines written, the dies that home a line of it, whether it is
expiring, and the pages that its line accesses wait for. -/
structure WinState where
  st       : WinSt
  desc     : Option WinDesc
  ctx      : Nat
  crew     : Nat
  launch   : Nat
  cmd      : Nat
  expiry   : Option Nat
  lines    : KMap WinLine
  absent   : Nat
  discards : Nat
  fault    : Bool
  written  : Nat
  dies     : List Nat
  closing  : Bool
  waits    : List PageWait
  deriving DecidableEq, Repr

/-- The gang machine's states (R421). -/
inductive GangSt where
  | armed | preparing | starting | running | closed
  deriving DecidableEq, Repr

/-- A gang this device takes part in (R420 to R422). -/
structure Gang where
  id        : Nat
  launch    : Nat
  initiator : Bool
  from_     : Nat
  st        : GangSt
  members   : List Nat
  ready     : List Nat
  acked     : List Nat
  tolerant  : Bool
  gtmo      : Nat
  since     : Nat
  deriving DecidableEq, Repr

/-- A message sent to router or device `dest`: on a beat wire or the maintenance channel of a die, or on the fabric or its management
channel. `kind` tells messages of one form apart. -/
structure Sent where
  dest : Nat
  msg  : Message
  kind : Nat
  deriving DecidableEq, Repr

/-- The fabric unit of a device (R396 to R422): its configuration, ports, the next sequence number, operations outstanding and the failures
of commands not yet complete, what it remembers of each source, the tick of the last keep-alive sent on each plane and of the last
answer by peer and plane, planes found dead, the agreement machine (proposed generation and set,
blocked planes, whether it coordinates the proposal, ACKs, since when it waits, when it proposed, the lowest id that may coordinate, lost
peers), reduction windows, lines that wait for a staging buffer with the mark of those admitted, and gangs. -/
structure FabricSt where
  configured : Bool
  devid    : Nat
  members  : List Nat
  map      : Vector (Fin 8) 64
  gen      : Nat
  windows  : List PeerWindow
  rtmo     : Nat
  ptmo     : Nat
  ports    : Vector PortSt 24
  nextSeq  : Nat
  out      : List RemoteOut
  fails    : List Failure
  seen     : KMap (List Nat)
  kept     : Vector Nat 8
  heard    : KMap Nat
  dead     : BitVec 8
  agree    : AgreeSt
  propGen  : Nat
  propDead : BitVec 8
  blocked  : BitVec 8
  leads    : Bool
  acks     : List Nat
  since    : Nat
  propAt   : Nat
  floor    : Nat
  lost     : List Nat
  wins     : KMap WinState
  waitLines : List (CollLine × Bool)
  gangs    : KMap Gang
  deriving DecidableEq, Repr

/-! ## The whole machine -/

/-- Who takes the next turn (log 2). The last four are moments inside an engine's work, which the manual lets fall anywhere
before its completion. -/
inductive Agent where
  /-- The scalar stream of a crew. -/
  | scalar (crew : Nat)
  /-- The fragment of a crew in a split-table slot. -/
  | lane (crew slot : Nat)
  /-- The memory processor takes the next command of the device's queues (R340). -/
  | command (dev : Fin 3)
  /-- The memory processor serves the mailbox of a function (R388). -/
  | mailbox (fn : Fin 3)
  /-- One of the other steps of the table. -/
  | event (i : Instr)
  /-- A message arrives, and the step that receives it runs. -/
  | deliver (m : Message) (i : Instr)
  /-- The memory port accepts the next store of a crew (R201). -/
  | portAccept (crew : Nat)
  /-- The copy engine writes one element of its n-th command at one destination (R187). -/
  | copyElement (die core n dest el : Nat)
  /-- A drain or MXSTAT writes one 32-bit word of a row (R264). -/
  | drainWord (die core quad n row word : Nat)
  /-- A crew's constant path takes the present value of one aligned word (R300). -/
  | constSample (crew pa : Nat)
  /-- A crew's loads take `n` bytes at a virtual address from their home before their turn (R297). -/
  | loadSample (crew va n : Nat)
  /-- Lanes of a crew's n-th pending access, a relaxed atomic, are performed before their turn (R297). -/
  | atomEarly (crew n : Nat) (lanes : W64)
  /-- The matrix engine reads one operand element early (R254): for the crew's next M word, or for an entry of its quadrant's queue; `key` is the key
  of the capture map. -/
  | operandRead (crew : Nat) (entry : Option Nat) (key : Nat)
  /-- An uncorrectable error arises in a sector: corrected by a retry or not, in the L2 or in memory (R372, R378). -/
  | memoryError (sector : Nat) (hard l2 : Bool)
  /-- An error arises in a page-table entry's live copy (R323). -/
  | tableError (ctx key kind : Nat)
  /-- An error arises in a prefetched code line of a launch (R373): section, line and whether it is hard. -/
  | codeError (launch sect line : Nat) (hard : Bool)
  /-- System software declares a unified range (R315). -/
  | unify (ctx lo hi : Nat)
  /-- Firmware sets XTMO (R382). -/
  | setXtmo (ticks : Nat)
  /-- A request, the `n`-th of crew, core or team `who`, is sent across the Sound (R382). -/
  | cross (req : SoundReq) (who n : Nat)
  /-- System software sets the CXL.mem window (R385). -/
  | setCxlWindow (base size : Nat)
  deriving DecidableEq, Repr

/-- One turn (log 2): core cycles and REFTIME ticks that pass before it, the cores (by key) whose stretched cycle goes on meanwhile (R5), and who runs. -/
structure Turn where
  cycles : Nat
  ticks  : Nat
  idle   : List Nat
  who    : Agent
  deriving DecidableEq, Repr

/-- The stream whose word runs: crew, slot of the fragment for a lane word, the word as fetched and its index. -/
structure Cur where
  crew : Nat
  lane : Bool
  slot : Nat
  word : Nat
  idx  : Nat
  deriving DecidableEq, Repr

/-- A unit whose next requests across the Sound time out (R382). -/
inductive LateUnit where
  | host
  | fabric (dev : Nat)
  | processor (dev : Nat)
  deriving DecidableEq, Repr

/-- Why a step stops. Every one of them is safe: the model stops where the hardware has no such state. -/
inductive Fault where
  /-- Raised by the meaning of a scalar or lane word in a state in which no stream runs it. Safe: the step runs a word only for a crew, a
  fragment and a launch that exist, and a turn that names another waits. -/
  | noStream
  deriving DecidableEq, Repr

/-- Why a step has no meaning in the model. -/
inductive Refusal where
  /-- Raised by the dispatch for an instruction that has no meaning yet. Safe. -/
  | notModelled (mnemonic : String)
  deriving DecidableEq, Repr

/-- The state of the SA2. `reftime` counts the ticks that REFTIME has run; REFTIME is its low 64 bits (R4; log 92). `errors` tells of each sector with an
error whether a retry fails and whether the error is in the L2 (R372); `retired` lists the 4 KiB frames of retired rows, `rowWork` the rows whose pages the memory processor is about to deal with, with device and die (R374). `fatal` is the
cause of a fatal error and `stopped` the dies that it has stopped and that no reset has started again (R377); `late` names the unit whose requests across
the Sound time out in the next step (R382); `cxlWindow` is the window of CXL.mem, base and size (R385). -/
structure State where
  reftime  : Nat
  mem      : List Host.Cell
  poison   : List Nat
  errors   : KMap (Bool × Bool)
  corrected : KMap Nat
  spares   : KMap Nat
  codeErr  : List (Nat × Nat × Nat × Bool)
  retired  : List Nat
  rowWork  : List (Nat × Nat × Nat)
  dies     : Vector DieSt 2
  cores    : KMap CoreSt
  crews    : KMap Crew
  teams    : KMap Team
  saved    : KMap (Team × List Crew × List CoreSt)
  launches : KMap Launch
  contexts : KMap Context
  devs     : Vector DevSt 3
  mode     : Nat
  fatal    : Option Nat
  stopped  : BitVec 2
  xtmo     : Nat
  late     : Option LateUnit
  cxlFailed : BitVec 4
  hostCxl  : Option (Bool × Nat)
  cxlWindow : Option (Nat × Nat)
  hostRead : List Byte
  hostBad  : Bool
  cap      : Nat
  samples  : List Nat
  sampleAt : Nat
  stretch  : Bool
  fwActive : List Byte
  fwStaged : List Byte
  fwUp     : Bool
  recal    : List LinkName
  fabrics  : Vector FabricSt 3
  sent     : List Sent
  alerts   : List (Nat × Nat × Nat)
  nextUid  : Nat
  nextCmd  : Nat
  nextStamp : Nat
  nextAge  : Nat
  nextTag  : Nat
  nextLaunch : Nat
  cur      : Option Cur
  request  : Request
  message  : Message
  stalled  : Bool
  agenda   : List Turn
  rr       : Nat
  free     : Nat
  deriving DecidableEq, Repr

/-! ## Reset (R15, R85, R111, R116, R192, R256, R357, R384, R387, R392; logs 4 to 6) -/

/-- No failure and an open batch with no command: a counter at placement (R189). -/
def Counter.reset : Counter := { issued := 0, done := 0, batches := [], carried := [], armed := [] }

/-- A candidate that has not waited (R105, R106). -/
def Fair.reset : Fair := { count := 0, urgent := false, demote := 0, fresh := true }

/-- An empty split-table slot (R98). -/
def SplitSlot.reset : SplitSlot := { gen := false, frag := none }

/-- No running block (R98). -/
def Diverge.reset : Diverge := { slots := Vector.replicate 8 SplitSlot.reset, serial := [], started := false }

/-- A crew slot with every register at its reset value (R85, R116): p0 holds ones, all else is 0. -/
def Crew.reset : Crew :=
  { uid := 0, team := 0, index := 0, die := 0, core := 0, slot := 0, role := 0, fast := 0, slow := 0, st := .running,
    reqLeft := 0, spc := 0, s := Vector.replicate 64 0, v := [], p := (Vector.replicate 16 0).set 0 allLanes, t := Vector.replicate 16 0,
    astat := 0, skew := 0, tscr := Vector.replicate 2 0, tcause := 0, tspc := 0, tlpc := 0, texec := 0, tfmask := 0,
    tinfo := 0, taddr := 0, tvec := 0, tword := Vector.replicate 2 0, tsplit := Vector.replicate 8 0,
    cc := Vector.replicate 8 Counter.reset, firing := [], laneQ := [], nextBlock := 1, synced := 0, fences := [], div := Diverge.reset, handler := false, frozen := none,
    trapping := none, loads := [], storeQ := [], sideLog := [], discard := none, stamp := 0, held := [], bpPass := none,
    fair := Fair.reset, await := .none, reply := [], cfence := 0, constRead := [], fenceFlag := false, mma := none,
    capture := [], engineRegs := [], holds := [] }

/-- An empty accumulator slot (R256). -/
def MxSlot.reset : MxSlot :=
  { kind := .empty, fields := 0, cells := [], counts := Vector.replicate 4 0, shifts := Vector.replicate 4 0 }

/-- A quadrant with nothing queued. -/
def Quad.reset : Quad := { queue := [], slots := Vector.replicate 2 MxSlot.reset }

/-- A logical core whose physical position is `phys` (R271, R272). -/
def CoreSt.reset (phys : Nat) : CoreSt :=
  { scratch := [], tiles := [], scrPoison := [], tilePoison := [], copyQ := [], quads := Vector.replicate 4 Quad.reset, bufs := Vector.replicate 4 [],
    port := 0, early := [], old := [], scheds := Vector.replicate 4 { active := [], issued := [] }, cycles := 0, tcache := [], bpc := Vector.replicate 16 0, fenced := false, phys := phys }

/-- What a router keeps of a neighbour before any beat. -/
def Neighbour.reset : Neighbour :=
  { st := .trusted, miss := 0, bab := 0, votes := [], seq := none, beats := 0, valid := 0, good := 0, alert := false, reason := 0, judged := none,
    report := false, voters := [] }

/-- A physical core (R356, R357). -/
def PhysCore.reset (reserve : Bool) : PhysCore :=
  { seq := 0, beatAt := none, nbs := [], lastFence := none, prevFence := none, bistAt := none, reserveFor := none, readmit := false, retired := false,
    inUse := !reserve, mustTest := false }

/-- A powered die with an empty fence table (R356) and INJB 2,048 (R357). -/
def DieSt.reset : DieSt :=
  { powered := true, inReset := false, table := 0, prev := 0, gen := 0, injb := 2048, start := 0, phys := [], tcache := [] }

/-- A device that no DEVICE_INIT has prepared (R390). -/
def DevSt.reset : DevSt :=
  { prepared := false, jBase := 0, jLog := 0, seq := 0, dumpBase := 0, dumpSize := 0, mboxReq := [], mboxRsp := [],
    go := false, status := 0, bells := [], queues := [], lastServed := none, placing := none, freed := [] }

/-- A window that no CWIN has opened (R406). -/
def WinState.reset : WinState :=
  { st := .free, desc := none, ctx := 0, crew := 0, launch := 0, cmd := 0, expiry := none, lines := [], absent := 0,
    discards := 0, fault := false, written := 0, dies := [], closing := false, waits := [] }

/-- A port that is live and holds no session (R394, R396). -/
def PortSt.reset : PortSt := { live := true, keyed := false, peer := 0, since := 0 }

/-- A fabric unit that no FABRIC_CONFIG has configured (R397), with the default time-outs. -/
def FabricSt.reset : FabricSt :=
  { configured := false, devid := 0, members := [], map := Vector.replicate 64 0, gen := 0, windows := [],
    rtmo := 100000, ptmo := 10000, ports := Vector.replicate 24 PortSt.reset, nextSeq := 0, out := [], fails := [], seen := [],
    kept := Vector.replicate 8 0, heard := [], dead := 0, agree := .normal, propGen := 0, propDead := 0, blocked := 0,
    leads := false, acks := [], since := 0, propAt := 0, floor := 0, lost := [], wins := [], waitLines := [], gangs := [] }

/-- The request of no mailbox. -/
def noRequest : Request := { fn := 0, code := 0, tag := 0, ops := [] }

/-- The key of core `core` of die `die` in `State.cores` (R6, R177). -/
def coreKey (die core : Nat) : Nat := 64 * die + core

/-- The logical cores of one die, at the physical positions of their own numbers (R272). -/
def resetCores (die : Nat) : KMap CoreSt := (List.range 40).map fun c => (coreKey die c, CoreSt.reset c)

/-- The package right after power-on: REFTIME is 0 (R4), both dies are powered, nothing is mapped, launched or configured,
and the security processor has not yet started the firmware (R392). -/
def State.reset : State :=
  { reftime := 0, mem := [], poison := [], errors := [], corrected := [], spares := [], codeErr := [], retired := [], rowWork := [],
    dies := Vector.replicate 2 DieSt.reset, cores := resetCores 0 ++ resetCores 1, crews := [], teams := [], saved := [],
    launches := [], contexts := [], devs := Vector.replicate 3 DevSt.reset, mode := 0, fatal := none, stopped := 0, xtmo := 200000, late := none,
    cxlFailed := 0, hostCxl := none, cxlWindow := none, hostRead := [], hostBad := false, cap := 3400, samples := [], sampleAt := 0, stretch := false, fwActive := [],
    fwStaged := [], fwUp := false, recal := [], fabrics := Vector.replicate 3 FabricSt.reset, sent := [],
    alerts := [], nextUid := 0, nextCmd := 0, nextStamp := 0, nextAge := 0, nextTag := 0, nextLaunch := 0, cur := none,
    request := noRequest, message := .silent, stalled := false, agenda := [], rr := 0, free := 0 }

end Sys2Proof.Machine
end

