-- ==== Sys2Proof/Machine/Bits.lean ====
section
/-!
DEFINITION. Keyed lists, sparse byte memories, bit fields and byte order: the helpers that every operation uses.
A sparse memory is a list of cells with addresses strictly rising and no cell of value 0, because an address that is not listed
reads as 0 (logs 4 and 5).
-/

namespace Sys2Proof.Machine

/-! ## Keyed lists -/

/-- The value under a key. -/
def kget {α : Type} : KMap α → Nat → Option α
  | [], _ => none
  | (j, x) :: m, k => if j == k then some x else kget m k

/-- The map with `x` under `k`, keys kept rising. -/
def kset {α : Type} : KMap α → Nat → α → KMap α
  | [], k, x => [(k, x)]
  | (j, y) :: m, k, x => if j == k then (k, x) :: m else if k < j then (k, x) :: (j, y) :: m else (j, y) :: kset m k x

/-- The map without `k`. -/
def kdel {α : Type} : KMap α → Nat → KMap α
  | [], _ => []
  | (j, y) :: m, k => if j == k then m else (j, y) :: kdel m k

/-- The map with the value under `k` changed by `f`, if there is one. -/
def kmod {α : Type} (m : KMap α) (k : Nat) (f : α → α) : KMap α :=
  m.map fun e => if e.1 == k then (e.1, f e.2) else e

/-- The value under a key, or `d`. -/
def kgetD {α : Type} (m : KMap α) (k : Nat) (d : α) : α := (kget m k).getD d

/-- Element `n` of a vector, or `d` beyond its end. -/
def vget {α : Type} {n : Nat} (v : Vector α n) (i : Nat) (d : α) : α := if h : i < n then v[i] else d

/-- A vector with element `i` changed, if it has one. -/
def vset {α : Type} {n : Nat} (v : Vector α n) (i : Nat) (x : α) : Vector α n := if h : i < n then v.set i x else v

/-- A vector with element `i` changed by `f`. -/
def vmod {α : Type} {n : Nat} (v : Vector α n) (i : Nat) (f : α → α) : Vector α n :=
  if h : i < n then v.set i (f v[i]) else v

/-- A list with its element `i` changed by `f`. -/
def lmod {α : Type} : List α → Nat → (α → α) → List α
  | [], _, _ => []
  | x :: xs, 0, f => f x :: xs
  | x :: xs, n + 1, f => x :: lmod xs n f

/-- A list without its element `i`. -/
def ldel {α : Type} : List α → Nat → List α
  | [], _ => []
  | _ :: xs, 0 => xs
  | x :: xs, n + 1 => x :: ldel xs n

/-- The first elements of a list that `p` selects, with their places. -/
def indexed {α : Type} (xs : List α) : List (Nat × α) := (List.range xs.length).zip xs

/-! ## Sparse memories -/

/-- The byte at an address; an address that is not listed reads 0 (logs 4 and 5). -/
def cellsGet : List Host.Cell → Nat → Byte
  | [], _ => 0#8
  | (j, x) :: m, a => if j == a then x else cellsGet m a

/-- A cell put at its place among rising addresses. -/
def cellsPut : List Host.Cell → Nat → Byte → List Host.Cell
  | [], a, b => [(a, b)]
  | (j, x) :: m, a, b => if a < j then (a, b) :: (j, x) :: m else (j, x) :: cellsPut m a b

/-- The memory with one byte written, in canonical form. -/
def cellsSet (m : List Host.Cell) (a : Nat) (b : Byte) : List Host.Cell :=
  let rest := m.filter fun c => c.1 != a
  if b == 0#8 then rest else cellsPut rest a b

/-- `n` bytes from address `a` up. -/
def cellsRead (m : List Host.Cell) (a : Nat) : Nat → List Byte
  | 0 => []
  | n + 1 => cellsGet m a :: cellsRead m (a + 1) n

/-- The bytes from `a` up to `e` among cells that all lie there: one pass. -/
def cellsFill : List Host.Cell → Nat → Nat → List Byte
  | [], a, e => List.replicate (e - a) 0#8
  | (j, x) :: m, a, e => List.replicate (j - a) 0#8 ++ x :: cellsFill m (j + 1) e

/-- A block of `n` bytes from address `a` up, read in one pass: what `cellsRead` gives of a memory in its canonical form. -/
def cellsBlock (m : List Host.Cell) (a n : Nat) : List Byte := cellsFill ((m.dropWhile (·.1 < a)).takeWhile (·.1 < a + n)) a (a + n)

/-- The memory with consecutive bytes written from address `a` up. -/
def cellsWrite (m : List Host.Cell) (a : Nat) : List Byte → List Host.Cell
  | [] => m
  | b :: bs => cellsWrite (cellsSet m a b) (a + 1) bs

/-- The little-endian value of `n` bytes from address `a` up (R12). -/
def cellsNat (m : List Host.Cell) (a n : Nat) : Nat := leNat (cellsRead m a n)

/-- The memory without the bytes of `[a, a + n)`: they read 0. -/
def cellsClear (m : List Host.Cell) (a n : Nat) : List Host.Cell := m.filter fun c => c.1 < a || a + n ≤ c.1

/-- The canonical form from a given lower bound on: addresses strictly rising, no listed 0. -/
def cellsFrom (lo : Nat) : List Host.Cell → Bool
  | [] => true
  | (a, b) :: m => lo ≤ a && b != 0#8 && cellsFrom (a + 1) m

/-- The canonical form of a sparse memory. -/
def Memory.wf (m : List Host.Cell) : Bool := cellsFrom 0 m

/-! ## Bit fields -/

/-- Bits [hi:lo] of a word, as a number (R12). -/
def bitsOf {w : Nat} (x : BitVec w) (hi lo : Nat) : Nat := x.toNat / 2 ^ lo % 2 ^ (hi + 1 - lo)

/-- The 64-bit word of a number. -/
def w64 (n : Nat) : W64 := BitVec.ofNat 64 n
/-- The 32-bit word of a number. -/
def w32 (n : Nat) : W32 := BitVec.ofNat 32 n

/-- 1 or 0 (R44). -/
def flag (b : Bool) : Nat := if b then 1 else 0
/-- A 64-bit 1 or 0. -/
def flag64 (b : Bool) : W64 := if b then 1#64 else 0#64
/-- A 32-bit 1 or 0. -/
def flag32 (b : Bool) : W32 := if b then 1#32 else 0#32

/-- The number whose low `n` bits are given by `p`. -/
def bitsFn (p : Nat → Bool) : Nat → Nat
  | 0 => 0
  | n + 1 => bitsFn p n + (if p n then 2 ^ n else 0)

/-- The mask of the lanes that `p` selects. -/
def maskOf (p : Nat → Bool) : W64 := BitVec.ofNat 64 (bitsFn p 64)

/-- The lanes of a mask, lowest first. -/
def lanesOf (m : W64) : List Nat := (List.range 64).filter fun i => m.getLsbD i

/-- The lowest lane of a mask, or 64. -/
def lowLane (m : W64) : Nat := (lanesOf m).headD 64

/-- The number of lanes in a mask. -/
def laneCount (m : W64) : Nat := (lanesOf m).length

/-- Lane `i` of a vector register. -/
def laneGet (v : Lanes) (i : Nat) : W32 := vget v i 0#32

/-- A vector register with the lanes of `m` taken from `new` (R89: other lanes keep their values). -/
def laneMerge (m : W64) (new old : Lanes) : Lanes :=
  Vector.ofFn fun i => if m.getLsbD i.val then new[i] else old[i]

/-- A vector register given lane by lane. -/
def lanesFn (f : Nat → W32) : Lanes := Vector.ofFn fun i => f i.val

/-- Sign-extension of the low `n` bits of a number, to 64 bits. -/
def signExt64 (n x : Nat) : W64 := (BitVec.ofNat n x).signExtend 64

/-- `x` rounded up to a multiple of `n`. -/
def roundUp (x n : Nat) : Nat := (x + n - 1) / n * n

/-- The smaller value of a list of numbers, if it is not empty. -/
def listMin : List Nat → Option Nat
  | [] => none
  | x :: xs => match listMin xs with
    | none => some x
    | some y => some (min x y)

/-- Inserts into a list that rises by `key`, after equal keys. -/
def insertBy {α : Type} (key : α → Nat) (x : α) : List α → List α
  | [] => [x]
  | y :: ys => if key x < key y then x :: y :: ys else y :: insertBy key x ys

/-- The list in rising order of `key`, equal keys in their own order. -/
def sortBy {α : Type} (key : α → Nat) (xs : List α) : List α := xs.foldl (fun acc x => insertBy key x acc) []

/-- Bit `c` of a mask. -/
def hasBit (m c : Nat) : Bool := m.testBit c

/-- Two byte ranges meet. -/
def overlaps (a n b m : Nat) : Bool := a < b + m && b < a + n

/-- The list without repeats, first occurrences kept. -/
def dedup {α : Type} [BEq α] : List α → List α
  | [] => []
  | x :: xs => x :: (dedup xs).filter (· != x)

end Sys2Proof.Machine
end

