-- ==== Sys2Proof/Machine/Sha3.lean ====
section
/-!
DEFINITION. SHA3-256 (FIPS 202), which the manual names for digests (R341, R377, R392, R393), and the CRC-32 of beats (R356).
-/

namespace Sys2Proof.Machine

/-- The round constants of Keccak-f[1600]. -/
def keccakRounds : List Nat :=
  [0x0000000000000001, 0x0000000000008082, 0x800000000000808A, 0x8000000080008000, 0x000000000000808B, 0x0000000080000001,
   0x8000000080008081, 0x8000000000008009, 0x000000000000008A, 0x0000000000000088, 0x0000000080008009, 0x000000008000000A] ++
  [0x000000008000808B, 0x800000000000008B, 0x8000000000008089, 0x8000000000008003, 0x8000000000008002, 0x8000000000000080,
   0x000000000000800A, 0x800000008000000A, 0x8000000080008081, 0x8000000000008080, 0x0000000080000001, 0x8000000080008008]

/-- The rotation of lane x + 5 y. -/
def keccakRotations : List Nat :=
  [0, 1, 62, 28, 27, 36, 44, 6, 55, 20, 3, 10, 43, 25, 39, 41, 45, 15, 21, 8, 18, 2, 61, 56, 14]

/-- One round of Keccak-f[1600] on 25 lanes. -/
def keccakRound (a : List W64) (rc : Nat) : List W64 :=
  let at_ (l : List W64) (i : Nat) : W64 := l.getD i 0
  let c := (List.range 5).map fun x => at_ a x ^^^ at_ a (x + 5) ^^^ at_ a (x + 10) ^^^ at_ a (x + 15) ^^^ at_ a (x + 20)
  let d := (List.range 5).map fun x => at_ c ((x + 4) % 5) ^^^ (at_ c ((x + 1) % 5)).rotateLeft 1
  let t := (List.range 25).map fun i => at_ a i ^^^ at_ d (i % 5)
  let b := (List.range 25).map fun i =>
    let j := (3 * (i / 5) + i % 5) % 5 + 5 * (i % 5)
    (at_ t j).rotateLeft (keccakRotations.getD j 0)
  let e := (List.range 25).map fun i =>
    let y := 5 * (i / 5)
    at_ b i ^^^ (~~~ at_ b (y + (i + 1) % 5) &&& at_ b (y + (i + 2) % 5))
  match e with
  | x :: xs => (x ^^^ w64 rc) :: xs
  | [] => []

/-- Keccak-f[1600]. -/
def keccakF (a : List W64) : List W64 := keccakRounds.foldl keccakRound a

/-- XORs a block of bytes into the state, 8 bytes to a lane. -/
def keccakAbsorb (a : List W64) (block : List Byte) : List W64 :=
  (indexed a).map fun e => e.2 ^^^ w64 (leAt block (8 * e.1) 8)

/-- Absorbs `n` blocks of 136 bytes. -/
def keccakBlocks : Nat → List Byte → List W64 → List W64
  | 0, _, a => a
  | n + 1, bs, a => keccakBlocks n (bs.drop 136) (keccakF (keccakAbsorb a (bs.take 136)))

/-- SHA3-256 of a list of bytes, 32 bytes. -/
def sha3 (bs : List Byte) : List Byte :=
  let pad := 136 - bs.length % 136
  let padded := bs ++ (if pad == 1 then [0x86#8] else 0x06#8 :: (List.replicate (pad - 2) 0#8 ++ [0x80#8]))
  let a := keccakBlocks (bs.length / 136 + 1) padded (List.replicate 25 0)
  (a.take 4).flatMap fun x => leBytes 8 x.toNat

/-- `n` steps of the bitwise CRC-32 with the polynomial of Ethernet, bits in reflected order. -/
def crcSteps : Nat → Nat → Nat
  | 0, r => r
  | n + 1, r => crcSteps n (if r % 2 == 1 then (r / 2) ^^^ 0xEDB88320 else r / 2)

/-- CRC-32 of a list of bytes, as Ethernet computes it. -/
def crc32 (bs : List Byte) : Nat := (bs.foldl (fun r b => crcSteps 8 (r ^^^ b.toNat)) 0xFFFFFFFF) ^^^ 0xFFFFFFFF

end Sys2Proof.Machine
end

