-- ==== Sys2Proof/Machine/Phys.lean ====
section
/-!
DEFINITION. Physical memory behind the cores: where an address is homed (R292), reading and writing at a home (R295, R296),
poison and corrected errors (R372, R374), poison responders (R384, R386), and the journal (R341, R342).
-/

namespace Sys2Proof.Machine

/-! ## Homes (R292). A key names one byte of one memory: 2^42 times the HBM4E die, or 4 plus the CXL port, plus the offset; a
host address is its own key. -/

/-- The key of a byte of HBM4E. -/
def hbmKey (die off : Nat) : Nat := die * 2 ^ 42 + off
/-- The key of a byte behind a CXL port. -/
def tierKey (port off : Nat) : Nat := (4 + port) * 2 ^ 42 + off

/-- The home of a physical address in the map of device `dev` (R292): 0 is the package as one, 1 and 2 the split devices. -/
def homeKey (dev pa : Nat) : Option Nat :=
  if 0x8000000000000 ≤ pa && pa < 0x10000000000000 then some pa
  else if dev == 0 then
    if pa < 0xC000000000 then some (hbmKey (pa / 4096 % 2) (pa / 8192 * 4096 + pa % 4096))
    else if 0x20000000000 ≤ pa && pa < 0x40000000000 then
      let o := pa - 0x20000000000
      some (tierKey (o / 4096 % 4) (o / 16384 * 4096 + o % 4096))
    else none
  else
    let own := dev - 1
    if pa < 0x6000000000 then some (hbmKey own pa)
    else if 0x8000000000 ≤ pa && pa < 0xE000000000 then some (hbmKey (1 - own) (pa - 0x8000000000))
    else if 0x20000000000 ≤ pa && pa < 0x30000000000 then
      let o := pa - 0x20000000000
      some (tierKey (2 * own + o / 4096 % 2) (o / 8192 * 4096 + o % 4096))
    else if 0x30000000000 ≤ pa && pa < 0x40000000000 then
      let o := pa - 0x30000000000
      some (tierKey (2 * (1 - own) + o / 4096 % 2) (o / 8192 * 4096 + o % 4096))
    else none

/-- The address lies in the host memory window (R292). -/
def isHost (pa : Nat) : Bool := 0x8000000000000 ≤ pa && pa < 0x10000000000000

/-- The die whose memory processor serves a device (R379). -/
def devDie (dev : Nat) : Nat := if dev == 2 then 1 else 0

/-- The device to which a die belongs in the present mode (R379): mode 1 is package-as-one, 2 split. -/
def dieDev (mode die : Nat) : Nat := if mode == 2 then die + 1 else 0

/-- The die that homes a key (R292). -/
def keyDie (key : Nat) : Nat :=
  if 2 ^ 51 ≤ key then 0
  else if key / 2 ^ 42 < 4 then key / 2 ^ 42
  else (key / 2 ^ 42 - 4) / 2

/-- The CXL port of a key of the second tier. -/
def keyPort (key : Nat) : Option Nat := if key < 2 ^ 51 && 4 ≤ key / 2 ^ 42 then some (key / 2 ^ 42 - 4) else none

/-- The key is answered by a poison responder to a request from die `die` (R384, R386). -/
def responder (s : State) (die key : Nat) : Bool :=
  (match keyPort key with | some p => s.cxlFailed.getLsbD p | none => false) ||
  (key < 2 ^ 51 && keyDie key != die && (vget s.dies (keyDie key) DieSt.reset).inReset)

/-! ## Bytes at their homes -/

/-- The team whose private pages an access sees (R369), if it is a replay. -/
def replayTeam (s : State) (team : Option Nat) : Option Team :=
  match team with
  | none => none
  | some u => match kget s.teams u with
    | some t => if t.run == .original then none else some t
    | none => none

/-- The byte at a key, as the crews of `team` see it. -/
def keyByte (s : State) (team : Option Nat) (key : Nat) : Byte :=
  match replayTeam s team with
  | some t => if t.shadows.contains (key / 4096) then cellsGet t.shadowMem key else cellsGet s.mem key
  | none => cellsGet s.mem key

/-- Writes a byte at a key. A replay first takes a private copy of the page (R369). -/
def keyWrite (s : State) (team : Option Nat) (key : Nat) (b : Byte) : State :=
  match replayTeam s team with
  | none => { s with mem := cellsSet s.mem key b }
  | some t =>
    let page := key / 4096
    let t := if t.shadows.contains page then t
      else { t with shadows := page :: t.shadows, shadowBad := t.shadowBad ++ s.poison.filter (· / 128 == page),
                    shadowMem := cellsWrite t.shadowMem (page * 4096) (cellsRead s.mem (page * 4096) 4096) }
    { s with teams := kset s.teams t.uid { t with shadowMem := cellsSet t.shadowMem key b } }

/-- The byte at a physical address of a device; an address in no range reads 0. -/
def physByte (s : State) (team : Option Nat) (dev pa : Nat) : Byte :=
  match homeKey dev pa with
  | some k => keyByte s team k
  | none => 0#8

/-- `n` bytes from a physical address up. -/
def physRead (s : State) (team : Option Nat) (dev pa : Nat) : Nat → List Byte
  | 0 => []
  | n + 1 => physByte s team dev pa :: physRead s team dev (pa + 1) n

/-- The little-endian number in `n` bytes of memory. -/
def physNat (s : State) (dev pa n : Nat) : Nat := leNat (physRead s none dev pa n)

/-- Writes consecutive bytes; a byte at an address in no range is dropped. -/
def physWriteBytes (s : State) (team : Option Nat) (dev pa : Nat) : List Byte → State
  | [] => s
  | b :: bs =>
    physWriteBytes (match homeKey dev pa with | some k => keyWrite s team k b | none => s) team dev (pa + 1) bs

/-- The sectors of 32 bytes that `[pa, pa + n)` touches, as keys divided by 32. -/
def sectorsOf (dev pa n : Nat) : List Nat :=
  (List.range ((pa % 32 + n + 31) / 32)).filterMap fun i => (homeKey dev (pa / 32 * 32 + 32 * i)).map (· / 32)

/-- The sectors that `[pa, pa + n)` covers whole. -/
def wholeSectors (dev pa n : Nat) : List Nat :=
  (List.range ((n + 31) / 32)).filterMap fun i =>
    let a := roundUp pa 32 + 32 * i
    if a + 32 ≤ pa + n then (homeKey dev a).map (· / 32) else none

/-- Sectors written whole lose their poison (R372): those of a replay's private pages, or those of memory (R369). -/
def healSectors (s : State) (team : Option Nat) (ks : List Nat) : State :=
  match replayTeam s team with
  | some t => { s with teams := kset s.teams t.uid { t with shadowBad := t.shadowBad.filter fun k => !ks.contains k } }
  | none => { s with poison := s.poison.filter (fun k => !ks.contains k), errors := s.errors.filter (fun e => !ks.contains e.1) }

/-- Sectors become poisoned (R372): those of a replay's private pages, or those of memory (R369). -/
def poisonSectors (s : State) (team : Option Nat) (ks : List Nat) : State :=
  match replayTeam s team with
  | some t => { s with teams := kset s.teams t.uid { t with shadowBad := t.shadowBad ++ ks.filter fun k => !t.shadowBad.contains k } }
  | none => { s with poison := s.poison ++ ks.filter fun k => !s.poison.contains k }

/-- Writes bytes at their homes. A sector written whole loses its poison (R372). -/
def physWrite (s : State) (team : Option Nat) (dev pa : Nat) (bs : List Byte) : State :=
  healSectors (physWriteBytes s team dev pa bs) team (wholeSectors dev pa bs.length)

/-- The 32 bytes of a sector of addresses all lie in some ranges, address and length. -/
def coveredSector (rs : List (Nat × Nat)) (k : Nat) : Bool :=
  (List.range 32).all fun i => rs.any fun r => r.1 ≤ 32 * k + i && 32 * k + i < r.1 + r.2

/-- The sectors that the ranges of one store cover whole between them, as keys divided by 32. -/
def coveredSectors (dev : Nat) (rs : List (Nat × Nat)) : List Nat :=
  ((dedup (rs.map fun r => r.1 / 32)).filter (coveredSector rs)).filterMap fun k => (homeKey dev (32 * k)).map (· / 32)

/-! ## The journal (R341) -/

/-- The content of a journal entry besides SEQ and STAMP. -/
structure JEntry where
  kind   : Nat
  code   : Nat
  queue  : Nat
  die    : Nat
  index  : Nat
  digest : List Byte
  detail : Nat
  deriving DecidableEq, Repr

/-- The digest of an event that has no command. -/
def noDigest : List Byte := List.replicate 32 0#8

/-- The 64 bytes of a journal entry (R341). -/
def journalBytes (seq stamp : Nat) (e : JEntry) : List Byte :=
  leBytes 8 seq ++ leBytes 1 e.kind ++ leBytes 1 e.code ++ leBytes 1 e.queue ++ leBytes 1 e.die ++ leBytes 4 e.index ++
    e.digest ++ leBytes 8 stamp ++ leBytes 8 e.detail

/-- The next entry of a device's ring, or HEAD, cannot be written: it lies in no range or behind a responder. -/
def ringLost (s : State) (dev : Nat) : Bool :=
  let d := vget s.devs dev DevSt.reset
  match homeKey dev (d.jBase + 64 * (d.seq % 2 ^ d.jLog)), homeKey dev (d.jBase - 64) with
  | some k, some h => responder s (devDie dev) k || responder s (devDie dev) h
  | _, _ => true

/-- A fatal error of cause `cause` stops every crew and acceptance (R377); a second one finds the package stopped. -/
def fatalStop (s : State) (cause : Nat) : State := if s.stopped == 3 then s else { s with fatal := some cause, stopped := 3 }

/-- Writes a journal entry of a device, then HEAD (R341). A ring that cannot be written is fatal (R377, cause 4). A device that DEVICE_INIT
has not prepared has no journal. -/
def journal (s : State) (dev : Nat) (e : JEntry) : State :=
  let d := vget s.devs dev DevSt.reset
  if !d.prepared then s
  else
    let pa := d.jBase + 64 * (d.seq % 2 ^ d.jLog)
    if ringLost s dev then fatalStop s 4
    else
      let s := physWrite s none dev pa (journalBytes d.seq s.reftime e)
      let s := physWrite s none dev (d.jBase - 64) (leBytes 8 (d.seq + 1))
      { s with devs := vset s.devs dev { d with seq := d.seq + 1 } }

/-- An event with no command (R341, kinds 6 and 16 to 63). -/
def journalEvent (s : State) (dev kind code die detail : Nat) : State :=
  journal s dev { kind := kind, code := code, queue := 0xFF, die := die, index := 0, digest := noDigest, detail := detail }

/-- An event of a team (R341, kinds 4 to 7). -/
def journalTeam (s : State) (team kind code die detail : Nat) : State :=
  match kget s.teams team with
  | none => s
  | some t => match kget s.launches t.launch with
    | none => s
    | some l => journal s l.dev.val { kind := kind, code := code, queue := l.queue, die := die, index := t.index, digest := noDigest,
                                      detail := detail }

/-! ## Reading with errors (R372, R374) -/

/-- The slice of its die that homes a physical address's line (R293). The choice of slice changes timing only, so an access names no slice: it is
performed at its home, and `homeKey` says where that is (log 16). -/
def homeSlice (pa : Nat) : Nat := (pa / 2 ^ 7 % 2 ^ 16 ^^^ pa / 2 ^ 23 % 2 ^ 16 ^^^ pa / 2 ^ 39 % 2 ^ 13) % 48

/-- 24 hours in REFTIME ticks (R374). -/
def dayTicks : Nat := 8640000000000

/-- The memory that a sector belongs to, by the code of kind 22: 1 HBM4E, 2 the second tier. -/
def sectorCode (sector : Nat) : Nat := match keyPort (32 * sector) with | some _ => 2 | none => 1

/-- The HBM4E row of a sector is spared (R374): its history ends. With no spare left in the bank its frames are retired, and its pages await the
memory processor. -/
def spareRow (s : State) (dev die sector pa : Nat) : State :=
  let key := 32 * sector
  let bank := Config.hbmBank key
  let used := kgetD s.spares bank 0
  let s := { s with corrected := kdel s.corrected (Config.hbmRow key) }
  if used < Config.hbmSpares then journalEvent { s with spares := kset s.spares bank (used + 1) } dev 24 1 die pa
  else
    { s with retired := s.retired ++ (Config.rowFrames (Config.hbmRow key)).filter (fun n => !s.retired.contains n),
             rowWork := s.rowWork ++ [(dev, die, Config.hbmRow key)] }

/-- A corrected event of a sector (R372, R374, R378): journalled with the code of its place; a second one of an HBM4E row within 24 hours spares the
row. -/
def correctedEvent (s : State) (dev die sector pa code : Nat) : State :=
  let s := journalEvent s dev 22 code die pa
  if code == 3 || sectorCode sector == 2 then s
  else
    let row := Config.hbmRow (32 * sector)
    let now := s.reftime
    let again : Bool := match kget s.corrected row with | some t => now - t < dayTicks | none => false
    let s := { s with corrected := kset s.corrected row now }
    if again then spareRow s dev die sector pa else s

/-- A retry that fails at a sector's home (R372, R374): the sector is poisoned; a row of HBM4E is spared. -/
def failedRetry (s : State) (dev die sector pa : Nat) (l2 : Bool) : State :=
  let s := poisonSectors s none [sector]
  if !l2 && sectorCode sector == 1 then spareRow s dev die sector pa else s

/-- A read meets one sector (R372): whether it is delivered poisoned. A replay's private copy has marks of its own (R369). -/
def touchSector (s : State) (team : Option Nat) (dev die pa sector : Nat) : State × Bool :=
  let shadow : Option Team := (replayTeam s team).bind fun t => if t.shadows.contains (sector / 128) then some t else none
  match shadow with
  | some t => (s, t.shadowBad.contains sector)
  | none =>
    if responder s die (32 * sector) then (s, true)
    else match kget s.errors sector with
      | some (false, l2) =>
        let code := if l2 then 3 else sectorCode sector
        (correctedEvent { s with errors := kdel s.errors sector } dev die sector pa code, s.poison.contains sector)
      | some (true, l2) => (failedRetry { s with errors := kdel s.errors sector } dev die sector pa l2, true)
      | none => (s, s.poison.contains sector)

/-- A read meets several sectors. -/
def touchSectors (s : State) (team : Option Nat) (dev die pa : Nat) : List Nat → State × Bool
  | [] => (s, false)
  | k :: ks =>
    let r := touchSector s team dev die pa k
    let q := touchSectors r.1 team dev die pa ks
    (q.1, r.2 || q.2)

/-- A read of `n` bytes at their homes from die `die`: the bytes, and whether they are poisoned. -/
def readHome (s : State) (team : Option Nat) (dev die pa n : Nat) : State × List Byte × Bool :=
  let r := touchSectors s team dev die pa (sectorsOf dev pa n)
  (r.1, physRead r.1 team dev pa n, r.2)

/-- The write of `[pa, pa + n)` by granules of 4 KiB, each of which has one home (R292): address and bytes. -/
def homePieces (pa : Nat) (bs : List Byte) : List (Nat × List Byte) :=
  (List.range ((pa % 4096 + bs.length + 4095) / 4096)).map fun i =>
    let a := if i == 0 then pa else pa / 4096 * 4096 + 4096 * i
    (a, (bs.drop (a - pa)).take (4096 - a % 4096))

/-- A replay that writes a page for the first time takes its private copy (R369): every sector of the page is read at its home (R372). -/
def takeCopy (s : State) (team : Option Nat) (dev die pa : Nat) : State :=
  match replayTeam s team with
  | none => s
  | some t =>
    let base := pa / 4096 * 4096
    match homeKey dev base with
    | none => s
    | some k => if t.shadows.contains (k / 4096) then s else (touchSectors s none dev die base (sectorsOf dev base 4096)).1

/-- A write within one granule at its home from die `die`. The port of a die in reset acknowledges it, discards it and has the discard journalled (R384);
so does a second-tier port whose link has failed (R386). -/
def writePiece (s : State) (team : Option Nat) (dev die : Nat) (p : Nat × List Byte) : State :=
  match homeKey dev p.1 with
  | none => s
  | some k =>
    if responder s die k then
      match team with
      | some t => journalTeam s t 6 4 die p.1
      | none => journalEvent s dev 6 4 die p.1
    else physWrite (takeCopy s team dev die p.1) team dev p.1 p.2

/-- A write at its home from die `die`, granule by granule. -/
def writeHome (s : State) (team : Option Nat) (dev die pa : Nat) (bs : List Byte) : State :=
  (homePieces pa bs).foldl (fun s p => writePiece s team dev die p) s

/-- The sector carries a poison mark or an error, as the crews of `team` see it. -/
def sectorBad (s : State) (team : Option Nat) (k : Nat) : Bool :=
  match (replayTeam s team).bind fun t => if t.shadows.contains (k / 128) then some t else none with
  | some t => t.shadowBad.contains k
  | none => s.poison.contains k || (kget s.errors k).isSome

/-- One store, or one copy, has written ranges of memory, one after the other: `wrote` holds those of its earlier ranges that lie in sectors which are
still poisoned. A sector that they cover whole between them loses its poison (R372). What is left of the ranges. -/
def healWritten (s : State) (team : Option Nat) (dev die : Nat) (wrote now : List (Nat × Nat)) : State × List (Nat × Nat) :=
  let marked (s : State) (r : Nat × Nat) : Bool := (sectorsOf dev r.1 r.2).any (sectorBad s team)
  let all := wrote ++ now.filter (marked s)
  let s := healSectors s team ((coveredSectors dev all).filter fun k => !responder s die (32 * k))
  (s, all.filter (marked s))

/-- A no-return atomic or an atomic with return updates memory at its home (R296): a poison responder has answered the latter poisoned, and writes nothing
(R384). -/
def updateHome (s : State) (team : Option Nat) (dev die pa : Nat) (bs : List Byte) : State :=
  match homeKey dev pa with
  | some k => if responder s die k then s else writeHome s team dev die pa bs
  | none => s

/-- A value that the manual leaves open (log 10): the next free value, and the state whose counter has moved on. -/
def takeFree (s : State) : State × Nat := ({ s with free := s.free + 1 }, Config.freeValue s.free)

/-! ## The memory processor's own accesses (R341, R386, R429) -/

/-- A unit's requests to a home across the Sound time out (R382). -/
def lateFar (s : State) (u : LateUnit) (die key : Nat) : Bool := s.late == some u && key < 2 ^ 51 && keyDie key != die && !responder s die key

/-- The sector of a key is delivered poisoned after its retry (R372). -/
def deliversBad (s : State) (k : Nat) : Bool := s.poison.contains k || (match kget s.errors k with | some (hard, _) => hard | none => false)

/-- A byte that the memory processor reads: a poison responder, a time-out or an error delivers no datum, and what the processor then works with is open
(R372, R382, R384, R386; log 10). -/
def mpByte (s : State) (dev pa : Nat) : Byte :=
  match homeKey dev pa with
  | some k =>
    if responder s (devDie dev) k || lateFar s (.processor dev) (devDie dev) k || deliversBad s (k / 32) then Config.lostByte k else keyByte s none k
  | none => 0#8

/-- `n` bytes from an address up, as the memory processor reads them. -/
def mpRead (s : State) (dev pa n : Nat) : List Byte := (List.range n).map fun i => mpByte s dev (pa + i)

/-- A block of memory as the memory processor reads it: `mpRead`, granule by granule in one pass each. -/
def mpBlock (s : State) (dev pa n : Nat) : List Byte :=
  (homePieces pa (List.replicate n 0#8)).flatMap fun p => match homeKey dev p.1 with
    | none => p.2
    | some k =>
      let bs := cellsBlock s.mem k p.2.length
      if responder s (devDie dev) k || lateFar s (.processor dev) (devDie dev) k then (List.range p.2.length).map fun i => Config.lostByte (k + i)
      else if (sectorsOf dev p.1 p.2.length).any (deliversBad s) then
        (indexed bs).map fun e => if deliversBad s ((k + e.1) / 32) then Config.lostByte (k + e.1) else e.2
      else bs

/-- The little-endian number in them. -/
def mpNat (s : State) (dev pa n : Nat) : Nat := leNat (mpRead s dev pa n)

/-- What a read by the memory processor does at the homes (R372, R374): errors that it meets are retried, journalled, or poison their sectors. -/
def mpTouch (s : State) (dev pa n : Nat) : State := (touchSectors s none dev (devDie dev) pa (sectorsOf dev pa n)).1

/-- A read of `n` bytes by the memory processor, with what it does at the homes. -/
def mpFetch (s : State) (dev pa n : Nat) : State × List Byte := (mpTouch s dev pa n, mpRead s dev pa n)

/-- A write of a unit, granule by granule. One whose answer across the Sound does not come in time may or may not have been performed, and is journalled
(R382; log 10). -/
def writeUnit (s : State) (u : LateUnit) (dev die pa : Nat) (bs : List Byte) : State :=
  (homePieces pa bs).foldl (fun s p => match homeKey dev p.1 with
    | some k =>
      if lateFar s u die k then
        let (s, n) := takeFree s
        journalEvent (if n % 2 == 1 then writePiece s none dev die p else s) dev 6 5 die p.1
      else writePiece s none dev die p
    | none => s) s

/-- A read of a unit at its home: one whose answer across the Sound does not come in time completes poisoned (R382; log 10). -/
def readUnit (s : State) (u : LateUnit) (dev die pa n : Nat) : State × List Byte × Bool :=
  let late (a : Nat) : Bool := match homeKey dev a with | some k => lateFar s u die k | none => false
  let (t, bs, bad) := readHome s none dev die pa n
  if late pa || late (pa + n - 1) then (t, (List.range n).map fun i => Config.lostByte (pa + i), true) else (t, bs, bad)

/-- The memory processor writes bytes. -/
def mpWrite (s : State) (dev pa : Nat) (bs : List Byte) : State := writeUnit s (.processor dev) dev (devDie dev) pa bs

/-- What crews have read early of a range of physical memory is gone. -/
def dropEarly (s : State) (pa n : Nat) : State :=
  { s with cores := s.cores.map fun e => (e.1, { e.2 with early := e.2.early.filter fun r => !overlaps r.pa r.bytes.length pa n }) }

/-- The memory processor copies `n` sectors of a device's memory; a sector that is read with an error arrives poisoned (R315, R337, R372). -/
def copySectors (s : State) (dev old new : Nat) (n : Nat) : State :=
  (List.range n).foldl (fun s i =>
    let (s, bs, bad) := readUnit s (.processor dev) dev (devDie dev) (old + 32 * i) 32
    let s := mpWrite s dev (new + 32 * i) bs
    if bad then poisonSectors s none (sectorsOf dev (new + 32 * i) 32) else s) (dropEarly s new (32 * n))

end Sys2Proof.Machine
end

