-- ==== Sys2Proof/Machine/Translate.lean ====
section
/-!
DEFINITION. Virtual addresses: the page walk (R308 to R311, R323), permissions (R310), fault records (R316, R320 to R322) and the
answers to them.
-/

namespace Sys2Proof.Machine

/-! ## Page-table entries (R309) -/

/-- The lowest virtual-address bit that a level decodes (R308). -/
def levelShift (level : Nat) : Nat := 12 + 9 * level

/-- The key of the entry of `va` at a level: entries are kept by level and virtual-address prefix (log 14). -/
def pteKey (level va : Nat) : Nat := level * 2 ^ 44 + va / 2 ^ levelShift level

/-- V (R309). -/
def pteV (e : W64) : Bool := e.getLsbD 0
/-- LEAF. -/
def pteLeaf (e : W64) : Bool := e.getLsbD 1
/-- C. -/
def pteC (e : W64) : Bool := e.getLsbD 5
/-- The physical address that an entry holds. -/
def pteFrame (e : W64) : Nat := bitsOf e 51 12 * 4096

/-- An entry from its parts: V = 1. -/
def mkPte (leaf r w x c u : Bool) (frame : Nat) : W64 :=
  w64 (1 + 2 * flag leaf + 4 * flag r + 8 * flag w + 16 * flag x + 32 * flag c + 64 * flag u + frame / 4096 % 2 ^ 40 * 4096)

/-- A present entry obeys R308 and R309 at its level, its 64 KiB group apart. -/
def pteOk (level : Nat) (e : W64) : Bool :=
  bitsOf e 11 7 == 0 && bitsOf e 63 52 == 0 && (level != 0 || pteLeaf e) && (level < 3 || !pteLeaf e) &&
    (level == 0 || !pteC e) && (!pteLeaf e || pteFrame e % 2 ^ levelShift level == 0)

/-- The 16 entries of a 64 KiB group agree (R309). -/
def groupOk (ptes : KMap W64) (va : Nat) (e : W64) : Bool :=
  let base := va / 65536 * 65536
  (List.range 16).all fun j =>
    let f := kgetD ptes (pteKey 0 (base + 4096 * j)) 0
    pteV f && pteOk 0 f && pteC f && bitsOf f 4 2 == bitsOf e 4 2 && bitsOf f 6 6 == bitsOf e 6 6 &&
      pteFrame f == pteFrame e / 65536 * 65536 + 4096 * j

/-- What a walk ends in (R316). -/
inductive Walk where
  /-- A present leaf, its page size as a shift. -/
  | present (leaf : W64) (shift : Nat)
  | absent
  | poisonPt
  | badPte
  deriving DecidableEq, Repr

/-- Permission kinds (R310). -/
inductive Acc where
  | load | store | atomic | fetch
  deriving DecidableEq, Repr

/-- A leaf grants an access (R310). -/
def permits (leaf : W64) : Acc → Bool
  | .load => leaf.getLsbD 2
  | .store => leaf.getLsbD 3
  | .atomic => leaf.getLsbD 2 && leaf.getLsbD 3
  | .fetch => leaf.getLsbD 4

/-! ## The walk -/

/-- The record of a context. -/
def ctxOf (s : State) (ctx : Nat) : Option Context := kget s.contexts ctx

/-- Forgets the cached translations of a context that satisfy `p` (R313, R323), on both dies. -/
def dropCached (s : State) (ctx : Nat) (p : TransEntry → Bool) : State :=
  let keep (l : List TransEntry) := l.filter fun e => !(e.ctx == ctx && p e)
  { s with cores := s.cores.map (fun e => (e.1, { e.2 with tcache := keep e.2.tcache })),
           dies := s.dies.map (fun d => { d with tcache := keep d.tcache }) }

/-- A cached translation lies under the table page that holds the entries of `va` at a level (R323). -/
def underTable (level va : Nat) (e : TransEntry) : Bool :=
  e.vp * 2 ^ e.shift / 2 ^ levelShift (level + 1) == va / 2 ^ levelShift (level + 1)

/-- The walker reads one entry (R323). A soft error is a corrected event of its row; a hard one is a failed retry, which spares the row (R374), and the
live page is rewritten from the master copy; an entry that cannot be rebuilt reads as none. -/
def readPte (s : State) (die ctx level va : Nat) : State × Option W64 :=
  match ctxOf s ctx with
  | none => (s, some 0)
  | some c =>
    let k := pteKey level va
    let e := kgetD c.ptes k 0
    let pa := Config.tableFrame ctx level (va / 2 ^ levelShift (level + 1)) + 8 * (va / 2 ^ levelShift level % 512)
    let sector := match homeKey c.dev.val pa with | some k => k / 32 | none => pa / 32
    match kget c.pteErr k with
    | none => (s, some e)
    | some 0 =>
      let s := { s with contexts := kset s.contexts ctx { c with pteErr := kdel c.pteErr k } }
      (correctedEvent s c.dev.val die sector pa 1, some e)
    | some 1 =>
      let s := { s with contexts := kset s.contexts ctx { c with pteErr := kdel c.pteErr k } }
      (dropCached (spareRow s c.dev.val die sector pa) ctx (underTable level va), some e)
    | some 2 =>
      let s := { s with contexts := kset s.contexts ctx { c with pteErr := kset c.pteErr k 3 } }
      (dropCached (spareRow s c.dev.val die sector pa) ctx (underTable level va), none)
    | some _ => (dropCached s ctx (underTable level va), none)

/-- The walk from a level down to 0 (R308, R309, R316). -/
def walkFrom (s : State) (die ctx va : Nat) : Nat → State × Walk
  | 0 =>
    match readPte s die ctx 0 va with
    | (s, none) => (s, .poisonPt)
    | (s, some e) =>
      if !pteV e then (s, .absent)
      else if !pteOk 0 e then (s, .badPte)
      else if pteC e then
        let ptes := match ctxOf s ctx with | some c => c.ptes | none => []
        if groupOk ptes va e then (s, .present (e &&& ~~~ 0xF000#64) 16) else (s, .badPte)
      else (s, .present e 12)
  | level + 1 =>
    match readPte s die ctx (level + 1) va with
    | (s, none) => (s, .poisonPt)
    | (s, some e) =>
      if !pteV e then (s, .absent)
      else if !pteOk (level + 1) e then (s, .badPte)
      else if pteLeaf e then (s, .present e (levelShift (level + 1)))
      else walkFrom s die ctx va level

/-- A cached translation of an address. -/
def cachedIn (l : List TransEntry) (ctx va : Nat) : Option TransEntry :=
  l.find? fun e => e.ctx == ctx && e.vp == va / 2 ^ e.shift

/-- The outcome of a translation for a core (R311): its own cache, then the die's, then a walk, whose present leaf both caches
take. The oldest entry of a full cache leaves (log 15). -/
def translate (s : State) (die core ctx va : Nat) : State × Walk :=
  match kget s.cores (coreKey die core) with
  | none => walkFrom s die ctx va 4
  | some co =>
    match cachedIn co.tcache ctx va with
    | some e => (s, .present e.leaf e.shift)
    | none =>
      let d := vget s.dies die DieSt.reset
      match cachedIn d.tcache ctx va with
      | some e =>
        ({ s with cores := kset s.cores (coreKey die core) { co with tcache := (e :: co.tcache).take 512 } }, .present e.leaf e.shift)
      | none =>
        match walkFrom s die ctx va 4 with
        | (s, .present leaf shift) =>
          let e : TransEntry := { ctx := ctx, shift := shift, vp := va / 2 ^ shift, leaf := leaf }
          ({ s with cores := kmod s.cores (coreKey die core) (fun co => { co with tcache := (e :: co.tcache).take 512 }),
                    dies := vmod s.dies die (fun d => { d with tcache := (e :: d.tcache).take 16384 }) },
           .present leaf shift)
        | r => r

/-- The physical address of `va` under a present leaf. -/
def leafPa (leaf : W64) (shift va : Nat) : Nat := pteFrame leaf / 2 ^ shift * 2 ^ shift + va % 2 ^ shift

/-- The leaf that maps an address: its level, page-size shift and entry. -/
def leafAt (m : KMap W64) (va : Nat) : Option (Nat × Nat × W64) :=
  let at_ (level : Nat) : Option W64 :=
    match kget m (pteKey level va) with | some e => if pteV e && pteLeaf e then some e else none | none => none
  match at_ 2, at_ 1, at_ 0 with
  | some e, _, _ => some (2, 30, e)
  | none, some e, _ => some (1, 21, e)
  | none, none, some e => some (0, if pteC e then 16 else 12, e)
  | none, none, none => none

/-! ## Fault records (R320 to R322) -/

/-- A fault record before its SEQ, COUNT and STAMP are known (R321). -/
structure FaultRec where
  vp      : Nat
  kind    : Nat
  access  : Nat
  lowLane : Nat
  core    : Nat
  slot    : Nat
  die     : Nat
  word    : Nat
  deriving DecidableEq, Repr

/-- The 32 bytes of a fault record (R321). -/
def faultBytes (ctx stamp seq count : Nat) (r : FaultRec) : List Byte :=
  leBytes 8 (r.vp * 4096) ++ leBytes 1 r.kind ++ leBytes 1 r.access ++ leBytes 1 r.lowLane ++ leBytes 1 seq ++
    leBytes 1 count ++ leBytes 1 r.core ++ leBytes 1 r.slot ++ leBytes 1 r.die ++ leBytes 4 r.word ++ leBytes 2 ctx ++
    leBytes 2 0 ++ leBytes 8 stamp

/-- Free entries of the ring whose control block lies at `cb` (R322). -/
def ringFree (s : State) (dev cb : Nat) : Nat :=
  2 ^ mpNat s dev (cb + 8) 1 - (mpNat s dev (cb + 12) 4 + 2 ^ 32 - mpNat s dev (cb + 16) 4) % 2 ^ 32

/-- Writes one entry of `size` bytes to a ring and advances PROD (R322, R335). -/
def ringPut (s : State) (dev cb size : Nat) (bs : List Byte) : State :=
  let s := mpTouch s dev cb 64
  let prod := mpNat s dev (cb + 12) 4
  let s := mpWrite s dev (mpNat s dev cb 8 + size * (prod % 2 ^ mpNat s dev (cb + 8) 1)) bs
  mpWrite s dev (cb + 12) (leBytes 4 ((prod + 1) % 2 ^ 32))

/-- The page lies in a unified range of its context (R315). -/
def inUnified (c : Context) (vp : Nat) : Bool := c.unified.any fun r => r.1 ≤ vp * 4096 && vp * 4096 < r.2

/-- Writes the records of one word in one step (R320), kind 1 for a page of a unified range; nothing when the ring is too full
(R322). Records of kinds 0 and 1 stay unanswered. -/
def writeRecords (s : State) (ctx : Nat) (recs : List FaultRec) : Option State :=
  match ctxOf s ctx with
  | none => some s
  | some c =>
    if recs.isEmpty then some s
    else if ringFree s c.dev.val c.faultQ < recs.length then none
    else
      let recs := recs.map fun r => if r.kind == 0 && inUnified c r.vp then { r with kind := 1 } else r
      let put (s : State) (e : Nat × FaultRec) : State :=
        ringPut s c.dev.val c.faultQ 32 (faultBytes ctx s.reftime e.1 recs.length e.2)
      let s := (indexed recs).foldl put s
      let open_ := dedup (c.unanswered ++ (recs.filter (fun r => r.kind ≤ 1)).map (·.vp))
      some { s with contexts := kmod s.contexts ctx fun c => { c with unanswered := open_ } }

/-- The waits with the answer for page `vp` (R320): only records that are still unanswered take it. -/
def answerWaits (vp : Nat) (mapped : Bool) (ws : List PageWait) : List PageWait :=
  ws.map fun w => if w.vp == vp && w.answer == none then { w with answer := some mapped } else w

/-- Every page waited for is answered (R319). -/
def waitsAnswered (ws : List PageWait) : Bool := ws.all fun w => w.answer != none

/-- A page that was answered with a refusal. -/
def refused (ws : List PageWait) (vp : Nat) : Bool := ws.any fun w => w.vp == vp && w.answer == some false

/-- A page whose record is unanswered. -/
def waiting (ws : List PageWait) (vp : Nat) : Bool := ws.any fun w => w.vp == vp && w.answer == none

/-- The context of a launch. -/
def launchCtx (s : State) (launch : Nat) : Nat := match kget s.launches launch with | some l => l.ctx | none => 4096
/-- The launch of a team. -/
def teamLaunch (s : State) (team : Nat) : Nat := match kget s.teams team with | some t => t.launch | none => 0
/-- The context of a crew (R308); 4096 for none. -/
def crewCtx (s : State) (c : Crew) : Nat :=
  match kget s.teams c.team with | some t => launchCtx s t.launch | none => 4096

/-- A fragment with its waits answered. -/
def answerFrag (vp : Nat) (mapped : Bool) (sl : SplitSlot) : SplitSlot :=
  match sl.frag with
  | none => sl
  | some f => { sl with frag := some { f with held := answerWaits vp mapped f.held } }

/-- A crew with its waits answered. -/
def answerCrew (vp : Nat) (mapped : Bool) (c : Crew) : Crew :=
  { c with held := answerWaits vp mapped c.held,
           div := { c.div with slots := c.div.slots.map (answerFrag vp mapped) },
           sideLog := c.sideLog.map fun e => { e with waits := answerWaits vp mapped e.waits } }

/-- A crew belongs to a context. -/
def inCtx (s : State) (ctx crew : Nat) : Bool :=
  match kget s.crews crew with | some c => crewCtx s c == ctx | none => false

/-- A core with the waits of its copies answered. -/
def answerCore (s : State) (ctx vp : Nat) (mapped : Bool) (co : CoreSt) : CoreSt :=
  let one (k : CopyCmd) : CopyCmd := if inCtx s ctx k.crew then { k with waits := answerWaits vp mapped k.waits } else k
  { co with copyQ := co.copyQ.map one }

/-- A team with the waits of its granules answered. -/
def answerTeam (vp : Nat) (mapped : Bool) (t : Team) : Team :=
  let one (g : Nat × Granule) : Nat × Granule := (g.1, { g.2 with waits := answerWaits vp mapped g.2.waits })
  { t with granules := t.granules.map one }

/-- A device with the waits of a context's queues answered. -/
def answerDev (ctx vp : Nat) (mapped : Bool) (d : DevSt) : DevSt :=
  let one (q : Nat × SubQueue) : Nat × SubQueue :=
    if q.2.ctx == ctx then (q.1, { q.2 with waits := answerWaits vp mapped q.2.waits }) else q
  { d with queues := d.queues.map one }

/-- A fabric unit with the waits of a context's windows answered. -/
def answerFabric (ctx vp : Nat) (mapped : Bool) (f : FabricSt) : FabricSt :=
  let one (w : Nat × WinState) : Nat × WinState :=
    if w.2.ctx == ctx then (w.1, { w.2 with waits := answerWaits vp mapped w.2.waits }) else w
  { f with wins := f.wins.map one }

/-- A saved team and its crews with their waits answered. -/
def answerSaved (s : State) (ctx vp : Nat) (mapped : Bool) (e : Nat × Team × List Crew × List CoreSt) : Nat × Team × List Crew × List CoreSt :=
  if launchCtx s e.2.1.launch == ctx then (e.1, answerTeam vp mapped e.2.1, e.2.2.1.map (answerCrew vp mapped), e.2.2.2) else e

/-- RESOLVE: one answer for every unanswered record of a page in a context, those of saved crews among them (R320). -/
def answerPage (s : State) (ctx vp : Nat) (mapped : Bool) : State :=
  let crew (e : Nat × Crew) : Nat × Crew := if crewCtx s e.2 == ctx then (e.1, answerCrew vp mapped e.2) else e
  let team (e : Nat × Team) : Nat × Team :=
    if launchCtx s e.2.launch == ctx then (e.1, answerTeam vp mapped e.2) else e
  { s with
    crews := s.crews.map crew,
    cores := s.cores.map fun e => (e.1, answerCore s ctx vp mapped e.2),
    teams := s.teams.map team,
    saved := s.saved.map (answerSaved s ctx vp mapped),
    devs := s.devs.map (answerDev ctx vp mapped),
    fabrics := s.fabrics.map (answerFabric ctx vp mapped),
    contexts := kmod s.contexts ctx fun c => { c with unanswered := c.unanswered.filter (· != vp) } }

/-! ## The checks of one word (R130, R207) -/

/-- What one lane's address meets. -/
inductive LaneCheck where
  | ok (pa : Nat)
  | absent
  | fail (step cause detail : Nat)
  deriving DecidableEq, Repr

/-- The page is one that the memory processor has refused to map (R130, R292). -/
def barredAt (s : State) (ctx va : Nat) : Bool :=
  match ctxOf s ctx with
  | some c => c.barred.any fun r => r.1 ≤ va && va < r.2
  | none => false

/-- The checks of one lane: canonical, aligned, permitted, present (R207). `hostBad` marks accesses that host memory does not
take (R294). -/
def checkLane (s : State) (die core dev ctx : Nat) (va : W64) (align : Nat) (acc : Acc) (hostBad : Bool) : State × LaneCheck :=
  if bitsOf va 63 56 != 0 then (s, .fail 1 0x0B 0)
  else if va.toNat % align != 0 then (s, .fail 2 0x0A 0)
  else match translate s die core ctx va.toNat with
    | (s, .absent) => if barredAt s ctx va.toNat then (s, .fail 4 0x0B 0) else (s, .absent)
    | (s, .poisonPt) => (s, .fail 4 0x0B 6)
    | (s, .badPte) => (s, .fail 4 0x0B 7)
    | (s, .present leaf shift) =>
      let pa := leafPa leaf shift va.toNat
      if !permits leaf acc then (s, .fail 3 0x0C 0)
      else if hostBad && isHost pa then (s, .fail 3 0x0C 4)
      else if homeKey dev pa == none then (s, .fail 4 0x0B 0)
      else (s, .ok pa)

/-- The checks of several lanes, in ascending order. -/
def checkLanes (s : State) (die core dev ctx : Nat) (align : Nat) (acc : Acc) (hostBad : Bool) :
    List (Nat × W64) → State × List (Nat × W64 × LaneCheck)
  | [] => (s, [])
  | (i, va) :: ls =>
    let r := checkLane s die core dev ctx va align acc hostBad
    let q := checkLanes r.1 die core dev ctx align acc hostBad ls
    (q.1, (i, va, r.2) :: q.2)

/-- The failing lanes of the earliest check that fails: mask, lowest address, cause and detail (R207). -/
structure CheckFail where
  cause  : Nat
  detail : Nat
  mask   : W64
  addr   : W64
  deriving DecidableEq, Repr

/-- The failure at one step, if any lane fails there. -/
def failAt (step : Nat) (ls : List (Nat × W64 × LaneCheck)) : Option CheckFail :=
  let bad := ls.filter fun l => match l.2.2 with | .fail k _ _ => k == step | _ => false
  match bad with
  | [] => none
  | (_, va, ck) :: _ => match ck with
    | .fail _ c d => some { cause := c, detail := d, mask := maskOf (fun i => bad.any (·.1 == i)), addr := va }
    | _ => none

/-- The cause of the earliest check that fails in any lane (R207). -/
def firstFail (ls : List (Nat × W64 × LaneCheck)) : Option CheckFail :=
  (failAt 1 ls).or ((failAt 2 ls).or ((failAt 3 ls).or (failAt 4 ls)))

/-- The distinct absent pages of a word, in ascending order of the lowest lane that touches each, with that lane (R320). -/
def absentPages (ls : List (Nat × W64 × LaneCheck)) : List (Nat × Nat) :=
  ls.foldl (fun acc l => if l.2.2 == .absent && !acc.any (·.1 == l.2.1.toNat / 4096)
    then acc ++ [(l.2.1.toNat / 4096, l.1)] else acc) []

/-- The distinct pages of the lanes whose walk met a bad entry, with their lowest lanes (R316). -/
def badPages (ls : List (Nat × W64 × LaneCheck)) (detail : Nat) : List (Nat × Nat) :=
  ls.foldl (fun acc l => if l.2.2 == .fail 4 0x0B detail && !acc.any (·.1 == l.2.1.toNat / 4096)
    then acc ++ [(l.2.1.toNat / 4096, l.1)] else acc) []

end Sys2Proof.Machine
end

