-- ==== Sys2Proof/Machine/Ops.lean ====
section
/-!
DEFINITION. The named operations over crews, registers, fragments and traps: register access (R85, R86, R88), waits, the split
table (R98 to R102), VSYNC (R163, R164), halting a crew (R195, R198, R202), taking a trap (R108 to R114) and returning (R115).
-/

namespace Sys2Proof.Machine

/-- What a step answers. -/
abbrev Result := Host.Outcome State Fault Refusal

/-- The word or step waits: nothing changes but the mark that it did not run (R105, R119). -/
def stall (s : State) : Result := .next { s with stalled := true }

/-! ## Records -/

def crewOf (s : State) (u : Nat) : Option Crew := kget s.crews u
def putCrew (s : State) (u : Nat) (c : Crew) : State := { s with crews := kset s.crews u c }
def modCrew (s : State) (u : Nat) (f : Crew → Crew) : State := { s with crews := kmod s.crews u f }
def teamOf (s : State) (t : Nat) : Option Team := kget s.teams t
def putTeam (s : State) (t : Nat) (x : Team) : State := { s with teams := kset s.teams t x }
def modTeam (s : State) (t : Nat) (f : Team → Team) : State := { s with teams := kmod s.teams t f }
def coreAt (s : State) (die core : Nat) : CoreSt := kgetD s.cores (coreKey die core) (CoreSt.reset core)
def putCore (s : State) (die core : Nat) (x : CoreSt) : State := { s with cores := kset s.cores (coreKey die core) x }
def modCore (s : State) (die core : Nat) (f : CoreSt → CoreSt) : State := { s with cores := kmod s.cores (coreKey die core) f }
def launchOf (s : State) (l : Nat) : Option Launch := kget s.launches l
def putLaunch (s : State) (l : Nat) (x : Launch) : State := { s with launches := kset s.launches l x }
def modLaunch (s : State) (l : Nat) (f : Launch → Launch) : State := { s with launches := kmod s.launches l f }
def devOf (s : State) (d : Nat) : DevSt := vget s.devs d DevSt.reset
def modDev (s : State) (d : Nat) (f : DevSt → DevSt) : State := { s with devs := vmod s.devs d f }
def dieOf (s : State) (d : Nat) : DieSt := vget s.dies d DieSt.reset
def modDie (s : State) (d : Nat) (f : DieSt → DieSt) : State := { s with dies := vmod s.dies d f }
def fabricOf (s : State) (d : Nat) : FabricSt := vget s.fabrics d FabricSt.reset
def modFabric (s : State) (d : Nat) (f : FabricSt → FabricSt) : State := { s with fabrics := vmod s.fabrics d f }
def modCtx (s : State) (x : Nat) (f : Context → Context) : State := { s with contexts := kmod s.contexts x f }

/-- The launch of a crew. -/
def crewLaunch (s : State) (c : Crew) : Option Launch :=
  match teamOf s c.team with | some t => launchOf s t.launch | none => none
/-- The device of a crew (R379). -/
def crewDev (s : State) (c : Crew) : Nat := match crewLaunch s c with | some l => l.dev.val | none => 0
/-- `.prog on` (R38 flag [0], R105). -/
def crewProg (s : State) (c : Crew) : Bool := match crewLaunch s c with | some l => l.kernel.prog | none => false
/-- The crews of a team. -/
def teamCrews (s : State) (t : Nat) : List Crew := (s.crews.map (·.2)).filter (·.team == t)
/-- The crew's team core index (R271). -/
def Crew.coreIdx (c : Crew) : Nat := c.role / 4 % 4
/-- The quadrant of a matrix crew (R38). -/
def Crew.quadrant (c : Crew) : Nat := c.role / 16 % 4
/-- The crew's role, 0 producer to 3 comm (R38). -/
def Crew.kind (c : Crew) : Nat := c.role % 4
/-- The logical core of a team core index. -/
def Team.coreOf (t : Team) (i : Nat) : Nat := t.cores.getD i 0
/-- The crew still runs words. -/
def Crew.alive (c : Crew) : Bool := match c.st with | .halted _ => false | .ended => false | _ => true
/-- A scope as performed: in split mode package scope, coded `pkg`, is system scope, the next code (R134, R234). -/
def splitScope (split : Bool) (pkg sc : Nat) : Nat := if split && sc == pkg then pkg + 1 else sc

/-! ## Scalar registers (R86) and the scalar stream -/

/-- s[r]: s0 reads 0. -/
def Crew.rs (c : Crew) (r : SReg) : W64 := if r.val == 0 then 0 else c.s[r.val]
/-- Writes s[r]: a write to s0 is discarded. -/
def Crew.ws (c : Crew) (r : SReg) (x : W64) : Crew := if r.val == 0 then c else { c with s := c.s.set r.val x }
/-- A load whose data has not returned will write s[r] (R119). -/
def Crew.pending (c : Crew) (r : SReg) : Bool :=
  r.val != 0 && (c.loads.any (fun l => l.scalar && l.reg == r.val) || c.reply.any (·.reg == r))
/-- No register of the list waits for its data. -/
def Crew.free (c : Crew) (rs : List SReg) : Bool := rs.all fun r => !c.pending r
/-- The scalar stream goes on at index `i`: what a waiting word had done is forgotten, and a matched word that has run may match again (R336). -/
def Crew.goto (c : Crew) (i : Nat) : Crew :=
  { c with spc := i, held := [], bpPass := if c.bpPass == some c.spc then none else c.bpPass, await := .none }
/-- The scalar stream goes on at the next word. -/
def Crew.next (c : Crew) : Crew := c.goto (c.spc + 1)
/-- A scalar atomic with ORD = 1 has not been performed (R138). -/
def Crew.acquiring (c : Crew) : Bool :=
  c.loads.any fun l => l.scalar && match l.atom with | some a => a.ord | none => false

/-- An atomic of the lane stream with ORD = 1 has not been performed (R138, R212). -/
def Crew.laneAcquiring (c : Crew) : Bool :=
  c.loads.any fun l => !l.scalar && match l.atom with | some a => a.ord | none => false

/-- The crew that runs the present scalar word. -/
def onScalar (s : State) (f : Nat → Crew → Result) : Result :=
  match s.cur with
  | none => .fault .noStream
  | some cur => if cur.lane then .fault .noStream else match crewOf s cur.crew with
    | none => .fault .noStream
    | some c => f cur.crew c

/-- The present scalar word reads the registers of `rs`, and waits for their data (R119). -/
def withScalar (s : State) (rs : List SReg) (f : Nat → Crew → Result) : Result :=
  onScalar s fun u c => if c.free rs then f u c else stall s

/-- Every enqueued block has completed (R142); the crew then counts its blocks among the accesses that later words order
after (R84). -/
def Crew.synced? (c : Crew) : Option Crew := if c.laneQ.isEmpty then some { c with synced := c.nextBlock - 1 } else none

/-- A scalar word that waits as LSYNC (R83). -/
def withSync (s : State) (rs : List SReg) (f : Nat → Crew → Result) : Result :=
  withScalar s rs fun u c => match c.synced? with | some c => f u c | none => stall s

/-! ## Vector registers and predicates -/

/-- v[n] (R85): a register never written holds 0. -/
def Crew.rv (c : Crew) (n : Nat) : Lanes := kgetD c.v n zeroLanes
/-- Writes v[n] in the lanes of `m` (R88). -/
def Crew.wv (c : Crew) (n : Nat) (m : W64) (x : Lanes) : Crew := { c with v := kset c.v n (laneMerge m x (c.rv n)) }
/-- p[n]: p0 reads all ones (R85). -/
def Crew.rp (c : Crew) (n : Nat) : W64 := if n == 0 then allLanes else vget c.p n 0
/-- Writes p[n] in the lanes of `m`; a write to p0 is discarded (R149). -/
def Crew.wp (c : Crew) (n : Nat) (m x : W64) : Crew :=
  if n == 0 then c else { c with p := vset c.p n ((x &&& m) ||| (c.rp n &&& ~~~ m)) }
/-- v[n] lies in the crew's allocation (R30). -/
def Crew.owns (c : Crew) (n : Nat) : Bool := n < c.fast || (192 ≤ n && n < 192 + c.slow)

/-! ## Code (R17, R40, R337) -/

/-- The word a patch slot substitutes (R40): klen in an M word, imm32 in another lane word. -/
def patchLane (w : Nat) (v : W32) : Nat :=
  if 0xE0 ≤ w % 256 && w % 256 ≤ 0xE4 then w % 2 ^ 80 + v.toNat % 2 ^ 16 * 2 ^ 80 else w % 2 ^ 64 + v.toNat * 2 ^ 64

/-- Opcodes of format S-U (R19, R20). -/
def scalarU (op : Nat) : Bool := op == 0x0B || (0x60 ≤ op && op ≤ 0x62)

/-- imm19 in format S-U, imm13 in format S-I (R40). -/
def patchScalar (w : Nat) (v : W32) : Nat :=
  if scalarU (w / 2 ^ 25 % 128) then w / 2 ^ 19 * 2 ^ 19 + v.toNat % 2 ^ 19 else w / 2 ^ 13 * 2 ^ 13 + v.toNat % 2 ^ 13

/-- The virtual address of a launch's scalar word. -/
def Launch.scalarVa (l : Launch) (i : Nat) : Nat := (l.sBase + w64 (4 * i)).toNat

/-- A planted word stands where a launch of its context fetches scalar word `i` (R337): it is that word of that object, or it stands at the same address or
in the same place of memory. -/
def plantedAt (c : Context) (l : Launch) (i : Nat) (p : Planted) : Bool :=
  let place (va : Nat) : Option Nat := (leafAt c.ptes va).map fun e => leafPa e.2.2 e.2.1 va
  (p.obj == l.handle && p.idx == i) || (!l.translated && p.va < 2 ^ 56 && (p.va == l.scalarVa i || ((place p.va).isSome && place p.va == place (l.scalarVa i))))

/-- The scalar word at an index, with a planted word and the launch's patch applied. -/
def scalarWord (s : State) (l : Launch) (i : Nat) : Option Nat :=
  match l.scode[i]? with
  | none => none
  | some w =>
    let planted := match ctxOf s l.ctx with
      | some c => (c.planted.find? (plantedAt c l i)).map Planted.word
      | none => none
    let w := (planted.getD w).toNat
    match l.patches.find? fun p => p.sect == 1 && p.word == i with
    | some p => some (patchScalar w p.value)
    | none => some w

/-- The lane word at an index, with the launch's patch applied (R40). DESIGN CHOICE (log 70): of two slots that name one word the first in slot
order applies. -/
def laneWordAt (l : Launch) (i : Nat) : Option Nat :=
  match l.lcode[i]? with
  | none => none
  | some w => match l.patches.find? fun p => p.sect == 2 && p.word == i with
    | some p => some (patchLane w.toNat p.value)
    | none => some w.toNat

/-- `.scode` size in words. -/
def scodeSize (s : State) (c : Crew) : Nat := match crewLaunch s c with | some l => l.scode.length | none => 0
/-- `.lcode` size in words. -/
def lcodeSize (s : State) (c : Crew) : Nat := match crewLaunch s c with | some l => l.lcode.length | none => 0
/-- The word at a lane index is a JOIN (R171). -/
def isJoin (s : State) (c : Crew) (i : Nat) : Bool :=
  match crewLaunch s c with
  | some l => (match laneWordAt l i with | some w => w % 256 == 0x51 | none => false)
  | none => false

/-! ## Halting (R195, R198, R202) -/

/-- A barrier that no BARINIT has set (R192, R195): EXPECTED 0, PAR 1, abandoned once a crew of the team has halted. -/
def Team.barrier (t : Team) (core id : Nat) : Barrier :=
  kgetD t.barriers (512 * core + id) { expected := 0, count := 0, par := true, abnd := t.halted, marks := [], past := [] }

/-- ABND on every barrier of the team (R195), and the mark that a crew has halted (R198). -/
def Team.abandon (t : Team) : Team :=
  { t with halted := true, barriers := t.barriers.map fun b => (b.1, { b.2 with abnd := true }) }

/-- The first cause of a team's failure (R342); of causes in one REFTIME tick that of the lowest logical core, then slot. -/
def Team.fail (t : Team) (now code core slot : Nat) : Team :=
  let f : TeamFail := { code := code, core := core, slot := slot, at_ := now }
  match t.failure with
  | none => { t with failure := some f }
  | some g =>
    if g.at_ == f.at_ && g.code ≤ 4 && code ≤ 4 && 64 * core + slot < 64 * g.core + g.slot then { t with failure := some f } else t

/-- A team whose last crew has ended or halted ends (R351). -/
def endTeamIf (s : State) (t : Nat) : State :=
  if (teamCrews s t).all (fun c => !c.alive) then
    modTeam s t fun x => if x.st == .resident || x.st == .saving then { x with st := .ended } else x
  else s

/-- A counter without its armed operations. -/
def Counter.disarm (k : Counter) : Counter := { k with armed := [] }

/-- A crew halts (R202): no further word, its armed operations discarded; the journal names the code and the address (R342),
the team fails, and its barriers are abandoned. DESIGN CHOICE (log 74): its loads and returning atomics that are issued and not performed are
dropped. -/
def haltCrew (s : State) (u code : Nat) (addr : Nat) : State :=
  match crewOf s u with
  | none => s
  | some c =>
    if !c.alive then s
    else
      let s := putCrew s u { c with st := .halted code, cc := c.cc.map Counter.disarm, firing := [], loads := [], trapping := none, mma := none,
                                    held := [], await := .none, reply := [] }
      let s := journalTeam s c.team 5 code c.die (addr % 2 ^ 56)
      let s := modTeam s c.team fun t => t.abandon.fail s.reftime 1 c.core c.slot
      endTeamIf s c.team

/-! ## The split table (R98 to R102) -/

/-- The live fragments with their slots. -/
def Diverge.frags (d : Diverge) : List (Nat × Frag) :=
  (indexed d.slots.toList).filterMap fun e => e.2.frag.map fun f => (e.1, f)
/-- The fragment of a slot. -/
def Diverge.frag (d : Diverge) (n : Nat) : Option Frag := (vget d.slots n SplitSlot.reset).frag
/-- Puts a fragment into a slot, or frees it. -/
def Diverge.setFrag (d : Diverge) (n : Nat) (f : Option Frag) : Diverge :=
  { d with slots := vmod d.slots n fun sl => { sl with frag := f } }
/-- Changes the fragment of a slot, if there is one. -/
def Diverge.modFrag (d : Diverge) (n : Nat) (f : Frag → Frag) : Diverge :=
  { d with slots := vmod d.slots n fun sl => { sl with frag := sl.frag.map f } }
/-- The lowest free slot. -/
def Diverge.freeSlot (d : Diverge) : Option Nat := (List.range 8).find? fun n => (d.frag n).isNone
/-- The generation bit of a slot. -/
def Diverge.gen (d : Diverge) (n : Nat) : Bool := (vget d.slots n SplitSlot.reset).gen
/-- Flips the generation bit of a slot. -/
def Diverge.flip (d : Diverge) (n : Nat) : Diverge := { d with slots := vmod d.slots n fun sl => { sl with gen := !sl.gen } }
/-- The most recent serial entry of a slot's fragment (R101): the stack's head is the newest. -/
def Diverge.serialOf (d : Diverge) (n : Nat) : Option SerialEntry := d.serial.find? (·.slot == n)
/-- The stack without the newest serial entry of a slot. -/
def popSerial (n : Nat) : List SerialEntry → List SerialEntry
  | [] => []
  | e :: es => if e.slot == n then es else e :: popSerial n es
/-- The stack with the newest serial entry of a slot changed. -/
def modSerial (n : Nat) (f : SerialEntry → SerialEntry) : List SerialEntry → List SerialEntry
  | [] => []
  | e :: es => if e.slot == n then f e :: es else e :: modSerial n f es

/-- Every latch invalid, what it held gone with it, and no open window (R95). -/
def Frag.cut (f : Frag) : Frag :=
  { f with latch := Vector.replicate 4 zeroLanes, latchOk := 0, latchSet := Vector.replicate 4 0, win := none }

/-- A fragment at the start of its life: all latches invalid. -/
def newFrag (owned : W64) (lpc stamp : Nat) (stack : List JoinEntry) : Frag :=
  { owned := owned, exec := owned, lpc := lpc, st := .ready, stamp := stamp, stack := stack,
    latch := Vector.replicate 4 zeroLanes, latchOk := 0, latchSet := Vector.replicate 4 0, win := none, arrivals := [], vlanes := 0,
    fair := Fair.reset, skipAt := none, bpPass := none, held := [], appended := none }

/-- The fragments that a fusion of the entry on top of `st` joins: those whose stack is `st`, or has grown from it (R100; log 22). -/
def Diverge.holders (d : Diverge) (st : List JoinEntry) : List (Nat × Frag) := d.frags.filter fun f => st.isSuffixOf f.2.stack

/-- Fuses the holders of a stack once each of them is parked with its top entry on top (R100; log 22). Parts that have no lane left (R115, R172)
make a fragment with none, which goes on as R102 says: to the pending join that is left to it, or to its end. -/
def Diverge.fuse (join : Nat → Bool) (d : Diverge) (st : List JoinEntry) : Diverge :=
  match st with
  | [] => d
  | e :: rest =>
    let hs := d.holders st
    if !hs.isEmpty && hs.all (fun f => f.2.st == .parked && f.2.stack == st) then
      let slot := (listMin (hs.map (·.1))).getD 0
      let owned := hs.foldl (fun m f => m ||| f.2.owned) 0#64
      let stamp := (listMin (hs.map (·.2.stamp))).getD 0
      let d := hs.foldl (fun d f => d.setFrag f.1 none) d
      if owned != 0 then d.setFrag slot (some (newFrag owned (e.join + 1) stamp rest))
      else match rest with
        | r :: _ => if join r.join then d.setFrag slot (some { newFrag 0 r.join stamp rest with st := .parked }) else d
        | [] => d
    else d

/-- Tries the stack of every parked fragment. -/
def Diverge.fuseOnce (join : Nat → Bool) (d : Diverge) : Diverge :=
  (d.frags.filterMap fun f => if f.2.st == .parked then some f.2.stack else none).foldl (Diverge.fuse join) d

/-- The fusions that are due, those that a fusion without lanes makes due among them: a stack holds four entries. -/
def Diverge.fuseAll (join : Nat → Bool) (d : Diverge) : Diverge := (List.range 5).foldl (fun d _ => d.fuseOnce join) d

/-- A fragment goes on at index `i` by R101 or R102: what marks the word it stood at is gone. -/
def Frag.moved (f : Frag) (i : Nat) : Frag := { f with lpc := i, skipAt := none, held := [], appended := none }.cut

/-- What a fragment whose EXEC is zero does (R101, R102), the fragment being in slot `n`; `fuel` bounds the serial entries it
may run through. A fragment that is left with lanes stays ready. DESIGN CHOICE (log 76): where the join index of the newest serial entry names no
JOIN, R101 step 3 would run mask N and R171 ends the fragment at once; the whole fragment ends, the lanes of N with it. -/
def settleZero (join : Nat → Bool) : Nat → Diverge → Nat → Diverge
  | 0, d, _ => d
  | fuel + 1, d, n =>
    match d.frag n with
    | none => d
    | some f =>
      if f.exec != 0 then d
      else match d.serialOf n with
        | some e =>
          if !join e.join then (d.setFrag n none).fuseAll join
          else if !e.second then
            let d := { d with serial := modSerial n (fun e => { e with second := true }) d.serial }
            settleZero join fuel (d.modFrag n fun f => { f with exec := e.maskN &&& f.owned }.moved e.resume) n
          else
            let d := { d with serial := popSerial n d.serial }
            let ex := match d.serialOf n with | none => f.owned | some _ => e.ran &&& f.owned
            settleZero join fuel (d.modFrag n fun f => { f with exec := ex }.moved (e.join + 1)) n
        | none => match f.stack with
          | [] => (d.setFrag n none).fuseAll join
          | e :: _ =>
            if join e.join then (d.modFrag n fun f => { f with st := .parked }.moved e.join).fuseAll join
            else (d.setFrag n none).fuseAll join

/-- A fragment that ended with serial entries leaves none behind. -/
def Diverge.tidy (d : Diverge) : Diverge := { d with serial := d.serial.filter fun e => (d.frag e.slot).isSome }

/-- R102 for one slot. -/
def zeroExec (s : State) (c : Crew) (n : Nat) : Crew := { c with div := (settleZero (isJoin s c) 40 c.div n).tidy }

/-! ## VSYNC (R163, R164) -/

/-- The arrivals of a crew: lane and mask. -/
def Diverge.arrivals (d : Diverge) : List (Nat × W64) :=
  d.frags.flatMap fun f => if f.2.st == .atVsync then f.2.arrivals else []

/-- The fragment that owns a lane. -/
def Diverge.owner (d : Diverge) (lane : Nat) : Option (Nat × Frag) := d.frags.find? fun f => f.2.owned.getLsbD lane

/-- A lane that has arrived. -/
def Diverge.arrived (d : Diverge) (lane : Nat) : Option W64 := kget (d.arrivals) lane

/-- Lane `j` has ended: no fragment owns it (R164, detail 2). -/
def Diverge.gone (d : Diverge) (j : Nat) : Bool := (d.owner j).isNone

/-- Lane `j` can never arrive (R164, detail 3). DESIGN CHOICE (log 76): "the waiting fragment" of the first clause is any fragment that waits and
owns the lane. -/
def Diverge.never (d : Diverge) (j : Nat) : Bool :=
  match d.owner j with
  | none => false
  | some (n, f) =>
    (f.st == .atVsync && !f.vlanes.getLsbD j) ||
    (d.serial.any fun e => e.slot == n && !e.second && e.maskN.getLsbD j) ||
    (f.st == .parked && (d.holders f.stack).any fun h => h.2.st == .atVsync)

/-- A fragment's lanes for which a condition on a named lane holds: some lane of its mask satisfies `p`. -/
def namingLanes (f : Frag) (p : Nat → Bool) : W64 :=
  maskOf fun i => match kget f.arrivals i with | some m => (lanesOf m).any p | none => false

/-- The waiting fragments, oldest first (R104). -/
def Diverge.waiters (d : Diverge) : List (Nat × Frag) :=
  sortBy (·.2.stamp) (d.frags.filter (·.2.st == .atVsync))

/-- The SYNCMASK of the masks that have just arrived, in slot `slot` (R164): slot, detail and lanes; detail 1 before detail 0. -/
def Diverge.maskError (d : Diverge) (slot : Option Nat) : Option (Nat × Nat × W64) :=
  match slot.bind fun n => (d.frag n).map fun f => (n, f) with
  | none => none
  | some (n, f) =>
    let own := maskOf fun i => match kget f.arrivals i with | some m => !m.getLsbD i | none => false
    let clash (i : Nat) (m : W64) : Bool :=
      d.arrivals.any fun a => (m.getLsbD a.1 || a.2.getLsbD i) && a.2 != m
    let other := maskOf fun i => match kget f.arrivals i with | some m => clash i m | none => false
    if own != 0 then some (n, 1, own) else if other != 0 then some (n, 0, other) else none

/-- The SYNCMASK of the lanes still waited for (R164): slot, detail and lanes; detail 2 before detail 3. -/
def Diverge.waitError (d : Diverge) : Option (Nat × Nat × W64) :=
  let find (det : Nat) (p : Nat → Bool) : Option (Nat × Nat × W64) :=
    (d.waiters.find? fun w => namingLanes w.2 p != 0).map fun w => (w.1, det, namingLanes w.2 p)
  (find 2 d.gone).or (find 3 d.never)

/-- The lanes of complete sets: every member of the mask has arrived with the same mask. -/
def Diverge.complete (d : Diverge) : List Nat :=
  let as := d.arrivals
  (as.filter fun a => (lanesOf a.2).all fun j => kget as j == some a.2).map (·.1)

/-- Complete sets leave; a waiting fragment with no lane left continues at its next word (R163). DESIGN CHOICE (log 76): a lane whose set has
completed while its fragment still waits for others no longer counts as arrived, and R164 raises nothing for it. -/
def Diverge.release (d : Diverge) : Diverge :=
  let done := d.complete
  let one (sl : SplitSlot) : SplitSlot := match sl.frag with
    | none => sl
    | some f =>
      if f.st != .atVsync then sl
      else
        let rest := f.arrivals.filter fun a => !done.contains a.1
        if rest.isEmpty then { sl with frag := some { f with st := .ready, arrivals := [], vlanes := 0, lpc := f.lpc + 1 } }
        else { sl with frag := some { f with arrivals := rest } }
  { d with slots := d.slots.map one }

/-- A waiting fragment goes back to its VSYNC (R164, R328). -/
def Frag.withdraw (f : Frag) : Frag :=
  if f.st == .atVsync then { f with st := .ready, arrivals := [], vlanes := 0 } else f

/-- All arrivals withdrawn, every fragment at a word boundary with its latches invalid and no hold. -/
def Diverge.stop (d : Diverge) : Diverge :=
  let one (sl : SplitSlot) : SplitSlot := { sl with frag := sl.frag.map fun f => { f.withdraw.cut with held := [] } }
  { d with slots := d.slots.map one }

/-! ## Taking a trap (R108 to R114) -/

/-- TINFO at trap entry (R113). -/
def tinfoOf (i : TrapInfo) : W64 :=
  w64 (2 * flag i.lane + 4 + 8 * (i.slot % 8) + 64 * (i.woff % 4) + 256 * (i.detail % 256) + 2 ^ 16 * flag i.noWord + 2 ^ 32 * (i.arg % 2 ^ 32))

/-- Every stream of the crew has stopped as R108 asks: no open window, and the data of every issued load has returned. -/
def Crew.quiet (c : Crew) : Bool :=
  c.loads.isEmpty && c.reply.all (·.waits) && c.div.frags.all (fun f => f.2.win.isNone)

/-- Where the handler starts (R111): the binding's entry for EMUL, else TVEC.INDEX when TVEC.EN is 1. -/
def Crew.handlerEntry (c : Crew) (i : TrapInfo) : Option Nat :=
  i.entry.or (if c.tvec.getLsbD 63 then some (bitsOf c.tvec 21 0) else none)

/-- A trap is a breakpoint match (R336). -/
def TrapInfo.isMatch (i : TrapInfo) : Bool := i.cause == 0x06 && i.detail == 1

/-- The matched lane word passes its breakpoint at its first execution after RTE (R336). -/
def Diverge.passMatch (d : Diverge) (i : TrapInfo) : Diverge :=
  if i.isMatch && i.lane then d.modFrag i.slot fun f => { f with bpPass := some (bitsOf i.tlpc 21 0 + i.woff) } else d

/-- Trap entry (R111): the trap registers, the frozen queue and divergence state, handler mode, SPC at the handler. -/
def Crew.enterTrap (c : Crew) (i : TrapInfo) (entry : Nat) : Crew :=
  { c with
    tcause := w64 i.cause, tspc := w64 (i.at_.getD c.spc), tlpc := i.tlpc, texec := i.texec, tfmask := i.tfmask, tinfo := tinfoOf i, taddr := i.addr &&& 0xFFFFFFFFFFFFFF#64,
    tword := #v[i.word0, i.word1],
    tsplit := Vector.ofFn fun n => match c.div.frag n.val with | some f => f.owned | none => 0,
    frozen := some { laneQ := c.laneQ, div := c.div.stop.passMatch i, await := c.await, reply := c.reply, spc := c.spc,
                     bpPass := if i.isMatch && !i.lane then some c.spc else c.bpPass },
    laneQ := [], div := { Diverge.reset with slots := c.div.slots.map fun sl => { sl with frag := none } },
    handler := true, trapping := none, mma := none, st := .running, spc := entry, held := [], bpPass := none, await := .none, reply := [] }

/-- Taking a trap: entry where a handler exists and the crew is not in handler mode, else the crew halts (R112). -/
def takeTrap (s : State) (u : Nat) (i : TrapInfo) : State :=
  match crewOf s u with
  | none => s
  | some c =>
    if c.handler then haltCrew s u 2 0
    else match c.handlerEntry i with
      | none => haltCrew s u 3 0
      | some e => putCrew s u (c.enterTrap i e)

/-- The trap that the crew waits to take is taken once its streams have stopped (R108). -/
def settleTrap (s : State) (u : Nat) : State :=
  match crewOf s u with
  | none => s
  | some c => match c.trapping with
    | none => s
    | some i => if c.quiet then takeTrap s u i else s

/-- A trap arises: it is taken at once, or once the other fragments have finished their windows. A second trap in
the meantime is not taken; its word runs again after return (R109). A crew that has ended or halted takes none. -/
def raise (s : State) (u : Nat) (i : TrapInfo) : State :=
  match crewOf s u with
  | none => s
  | some c =>
    if !c.alive then s
    else match c.trapping with
      | some _ => settleTrap s u
      | none => settleTrap (putCrew s u { c with trapping := some i }) u

/-- TLPC of a trap that no lane word raised. -/
def noLpc : W64 := 0xFFFFFFFF#64

/-- The trap of a scalar word (R111). -/
def scalarTrap (word cause detail arg : Nat) (addr : W64) (entry : Option Nat) : TrapInfo :=
  { cause := cause, detail := detail, arg := arg, lane := false, noWord := false, slot := 0, woff := 0, tlpc := noLpc, texec := 0,
    tfmask := 0, addr := addr, word0 := w64 word, word1 := 0, entry := entry, at_ := none }

/-- The present scalar word raises a trap. -/
def raiseScalar (s : State) (u cause detail arg : Nat) (addr : W64) : Result :=
  let word := match s.cur with | some c => c.word | none => 0
  .next (raise s u (scalarTrap word cause detail arg addr none))

/-- A trap that no word raised (R191, R319). -/
def wordlessTrap (lane : Bool) (cause detail arg : Nat) (addr : W64) : TrapInfo :=
  { cause := cause, detail := detail, arg := arg, lane := lane, noWord := true, slot := 0, woff := 0, tlpc := noLpc, texec := 0,
    tfmask := allLanes, addr := addr, word0 := 0, word1 := 0, entry := none, at_ := none }

/-- A point of acquire of a crew (R138, R165, R194, R197, R223, R235, R239): no load after it was performed before it. -/
def acquire (s : State) (u : Nat) : State :=
  match crewOf s u with
  | none => s
  | some c => modCore s c.die c.core fun co => { co with early := co.early.filter fun e => e.crew != u }

/-- A crew that has observed the completion of engine commands, or writes that another crew orders before a word of its own (R187, R194, R223, R280):
what its matrix engine has read early of the tile store, and of registers that engine commands have written, is read again (R254). A key from 2^40 on
names bits of the tile store, another the register of 64 lanes of 32 bits that it counts off. -/
def Crew.observed (c : Crew) : Crew :=
  { c with capture := c.capture.filter fun e => e.1 < 2 ^ 40 && !c.engineRegs.contains (e.1 / 128 / 2048), engineRegs := [] }

/-- An engine command has written vector registers of the crew (R254). -/
def Crew.engineWrote (c : Crew) (rs : List Nat) : Crew := { c with engineRegs := c.engineRegs ++ rs.filter fun r => !c.engineRegs.contains r }

/-- SYNCMASK of the VSYNC at which the fragment of slot `n` stands (R164). -/
def raiseSync (s : State) (u : Nat) (c : Crew) (e : Nat × Nat × W64) : State :=
  match c.div.frag e.1 with
  | none => s
  | some f =>
    let w := match crewLaunch s c with | some l => (laneWordAt l f.lpc).getD 0 | none => 0
    raise s u { cause := 0x07, detail := e.2.1, arg := 0, lane := true, noWord := false, slot := e.1, woff := 0, tlpc := w64 f.lpc,
                texec := f.exec, tfmask := e.2.2, addr := 0, word0 := w64 (w % 2 ^ 64), word1 := w64 (w / 2 ^ 64), entry := none, at_ := none }

/-- The loads of the lanes of `m` that a VSYNC set of them, completing at place `stamp` of the issue order, comes after (R165). -/
def Crew.syncLoads (c : Crew) (stamp : Nat) (m : W64) : Crew :=
  { c with loads := c.loads.map fun p =>
      if !p.scalar && p.space != .constant && p.lanes.any (fun l => m.getLsbD l.lane) then { p with vsync := p.vsync ++ [(stamp, m)] } else p }

/-- The sets that are complete leave (R163), and the accesses before their VSYNCs are performed before those after them (R165). -/
def releaseSets (s : State) (u : Nat) (c : Crew) : State :=
  if c.div.complete.isEmpty then s
  else acquire (putCrew s u ({ c with div := c.div.release }.syncLoads s.nextStamp (maskOf c.div.complete.contains))) u

/-- The check of R164, `slot` being the fragment that has just arrived, if any. DESIGN CHOICE (log 76): its own masks (details 1 and 0) come first, then
complete sets leave, then the lanes still waited for (details 2 and 3) are looked at. -/
def vsyncCheck (s : State) (u : Nat) (slot : Option Nat) : State :=
  match crewOf s u with
  | none => s
  | some c => match c.div.maskError slot with
    | some e => raiseSync s u c e
    | none =>
      let s := releaseSets s u c
      match crewOf s u with
      | none => s
      | some c => match c.div.waitError with
        | none => s
        | some e => raiseSync s u c e

/-! ## Returning from a trap (R115, R97) -/

/-- The fragment of a slot as RTE leaves it: lanes kept by the handler's masks. -/
def resumeFrag (c : Crew) (n : Nat) (f : Frag) : Frag :=
  let here := !c.tinfo.getLsbD 16 && c.tinfo.getLsbD 1 && bitsOf c.tinfo 5 3 == n
  let keep := if here then c.texec else vget c.tsplit n 0
  let f := { f with owned := keep &&& f.owned, exec := f.exec &&& (keep &&& f.owned) }.cut
  if here then
    let lpc := bitsOf c.tlpc 21 0
    let skip := c.tinfo.getLsbD 0
    { f with lpc := lpc, skipAt := if skip then some (lpc + bitsOf c.tinfo 7 6) else none, appended := none }
  else f

/-- RTE once the handler's block has completed: handler mode left, queue and divergence state restored, SPC by TSPC and SKIP. -/
def Crew.returnTrap (c : Crew) (fr : Frozen) : Crew :=
  let slot (n : Nat) (sl : SplitSlot) : SplitSlot := { sl with frag := sl.frag.map (resumeFrag c n) }
  let skip := !c.tinfo.getLsbD 16 && !c.tinfo.getLsbD 1 && c.tinfo.getLsbD 0
  let spc := bitsOf c.tspc 21 0 + flag skip
  { c with
    handler := false, frozen := none, tinfo := c.tinfo &&& ~~~ 4#64, laneQ := fr.laneQ,
    div := { fr.div with slots := Vector.ofFn fun n => slot n.val fr.div.slots[n] },
    spc := spc, held := [], reply := if spc == fr.spc then fr.reply else [], await := if spc == fr.spc then fr.await else .none,
    bpPass := fr.bpPass }

/-- RTE's effect, slots left without lanes settled by R102. -/
def returnFromTrap (s : State) (u : Nat) (c : Crew) (fr : Frozen) : State :=
  let c := c.returnTrap fr
  putCrew s u ((List.range 8).foldl (fun c n => zeroExec s c n) c)

end Sys2Proof.Machine
end

