-- ==== Sys2Proof/Machine/Arith.lean ====
section
/-!
DEFINITION. Number formats, rounding and conversions (R44 to R64). A finite value is a sign, a magnitude and a power of two; every
operation is computed exactly and rounded once.
-/

namespace Sys2Proof.Machine

/-! ## Flags of ASTAT (R65) as a number -/

def fNV : Nat := 1
def fDZ : Nat := 2
def fOF : Nat := 4
def fUF : Nat := 8
def fNX : Nat := 16
def fSA : Nat := 32

/-- The union of two sets of flags. -/
def orFlags (a b : Nat) : Nat := a ||| b

/-! ## Formats (R46) -/

/-- How a format treats its top exponent (R46, R47). -/
inductive Tops where
  /-- Infinity and NaNs, as IEEE 754. -/
  | ieee
  /-- E4M3: fraction 0b111 is NaN, no infinity. -/
  | nanOnly
  /-- E2M1: neither. -/
  | none
  deriving DecidableEq, Repr

/-- A floating format: exponent and fraction widths, bias. -/
structure Fmt where
  ebits : Nat
  mbits : Nat
  bias  : Nat
  tops  : Tops
  deriving DecidableEq, Repr

def fp32 : Fmt := { ebits := 8, mbits := 23, bias := 127, tops := .ieee }
def fp16 : Fmt := { ebits := 5, mbits := 10, bias := 15, tops := .ieee }
def bf16 : Fmt := { ebits := 8, mbits := 7, bias := 127, tops := .ieee }
def e5m2 : Fmt := { ebits := 5, mbits := 2, bias := 15, tops := .ieee }
def e4m3 : Fmt := { ebits := 4, mbits := 3, bias := 7, tops := .nanOnly }
def e2m1 : Fmt := { ebits := 2, mbits := 1, bias := 1, tops := .none }

/-- The floating format of a type (R24); FP32 for a type that has none. -/
def fmtOf : Ty → Fmt
  | .f16 => fp16 | .bf16 => bf16 | .e4m3 => e4m3 | .e5m2 => e5m2 | .e2m1 => e2m1 | _ => fp32

/-- Bits of an element of a type (R24). -/
def bitsTy : Ty → Nat
  | .b32 | .i32 | .f32 => 32
  | .f16 | .bf16 | .b16 | .i16 => 16
  | .e4m3 | .e5m2 | .b8 | .i8 => 8
  | .e2m1 => 4
  | .b64 | .i64 => 64
  | .xa96 => 128

/-- The width of a format. -/
def Fmt.width (f : Fmt) : Nat := 1 + f.ebits + f.mbits
/-- The sign bit of a format. -/
def Fmt.signBit (f : Fmt) (neg : Bool) : Nat := if neg then 2 ^ (f.ebits + f.mbits) else 0
/-- Infinity of a sign (R46). -/
def Fmt.inf (f : Fmt) (neg : Bool) : Nat := f.signBit neg + (2 ^ f.ebits - 1) * 2 ^ f.mbits
/-- The canonical NaN (R49). -/
def Fmt.nan (f : Fmt) : Nat :=
  match f.tops with
  | .ieee => (2 ^ f.ebits - 1) * 2 ^ f.mbits + 2 ^ (f.mbits - 1)
  | .nanOnly => 2 ^ (f.ebits + f.mbits) - 1
  | .none => 0
/-- The significand of the largest finite magnitude, with mbits + 1 bits. -/
def Fmt.maxSig (f : Fmt) : Nat := if f.tops == .nanOnly then 2 ^ (f.mbits + 1) - 2 else 2 ^ (f.mbits + 1) - 1
/-- The power of two of its last bit. -/
def Fmt.maxQ (f : Fmt) : Int :=
  (if f.tops == .ieee then (2 ^ f.ebits - 2 : Int) else (2 ^ f.ebits - 1 : Int)) - f.bias - f.mbits
/-- The power of two of the last bit of a subnormal. -/
def Fmt.minQ (f : Fmt) : Int := 1 - f.bias - f.mbits
/-- The largest finite value of a sign (R46). -/
def Fmt.maxF (f : Fmt) (neg : Bool) : Nat :=
  f.signBit neg + (match f.tops with
    | .ieee => (2 ^ f.ebits - 1) * 2 ^ f.mbits - 1
    | .nanOnly => 2 ^ (f.ebits + f.mbits) - 2
    | .none => 2 ^ (f.ebits + f.mbits) - 1)
/-- FTZ applies to FP32, FP16 and BF16 alone (R63). -/
def Fmt.flushes (f : Fmt) : Bool := f == fp32 || f == fp16 || f == bf16

/-- A value (R47): `num` is (-1)^neg × mag × 2^exp with mag nonzero. -/
inductive FVal where
  | nan
  | inf (neg : Bool)
  | zero (neg : Bool)
  | num (neg : Bool) (mag : Nat) (exp : Int)
  deriving DecidableEq, Repr

/-- The value of a pattern (R46, R47), only the format's own bits read. -/
def Fmt.decode (f : Fmt) (x : Nat) : FVal :=
  let fr := x % 2 ^ f.mbits
  let e := x / 2 ^ f.mbits % 2 ^ f.ebits
  let neg := x / 2 ^ (f.ebits + f.mbits) % 2 == 1
  let top := e == 2 ^ f.ebits - 1
  if top && f.tops == .ieee then (if fr == 0 then .inf neg else .nan)
  else if top && f.tops == .nanOnly && fr == 2 ^ f.mbits - 1 then .nan
  else if e == 0 then (if fr == 0 then .zero neg else .num neg fr f.minQ)
  else .num neg (2 ^ f.mbits + fr) (e - f.bias - f.mbits)

/-- A subnormal pattern of its format. -/
def Fmt.subnormal (f : Fmt) (x : Nat) : Bool := x / 2 ^ f.mbits % 2 ^ f.ebits == 0 && x % 2 ^ f.mbits != 0

/-- An input under FTZ (R63): a subnormal reads as a zero of its sign. -/
def Fmt.read (f : Fmt) (ftz : Bool) (x : Nat) : FVal :=
  match f.decode x with
  | .num neg m e => if ftz && f.flushes && f.subnormal x then .zero neg else .num neg m e
  | v => v

/-! ## Rounding (R54 to R57) -/

/-- `floor(log2 n)` for n > 0. -/
def ilog2 (n : Nat) : Nat := Nat.log2 n

/-- How one result is rounded: mode, the 32 random bits of SR, FTZ, SAT. -/
structure Rnd where
  rm  : Nat
  rb  : Nat
  ftz : Bool
  sat : Bool
  deriving DecidableEq, Repr

/-- Rounds `mag × 2^exp`, or a value just above it when `sticky`, to a multiple of 2^q (R54, R57): the multiple, and whether the result
is inexact. A shift far beyond the magnitude is not carried out bit by bit. -/
def roundAt (r : Rnd) (neg : Bool) (mag : Nat) (exp : Int) (sticky : Bool) (q : Int) : Nat × Bool :=
  if q ≤ exp then (mag * 2 ^ (exp - q).toNat, sticky)
  else
    let sh := (q - exp).toNat
    if ilog2 mag + 40 < sh then
      let up := (r.rm == 2 && !neg) || (r.rm == 3 && neg)
      (flag up, true)
    else
      let k := mag / 2 ^ sh
      let rem := mag % 2 ^ sh
      let half := 2 ^ (sh - 1)
      let inexact := rem != 0 || sticky
      let up := match r.rm with
        | 0 => half < rem || (rem == half && (sticky || k % 2 == 1))
        | 2 => !neg && inexact
        | 3 => neg && inexact
        | 4 => inexact && r.rb < rem * 2 ^ 32 / 2 ^ sh
        | _ => false
      (if up then k + 1 else k, inexact)

/-- A pattern from a sign, a significand of at most mbits + 1 bits and the power of its last bit, at least minQ. -/
def Fmt.pack (f : Fmt) (neg : Bool) (k : Nat) (q : Int) : Nat :=
  if k < 2 ^ f.mbits then f.signBit neg + k
  else f.signBit neg + (q + f.mbits + f.bias).toNat * 2 ^ f.mbits + (k - 2 ^ f.mbits)

/-- The overflow result and flags (R55, R59, R60). -/
def Fmt.overflow (f : Fmt) (r : Rnd) (neg : Bool) : Nat × Nat :=
  if r.sat || f.tops == .none then (f.maxF neg, fOF + fNX + fSA)
  else
    let toInf := r.rm == 0 || r.rm == 4 || (r.rm == 2 && !neg) || (r.rm == 3 && neg)
    (if toInf then (if f.tops == .ieee then f.inf neg else f.nan) else f.maxF neg, fOF + fNX)

/-- A nonzero finite result rounded once to a format, with its flags (R54 to R57, R63). -/
def Fmt.round (f : Fmt) (r : Rnd) (neg : Bool) (mag : Nat) (exp : Int) (sticky : Bool) : Nat × Nat :=
  let q : Int := exp + ilog2 mag - f.mbits
  let (k, x) := roundAt r neg mag exp sticky q
  let carry := 2 ^ (f.mbits + 1) ≤ k
  let kn := if carry then k / 2 else k
  let qn := if carry then q + 1 else q
  if f.maxQ < qn || (qn == f.maxQ && f.maxSig < kn) then f.overflow r neg
  else if qn < f.minQ then
    if r.ftz && f.flushes then (f.signBit neg, fUF + fNX)
    else
      let (k, x) := roundAt r neg mag exp sticky f.minQ
      (f.pack neg k f.minQ, if x then fUF + fNX else 0)
  else (f.pack neg kn qn, if x then fNX else 0)

/-- The bits that SR draws (R57). -/
def srMix (seed idx : W64) : Nat :=
  let x := seed ^^^ (idx * 0xA24BAED4963EE407#64)
  let x := x ^^^ (x >>> 29)
  let x := x * 0x9FB21C651E98DF25#64
  let x := x ^^^ (x >>> 32)
  let x := x * 0xD6E8FEB86659FD93#64
  let x := x ^^^ (x >>> 29)
  x.toNat / 2 ^ 32

/-! ## Exact arithmetic -/

/-- A signed integer times a power of two. -/
def signed (neg : Bool) (m : Nat) : Int := if neg then -(m : Int) else m

/-- The exact sum of two values `a × 2^ea` and `b × 2^eb`. -/
def addExact (a : Int) (ea : Int) (b : Int) (eb : Int) : Int × Int :=
  if ea ≤ eb then (a + b * 2 ^ (eb - ea).toNat, ea) else (a * 2 ^ (ea - eb).toNat + b, eb)

/-- An exact signed value rounded; an exact zero is +0, or -0 under RDN (R62). -/
def Fmt.roundInt (f : Fmt) (r : Rnd) (m : Int) (e : Int) : Nat × Nat :=
  if m == 0 then (f.signBit (r.rm == 3), 0) else f.round r (m < 0) m.natAbs e false

/-- A NaN result that the invalid operations give (R62). -/
def Fmt.invalid (f : Fmt) : Nat × Nat := (f.nan, fNV)

/-- The sum of two values (R62). -/
def Fmt.add (f : Fmt) (r : Rnd) : FVal → FVal → Nat × Nat
  | .nan, _ => (f.nan, 0)
  | _, .nan => (f.nan, 0)
  | .inf a, .inf b => if a == b then (f.inf a, 0) else f.invalid
  | .inf a, _ => (f.inf a, 0)
  | _, .inf b => (f.inf b, 0)
  | .zero a, .zero b => (f.signBit (if a == b then a else r.rm == 3), 0)
  | .zero _, .num n m e => f.round r n m e false
  | .num n m e, .zero _ => f.round r n m e false
  | .num n m e, .num n' m' e' =>
    let (s, q) := addExact (signed n m) e (signed n' m') e'
    f.roundInt r s q

/-- A value with its sign changed. -/
def FVal.neg : FVal → FVal
  | .nan => .nan
  | .inf a => .inf (!a)
  | .zero a => .zero (!a)
  | .num n m e => .num (!n) m e

/-- The product of two values (R62). -/
def Fmt.mul (f : Fmt) (r : Rnd) : FVal → FVal → Nat × Nat
  | .nan, _ => (f.nan, 0)
  | _, .nan => (f.nan, 0)
  | .inf _, .zero _ => f.invalid
  | .zero _, .inf _ => f.invalid
  | .inf a, .inf b => (f.inf (a != b), 0)
  | .inf a, .num b _ _ => (f.inf (a != b), 0)
  | .num a _ _, .inf b => (f.inf (a != b), 0)
  | .zero a, .zero b => (f.signBit (a != b), 0)
  | .zero a, .num b _ _ => (f.signBit (a != b), 0)
  | .num a _ _, .zero b => (f.signBit (a != b), 0)
  | .num a m e, .num b m' e' => f.round r (a != b) (m * m') (e + e') false

/-- The exact product as a value; none for 0 × ∞. -/
def FVal.times : FVal → FVal → Option FVal
  | .nan, _ => some .nan
  | _, .nan => some .nan
  | .inf _, .zero _ => none
  | .zero _, .inf _ => none
  | .inf a, .inf b => some (.inf (a != b))
  | .inf a, .num b _ _ => some (.inf (a != b))
  | .num a _ _, .inf b => some (.inf (a != b))
  | .zero a, .zero b => some (.zero (a != b))
  | .zero a, .num b _ _ => some (.zero (a != b))
  | .num a _ _, .zero b => some (.zero (a != b))
  | .num a m e, .num b m' e' => some (.num (a != b) (m * m') (e + e'))

/-- a × b + c with one rounding (R62). -/
def Fmt.fma (f : Fmt) (r : Rnd) (a b c : FVal) : Nat × Nat :=
  match a.times b with
  | none => f.invalid
  | some p => f.add r p c

/-- FSCALE (R152), and the scaling of QPACK and QUNPK (R158): the value times 2^b, rounded. -/
def Fmt.scale (f : Fmt) (r : Rnd) (v : FVal) (b : Int) : Nat × Nat :=
  match v with
  | .nan => (f.nan, 0)
  | .inf a => (f.inf a, 0)
  | .zero a => (f.signBit a, 0)
  | .num n m e => f.round r n m (e + b) false

/-! ## Conversions (R58 to R61) -/

/-- A value converted to a format (R58 to R60). -/
def Fmt.convert (f : Fmt) (r : Rnd) (v : FVal) : Nat × Nat :=
  match v with
  | .nan => if f.tops == .none then (0, fNV) else (f.nan, 0)
  | .inf a =>
    if f.tops == .none || r.sat then (f.maxF a, fSA)
    else if f.tops == .nanOnly then (f.nan, 0)
    else (f.inf a, 0)
  | .zero a => (f.signBit a, 0)
  | .num n m e => f.round r n m e false

/-- An integer type's bounds (R61). -/
def intBounds (t : Ty) : Int × Int :=
  let n := bitsTy t
  match t with
  | .i32 | .i16 | .i8 | .i64 => (-(2 ^ (n - 1) : Int), 2 ^ (n - 1) - 1)
  | _ => (0, 2 ^ n - 1)

/-- A floating value converted to an integer (R61). -/
def toInteger (r : Rnd) (t : Ty) (v : FVal) : Int × Nat :=
  let (lo, hi) := intBounds t
  match v with
  | .nan => (0, fNV)
  | .inf a => (if a then lo else hi, fNV + fSA)
  | .zero _ => (0, 0)
  | .num n m e =>
    let (k, x) := roundAt r n m e false 0
    let z := signed n k
    if z < lo then (lo, fNV + fSA) else if hi < z then (hi, fNV + fSA) else (z, if x then fNX else 0)

/-- An integer converted to a format (R61). -/
def Fmt.ofInteger (f : Fmt) (r : Rnd) (z : Int) : Nat × Nat :=
  if z == 0 then (0, 0) else f.round r (z < 0) z.natAbs 0 false

/-- FRND (R156): rounded to an integral value; NX when it differs. -/
def Fmt.integral (f : Fmt) (r : Rnd) (v : FVal) : Nat × Nat :=
  match v with
  | .nan => (f.nan, 0)
  | .inf a => (f.inf a, 0)
  | .zero a => (f.signBit a, 0)
  | .num n m e =>
    let (k, x) := roundAt r n m e false 0
    if k == 0 then (f.signBit n, fNX)
    else ((f.round { r with rm := 0 } n k 0 false).1, if x then fNX else 0)

/-! ## Comparisons (R153, R154) -/

/-- The value of a is below that of b; an infinity counts as 2^(2^12). -/
def FVal.lt (a b : FVal) : Bool :=
  let key (v : FVal) : Int := match v with
    | .inf n => signed n (2 ^ 4096)
    | .num n m e => signed n (m * 2 ^ (e + 300).toNat)
    | _ => 0
  key a < key b

/-- a and b are equal as numbers; +0 equals -0. -/
def FVal.eq (a b : FVal) : Bool := !a.lt b && !b.lt a

/-- The sign of a value that is not NaN. -/
def FVal.sign : FVal → Bool
  | .nan => false
  | .inf a => a
  | .zero a => a
  | .num n _ _ => n

/-- a stands before b with -0 below +0 (R153). -/
def FVal.before (a b : FVal) : Bool := a.lt b || (a.eq b && a.sign && !b.sign)

/-- FCMP's condition (R154): eq, ne, lt, le, gt, ge, un, or. -/
def FVal.compare (a b : FVal) (cond : Nat) : Bool :=
  let un := a == .nan || b == .nan
  match cond with
  | 0 => !un && a.eq b
  | 1 => un || !a.eq b
  | 2 => !un && a.lt b
  | 3 => !un && !b.lt a
  | 4 => !un && b.lt a
  | 5 => !un && !a.lt b
  | 6 => un
  | _ => !un

/-- A pattern as FMIN and FMAX return it: a flushed input is the zero of its sign (R153). -/
def Fmt.flushed (f : Fmt) (ftz : Bool) (x : Nat) : Nat :=
  let x := x % 2 ^ f.width
  if ftz && f.subnormal x then f.signBit (x / 2 ^ (f.ebits + f.mbits) % 2 == 1) else x

/-- FMIN and FMAX (R153). -/
def Fmt.minMax (f : Fmt) (ftz mx : Bool) (x y : Nat) : Nat :=
  match f.read ftz x, f.read ftz y with
  | .nan, .nan => f.nan
  | .nan, _ => f.flushed ftz y
  | _, .nan => f.flushed ftz x
  | a, b => if (if mx then a.before b else b.before a) then f.flushed ftz y else f.flushed ftz x

/-- FCLASS (R156). -/
def Fmt.classify (f : Fmt) (x : Nat) : Nat :=
  match f.decode x with
  | .nan => 2 ^ 8
  | .inf a => if a then 2 ^ 0 else 2 ^ 7
  | .zero a => if a then 2 ^ 3 else 2 ^ 4
  | .num n _ _ => if f.subnormal x then (if n then 2 ^ 2 else 2 ^ 5) else (if n then 2 ^ 1 else 2 ^ 6)

/-! ## Integer division (R45) -/

/-- Signed quotient of 64-bit words (R45). -/
def divS (a b : W64) : W64 := if b == 0 then BitVec.allOnes 64 else a.sdiv b
/-- Signed remainder. -/
def remS (a b : W64) : W64 := if b == 0 then a else a.srem b
/-- Unsigned quotient. -/
def divU (a b : W64) : W64 := if b == 0 then BitVec.allOnes 64 else a.udiv b
/-- Unsigned remainder. -/
def remU (a b : W64) : W64 := if b == 0 then a else a.umod b

/-! ## XA96 (R51 to R53) -/

/-- `floor(x × 2^p)` of a finite value, or none when it is out of range or not finite (R52). -/
def xaAddend (v : FVal) (p : Nat) : Option Int :=
  match v with
  | .nan => none
  | .inf _ => none
  | .zero _ => some 0
  | .num n m e =>
    let q : Int := e + p
    if 2000 < q then none
    else
      let mag : Int := signed n m
      let z : Int := if 0 ≤ q then mag * 2 ^ q.toNat else mag.fdiv (2 ^ (-q).toNat)
      let out : Bool := if 0 ≤ q then decide (2 ^ 95 ≤ z.natAbs) else decide (2 ^ 95 * 2 ^ (-q).toNat ≤ m)
      if out then none else some z

/-- xa96_add on the 16-byte cell (R52); bits [127:97] are written 0 (R51). -/
def xaAdd (cell : Nat) (v : FVal) (p : Nat) : Nat :=
  let satf := cell / 2 ^ 96 % 2
  match xaAddend v p with
  | none => cell % 2 ^ 96 + 2 ^ 96
  | some z => (((cell % 2 ^ 96 : Nat) : Int) + z).emod (2 ^ 96) |>.toNat |> (· + satf * 2 ^ 96)

/-- VLD.xa96 (R53): the cell as FP32 with its flags. -/
def xaRead (cell p : Nat) : Nat × Nat :=
  if cell / 2 ^ 96 % 2 == 1 then (fp32.nan, fNV)
  else
    let n : Nat := cell % 2 ^ 96
    let z : Int := if 2 ^ 95 ≤ n then (n : Int) - 2 ^ 96 else n
    if z == 0 then (0, 0) else fp32.round { rm := 0, rb := 0, ftz := false, sat := false } (z < 0) z.natAbs (-(p : Int)) false

end Sys2Proof.Machine
end

