-- ==== Sys2Proof/Machine/Special.lean ====
section
/-!
DEFINITION. The correctly rounded functions of R64. Roots and reciprocals are computed exactly with a sticky bit; the transcendental ones
in fixed point with 320 fraction bits and rounded from there (log 18).
-/

namespace Sys2Proof.Machine

/-- Fraction bits of the fixed-point computations. -/
def fixBits : Nat := 320
/-- 1 in fixed point. -/
def fixOne : Nat := 2 ^ 320
/-- π in fixed point. -/
def fixPi : Nat :=
  0x3243f6a8885a308d313198a2e03707344a4093822299f31d0082efa98ec4e6c89452821e638d01377
/-- ln 2 in fixed point. -/
def fixLn2 : Nat :=
  0xb17217f7d1cf79abc9e3b39803f2f6af40f343267298b62d8a0d175b8baafa2be7b876206debac98

/-- `floor(sqrt n)`, given that it is below 2^b. -/
def isqrtBits (n : Nat) : Nat → Nat → Nat
  | 0, r => r
  | b + 1, r => isqrtBits n b (if (r + 2 ^ b) * (r + 2 ^ b) ≤ n then r + 2 ^ b else r)

/-- `floor(sqrt n)`. -/
def isqrt (n : Nat) : Nat := isqrtBits n (ilog2 n / 2 + 1) 0

/-- 1/x (R64). -/
def fRcp (f : Fmt) (r : Rnd) : FVal → Nat × Nat
  | .nan => (f.nan, 0)
  | .zero a => (f.inf a, fDZ)
  | .inf a => (f.signBit a, 0)
  | .num n m e =>
    let k : Nat := ilog2 m + 64
    f.round r n (2 ^ k / m) (-e - (k : Int)) (2 ^ k % m != 0)

/-- √x (R64). -/
def fSqrt (f : Fmt) (r : Rnd) : FVal → Nat × Nat
  | .nan => (f.nan, 0)
  | .zero a => (f.signBit a, 0)
  | .inf a => if a then f.invalid else (f.inf false, 0)
  | .num n m e =>
    if n then f.invalid
    else
      let sh : Nat := 128 + (if e % 2 == 0 then 0 else 1)
      let w := m * 2 ^ sh
      let s := isqrt w
      f.round r false s ((e - sh) / 2) (s * s != w)

/-- 1/√x (R64). -/
def fRsqrt (f : Fmt) (r : Rnd) : FVal → Nat × Nat
  | .nan => (f.nan, 0)
  | .zero a => (f.inf a, fDZ)
  | .inf a => if a then f.invalid else (f.signBit false, 0)
  | .num n m e =>
    if n then f.invalid
    else
      let m := if e % 2 == 0 then m else 2 * m
      let e := if e % 2 == 0 then e else e - 1
      let k : Nat := ilog2 m + 64
      let s := isqrt (2 ^ (2 * k) / m)
      f.round r false s (-(e / 2) - (k : Int)) (s * s * m != 2 ^ (2 * k))

/-- The exponential series in fixed point: `n` more terms, from term `t` with index `i`. -/
def expSeries (y : Nat) : Nat → Nat → Nat → Nat → Nat
  | 0, _, _, acc => acc
  | n + 1, i, t, acc => expSeries y n (i + 1) (t * y / fixOne / i) (acc + t)

/-- Splits `(-1)^n × m × 2^e` into its floor and its fraction in fixed point. -/
def splitFixed (n : Bool) (m : Nat) (e : Int) : Int × Nat :=
  let v : Int := signed n (if 0 ≤ e + 320 then m * 2 ^ (e + 320).toNat else m / 2 ^ (-(e + 320)).toNat)
  (v.fdiv fixOne, (v.fmod fixOne).toNat)

/-- 2^x (R64): exact for an integer x. -/
def fExp2 (f : Fmt) (r : Rnd) : FVal → Nat × Nat
  | .nan => (f.nan, 0)
  | .zero _ => f.round r false 1 0 false
  | .inf a => if a then (f.signBit false, 0) else (f.inf false, 0)
  | .num n m e =>
    let (i, fr) := splitFixed n m (min e 20)
    let i : Int := if 20 < e then signed n (2 ^ 20) else i
    if fr == 0 || 20 < e then f.round r false 1 i false
    else f.round r false (expSeries (fr * fixLn2 / fixOne) 90 1 fixOne 0) (i - 320) true

/-- The series of atanh in fixed point: z^(2k+1) / (2k+1). -/
def atanhSeries (z2 : Nat) : Nat → Nat → Nat → Nat → Nat
  | 0, _, _, acc => acc
  | n + 1, i, t, acc => atanhSeries z2 n (i + 2) (t * z2 / fixOne) (acc + t / i)

/-- log2 of x (R64): exact for a power of two. -/
def fLog2 (f : Fmt) (r : Rnd) : FVal → Nat × Nat
  | .nan => (f.nan, 0)
  | .zero _ => (f.inf true, fDZ)
  | .inf a => if a then f.invalid else (f.inf false, 0)
  | .num n m e =>
    if n then f.invalid
    else
      let i : Int := e + ilog2 m
      if m == 2 ^ ilog2 m then
        if i == 0 then (f.signBit false, 0) else f.round r (i < 0) i.natAbs 0 false
      else
        let one := 2 ^ ilog2 m
        let z := (m - one) * fixOne / (m + one)
        let ln := 2 * atanhSeries (z * z / fixOne) 110 1 z 0
        let v : Int := i * fixOne + (ln * fixOne / fixLn2 : Nat)
        f.round r (v < 0) v.natAbs (-320) true

/-- The alternating series of sine and cosine in fixed point: terms with signs, the next divisor being i (i + 1). -/
def trigSeries (y2 : Nat) : Nat → Nat → Nat → Int → Int
  | 0, _, _, acc => acc
  | n + 1, i, t, acc => trigSeries y2 n (i + 2) (t * y2 / fixOne / (i * (i + 1))) (acc + (if i / 2 % 2 == 1 then (t : Int) else -(t : Int)))

/-- sin(π r) in fixed point for r in [0, 1/2]. -/
def sinPiFixed (r : Nat) : Nat :=
  let y := r * fixPi / fixOne
  (trigSeries (y * y / fixOne) 60 2 y 0).toNat

/-- cos(π r) in fixed point for r in [0, 1/2]. -/
def cosPiFixed (r : Nat) : Nat :=
  let y := r * fixPi / fixOne
  let y2 := y * y / fixOne
  ((fixOne : Int) - (trigSeries y2 60 3 (y2 / 2) 0)).toNat

/-- sin(πx) (R64). -/
def fSin (f : Fmt) (r : Rnd) : FVal → Nat × Nat
  | .nan => (f.nan, 0)
  | .zero a => (f.signBit a, 0)
  | .inf _ => f.invalid
  | .num n m e =>
    if 1 ≤ e then (f.signBit n, 0)
    else
      let (i, fr) := splitFixed false m e
      if fr == 0 then (f.signBit n, 0)
      else
        let neg := n != (i % 2 == 1)
        let half := fixOne / 2
        let q := if half < fr then fixOne - fr else fr
        if q == half then f.round r neg 1 0 false
        else f.round r neg (sinPiFixed q) (-320) true

/-- cos(πx) (R64). -/
def fCos (f : Fmt) (r : Rnd) : FVal → Nat × Nat
  | .nan => (f.nan, 0)
  | .zero _ => f.round r false 1 0 false
  | .inf _ => f.invalid
  | .num _ m e =>
    if 1 ≤ e then f.round r false 1 0 false
    else
      let (i, fr) := splitFixed false m e
      let half := fixOne / 2
      if fr == 0 then f.round r (i % 2 == 1) 1 0 false
      else if fr == half then (f.signBit false, 0)
      else
        let neg := (i % 2 == 1) != (half < fr : Bool)
        let q := if half < fr then fixOne - fr else fr
        let c := if fixOne / 4 < q then sinPiFixed (half - q) else cosPiFixed q
        f.round r neg c (-320) true

end Sys2Proof.Machine
end

