-- ==== Sys2Proof/Machine/Flags.lean ====
section
/-!
DEFINITION. ASTAT (R65 to R67): the sticky flags, FTZ, and how a floating lane word rounds (R147).
-/

namespace Sys2Proof.Machine

/-- The bits of ASTAT that exist: the six flags and FTZ (R65). -/
def astatMask : W64 := 0x13F#64

/-- FTZ (R65). -/
def Crew.ftz (c : Crew) : Bool := c.astat.getLsbD 8

/-- Raises flags, which stay set (R66). -/
def Crew.raiseFlags (c : Crew) (fl : Nat) : Crew := { c with astat := c.astat ||| (w64 (fl % 64)) }

/-- SWR of ASTAT: reserved bits ignored (R65). -/
def Crew.writeAstat (c : Crew) (x : W64) : Crew := { c with astat := x &&& astatMask }

/-- The rounding of FADD and its like outside a lane word: a mode, no SR, FTZ as given. -/
def plainRnd (rm : Nat) (ftz : Bool) : Rnd := { rm := rm, rb := 0, ftz := ftz, sat := false }

/-- The SR index of lane `i` and slot `e` (R147). -/
def srIndex (crewIdx i e : Nat) : W64 := w64 (crewIdx * 512 + i * 8 + e)

/-- The seed that SEED selects (R147): 0, or a snapshot register. -/
def seedOf (snap : Vector W64 15) (n : Nat) : W64 := if n == 0 then 0 else vget snap (n - 1) 0

/-- The rounding of lane `i` of a floating word (R147): RM, SAT and SEED from fn, slot `e`. -/
def laneRnd (c : Crew) (snap : Vector W64 15) (w : LaneWord) (i e : Nat) : Rnd :=
  { rm := fnBits w.fn 2 0, sat := fnBits w.fn 3 3 == 1, ftz := c.ftz,
    rb := if fnBits w.fn 2 0 == 4 then srMix (seedOf snap (fnBits w.fn 7 4)) (srIndex c.index i e) else 0 }

/-- The union of the flags of the lanes of `m` (R66). -/
def lanesFlags (m : W64) (f : Nat → Nat) : Nat := (lanesOf m).foldl (fun acc i => orFlags acc (f i)) 0

end Sys2Proof.Machine
end

