-- ==== Sys2Proof/Machine/Operands.lean ====
section
/-!
DEFINITION. Operands of lane words: which registers, latches and predicates a word reads and writes (R22 to R24), latch windows (R92
to R97), the lane set (R145), and what each source supplies to a lane (R146).
-/

namespace Sys2Proof.Machine

/-! ## What a lane word reads and writes -/

/-- The registers of one lane word: vector registers read and written, predicates read, the predicate written, latches read, the latch
written, and whether the word may only end a window (R96). -/
structure LaneUse where
  readV  : List Nat
  writeV : List Nat
  readP  : List Nat
  writeP : Option Nat
  latches : List Nat
  latch  : Option Nat
  last   : Bool
  deriving DecidableEq, Repr

/-- A word that uses nothing. -/
def LaneUse.none : LaneUse :=
  { readV := [], writeV := [], readP := [], writeP := Option.none, latches := [], latch := Option.none, last := false }

/-- The vector registers that sources name. -/
def srcRegs (ss : List Src) : List Nat := ss.filterMap fun s => match s with | .vreg n => some n.val | _ => Option.none
/-- The latches that sources name. -/
def srcLatches (ss : List Src) : List Nat := ss.filterMap fun s => match s with | .latch n => some n.val | _ => Option.none

/-- The uses common to every word with a guard and sources. -/
def useBase (w : LaneWord) (ss : List Src) : LaneUse :=
  { LaneUse.none with readV := srcRegs ss, latches := srcLatches ss, readP := [w.pg.val] }

/-- A word of the vector-result class (R23). -/
def useVec (w : LaneWord) (ss : List Src) : LaneUse :=
  { useBase w ss with writeV := if w.ws then [] else [w.vd.val], latch := some w.ld.val }

/-- A word of the predicate-result class (R23). -/
def usePred (w : LaneWord) (ss : List Src) : LaneUse := { useBase w ss with writeP := some w.vd.val }

/-- A word of class none. -/
def useNone (w : LaneWord) (ss : List Src) : LaneUse := useBase w ss

/-- The second register of a 64-bit operand or base (R24, R204). -/
def pairOf : Src → List Nat
  | .vreg n => [n.val + 1]
  | _ => []

/-- The destination registers of a loaded result (R24). -/
def loadRegs (w : LaneWord) : List Nat := if w.ty.is64 then [w.vd.val, w.vd.val + 1] else [w.vd.val]

/-- A memory word: base A by WA, data B if any, index C (R203, R204). -/
def useMem (w : LaneWord) (data : Bool) (loaded last : Bool) : LaneUse :=
  let ss := if data then [w.a, w.b, w.c] else [w.a, w.c]
  let u := useBase w ss
  { u with
    readV := u.readV ++ (if w.wa then pairOf w.a else []) ++ (if data && w.ty.is64 then pairOf w.b else []),
    writeV := if loaded then loadRegs w else [],
    last := last }

/-- The predicate numbers of PLOG and EXECWR (R166, R169). -/
def predSrc : Src → Nat
  | .vreg n => n.val % 16
  | _ => 0

/-- A word that may only end a window and names no register but its guard's. -/
def useLast (w : LaneWord) : LaneUse := { useBase w [] with last := true }

/-- An engine command whose operand is a snapshot register or a literal. -/
def useM : LaneUse := { LaneUse.none with last := true }

/-- `n` registers from `v` up; a run that leaves its allocated range (R30) names register 256, which no crew owns. -/
def regRun (v n : Nat) : List Nat := if 256 < v + n || (v < 192 && 192 < v + n) then [256] else (List.range n).map (v + ·)

/-- B elements of a type in a 32-bit lane word (R252). -/
def mxPerWord (t : BitVec 4) : Nat := if t == 2#4 then 8 else if t == 5#4 || t == 6#4 then 2 else 4

/-- K of an MXMMA (R256). -/
def mxLen (w : MWord) : Nat := 4 * w.klen.toNat

/-- Registers of the elements of a B quarter (R252). -/
def elemRegs (w : MWord) : Nat := (mxLen w + 4 * mxPerWord w.tyB - 1) / (4 * mxPerWord w.tyB)

/-- Registers of a B quarter with its scales (R252). -/
def quarterRegs (w : MWord) : Nat := elemRegs w + (if mxIsMx w.tyB then (mxLen w + 511) / 512 else 0)

/-- The bytes of an image element (R262, R265): type code 8 is the level-3 form. -/
def mxBytes (t : BitVec 4) : Nat := if t.toNat ≤ 1 then 1 else if t == 5#4 || t == 6#4 then 2 else if t == 8#4 then 8 else 4

/-- The type that an MXDRAIN writes. -/
def drainTy (w : MWord) : BitVec 4 := if w.tyC == 8#4 then w.tyC else w.tyD

/-- The uses of every lane word. -/
def laneUse : Instr → LaneUse
  | .vadd w | .vsub w | .vmul w | .vmulh w | .vand w | .vor w | .vxor w | .vshl w | .vshr w | .vmin w | .vmax w => useVec w [w.a, w.b]
  | .vmad w | .vbfi w | .vaddc w => useVec w [w.a, w.b, w.c]
  | .vabs w | .vclz w | .vpopc w | .vmov w | .vneg w => useVec w [w.a]
  | .vsel w => { useVec w [w.a, w.b] with readP := [w.pg.val, fnBits w.fn 3 0] }
  | .vbfe w => useVec w [w.a, w.b]
  | .vcmp w | .fcmp w => usePred w [w.a, w.b]
  | .fadd w | .fsub w | .fmul w | .fscale w | .fmin w | .fmax w => useVec w [w.a, w.b]
  | .ffma w => useVec w [w.a, w.b, w.c]
  | .frcp w | .frsq w | .fsqrt w | .fexp2 w | .flog2 w | .fsin w | .fcos w => useVec w [w.a]
  | .fclass w | .fcvt w | .frnd w | .ftoi w | .itof w => useVec w [w.a]
  | .qpack w => useVec w [w.a, w.b, w.c]
  | .qunpk w => useVec w [w.a, w.b]
  | .vshfl w => useVec w [w.a, w.b, w.c]
  | .vvote w | .pset w => usePred w [w.a]
  | .vfold w => useVec w [w.a]
  | .vscan w => useVec w (if w.fn.getLsbD 7 then [w.a, w.c] else [w.a])
  | .vsync w => { useNone w [w.a, w.b] with last := true }
  | .plog w => { usePred w [] with readP := [w.pg.val, predSrc w.a, predSrc w.b, predSrc w.c] }
  | .execrd w => useVec w []
  | .execwr w => { useNone w [] with readP := [w.pg.val, predSrc w.a] }
  | .brl w | .joinWord w | .lend w | .lyield w | .ltrap w | .lwaitc w | .batch w => useLast w
  | .lnop w => useNone w []
  | .vld w | .vldk w => useMem w false true false
  | .vst w | .vred w | .vrdx w | .vatomNoReturn w => useMem w true false true
  | .vlds w => { useBase w [w.a, w.c] with writeV := loadRegs w }
  | .vsts w =>
    let u := useBase w [w.a, w.b, w.c]
    { u with readV := u.readV ++ (if w.ty.is64 then pairOf w.b else []), last := true }
  | .vatom w => useMem w true true true
  | .vcas w =>
    let u := useMem w true true true
    { u with readV := u.readV ++ loadRegs w }
  | .vpref w => useMem w false false false
  | .cpy w | .cpym w | .cpyt w | .cwin w => useLast w
  | .cabort w => useNone w []
  | .wlapp w => { useNone w [w.a, w.b] with last := true }
  | .cstat w => { useBase w [] with writeV := [w.vd.val] }
  | .rput w | .rred w | .coll w => useMem w true false true
  | .rget w => useMem w false true true
  | .mxmma w => { useM with readV := regRun w.vB.val (quarterRegs w) }
  | .mxdrain w => if w.dst == 2 then { useM with writeV := regRun w.vB.val (16 * mxBytes (drainTy w)) } else useM
  | .mxstat w => { useM with writeV := [w.vB.val] }
  | .mxzero _ | .mxfence _ => useM
  | _ => LaneUse.none

/-! ## Latch windows (R93, R95, R96) -/

/-- The uses of the words at `idx` to `idx + 3`. -/
def lookAhead (l : Launch) (idx : Nat) : List LaneUse :=
  (List.range 4).map fun j => match laneWordAt l (idx + j) with | some w => laneUse (laneInstr w) | none => LaneUse.none

/-- The latest of the words before `j` that writes latch `b`. -/
def producer (us : List LaneUse) (j b : Nat) : Option Nat :=
  ((List.range j).filter fun i => (us.getD i LaneUse.none).latch == some b).getLast?

/-- The last word of the window that starts at word 0: it grows to a consumer whose producer lies inside it. DESIGN CHOICE (log 69): windows are found
from the encodings alone; a word whose L is empty, which writes no latch (R145), still counts as the latch's writer. -/
def windowEnd (us : List LaneUse) : Nat :=
  [1, 2, 3].foldl (fun e j =>
    if (us.getD j LaneUse.none).latches.any (fun b => match producer us j b with | some i => i ≤ e | none => false)
    then j else e) 0

/-- The window that opens at `idx`. -/
def openWindow (l : Launch) (idx : Nat) : Window :=
  { start := idx, len := windowEnd (lookAhead l idx) + 1, done := 0, readV := [], readP := [] }

/-! ## The running lane word -/

/-- What a lane word runs with: its crew, the fragment and its slot, the block, the open window, the word's fields in use, and
the lane set L (R145). -/
structure LaneCx where
  u    : Nat
  c    : Crew
  slot : Nat
  fr   : Frag
  blk  : Block
  win  : Window
  use  : LaneUse
  lset : W64
  word : Nat

/-- The guard mask G (R145). -/
def guardMask (c : Crew) (pg : Fin 16) (pn : Bool) : W64 := if pn then ~~~ c.rp pg.val else c.rp pg.val

/-- The crew, fragment and block of the present lane word. -/
def onLane (s : State) (f : LaneCx → Result) : Result :=
  match s.cur with
  | none => .fault .noStream
  | some cur => if !cur.lane then .fault .noStream else match crewOf s cur.crew with
    | none => .fault .noStream
    | some c => match c.div.frag cur.slot, c.laneQ.head?, crewLaunch s c with
      | some fr, some blk, some l =>
        f { u := cur.crew, c := c, slot := cur.slot, fr := fr, blk := blk,
            win := match fr.win with | some w => w | none => openWindow l fr.lpc,
            use := LaneUse.none, lset := fr.exec, word := cur.word }
      | _, _, _ => .fault .noStream

/-- The fragment goes on at index `i`; its window counts this word and what it names, and at the window's end the latches become invalid. -/
def LaneCx.frNext (x : LaneCx) (fr : Frag) (i : Nat) : Frag :=
  let w := { x.win with done := x.win.done + 1,
                        readV := x.use.readV ++ x.win.readV, readP := x.use.readP ++ x.win.readP }
  let fr := { fr with lpc := i, held := [], appended := none, bpPass := if fr.bpPass == some x.fr.lpc then none else fr.bpPass }
  if w.done < w.len then { fr with win := some w } else fr.cut

/-- The word completes with crew `c`, the fragment going on at index `i`; a trap that waits for this window is taken. -/
def LaneCx.finishAt (x : LaneCx) (s : State) (c : Crew) (fr : Frag) (i : Nat) : State :=
  settleTrap (putCrew s x.u { c with div := c.div.setFrag x.slot (some (x.frNext fr i)) }) x.u

/-- The word completes and the fragment goes on at the next word. -/
def LaneCx.finish (x : LaneCx) (s : State) (c : Crew) : Result := .next (x.finishAt s c x.fr (x.fr.lpc + 1))

/-- The trap of the present lane word (R97, R111). -/
def LaneCx.trapInfo (x : LaneCx) (cause detail arg : Nat) (mask addr : W64) (entry : Option Nat) : TrapInfo :=
  { cause := cause, detail := detail, arg := arg, lane := true, noWord := false, slot := x.slot, woff := x.win.done,
    tlpc := w64 x.win.start, texec := x.fr.exec, tfmask := mask, addr := addr, word0 := w64 (x.word % 2 ^ 64),
    word1 := w64 (x.word / 2 ^ 64), entry := entry, at_ := none }

/-- The toucher of the present lane word. -/
def LaneCx.toucher (x : LaneCx) : Toucher := .word x.u x.slot x.blk.ord x.fr.lpc

/-- The present lane word raises a trap: its fragment stands at the first word of the window, latches invalid. -/
def LaneCx.raiseWith (x : LaneCx) (s : State) (cause detail arg : Nat) (mask addr : W64) (entry : Option Nat) : Result :=
  let s := modCrew s x.u fun c => { c with div := c.div.modFrag x.slot fun f => { f with lpc := x.win.start, held := [] }.cut }
  .next (raise s x.u (x.trapInfo cause detail arg mask addr entry))

/-- The same without an emulation entry. -/
def LaneCx.raise (x : LaneCx) (s : State) (cause detail arg : Nat) (mask addr : W64) : Result :=
  x.raiseWith s cause detail arg mask addr none

/-- The word breaks a rule of R96 or reads an invalid latch (R95): detail and latch number. A write of p0 is discarded (R88). DESIGN CHOICE (log 69):
details 1 and 2 concern no latch, and their latch number is 0. -/
def LaneCx.latchError (x : LaneCx) : Option (Nat × Nat) :=
  match x.use.latches.find? (fun b => !x.fr.latchOk.getLsbD b) with
  | some b => some (0, b)
  | none =>
    if x.use.writeV.any x.win.readV.contains || (match x.use.writeP with | some p => p != 0 && x.win.readP.contains p | none => false) then some (1, 0)
    else if x.use.last && x.win.done + 1 < x.win.len then some (2, 0)
    else none

/-- A register that the word names lies outside the crew's allocation (R30). -/
def LaneCx.badReg (x : LaneCx) : Bool := (x.use.readV ++ x.use.writeV).any fun n => !x.c.owns n

/-- A lane load of the word's lanes into a register that the word names has not returned (R119). -/
def LaneCx.busy (x : LaneCx) : Bool :=
  x.c.loads.any fun l =>
    !l.scalar && l.lanes.any (fun a => x.lset.getLsbD a.lane) &&
      ((x.use.readV ++ x.use.writeV).contains l.reg ||
       (match l.ext with | .pair => (x.use.readV ++ x.use.writeV).contains (l.reg + 1) | _ => false))

/-- The lanes of `m` of a valid latch that no word has written get what `left` gives them (log 11). -/
def fillLatches (left : Nat → Nat → W32) (m : W64) (fr : Frag) : List Nat → Frag
  | [] => fr
  | b :: bs =>
    let open_ := m &&& ~~~ vget fr.latchSet b 0
    if open_ == 0 then fillLatches left m fr bs
    else
      fillLatches left m
        { fr with latch := vmod fr.latch b (laneMerge open_ (lanesFn (left b))), latchSet := vmod fr.latchSet b (· ||| open_) } bs

/-- What a lane of a valid latch holds that no word has written (log 11): the free value of the present word, the latch and the lane, so that it does not
depend on the schedule (R175). -/
def LaneCx.latchLeft (x : LaneCx) (b i : Nat) : W32 := Config.latchLeft x.word b i

/-- The detail of the PRIV that a word raises in a crew (R244, R409). -/
def privDetail (c : Crew) : Instr → Option Nat
  | .coll _ => if c.kind != 3 then some 3 else none
  | .mxmma _ | .mxdrain _ | .mxzero _ | .mxstat _ | .mxfence _ => if c.kind != 2 then some 1 else none
  | _ => none

/-- A lane word runs (R29 step 3 on, R145): the register check, the privilege check, an empty L, the window rules, the interlock, then `f`. -/
def laneWord (s : State) (i : Instr) (lset : Crew → Frag → W64) (f : State → LaneCx → Result) : Result :=
  onLane s fun x =>
    let x := { x with use := laneUse i, lset := lset x.c x.fr }
    if x.badReg then x.raise s 0x02 0 0 allLanes 0
    else match privDetail x.c i with
      | some d => x.raise s 0x04 d 0 allLanes 0
      | none =>
        if x.lset == 0 then x.finish s x.c
        else match x.latchError with
          | some (d, b) => x.raise s 0x09 d b allLanes 0
          | none => if x.busy then stall s else f s { x with fr := fillLatches x.latchLeft x.lset x.fr x.use.latches }

/-- The lane set of a guardable word (R145). -/
def guarded (w : LaneWord) (c : Crew) (fr : Frag) : W64 := fr.exec &&& guardMask c w.pg w.pn

/-- What a source supplies to lane `i` (R146). -/
def LaneCx.src (x : LaneCx) (w : LaneWord) (o : Src) (i : Nat) : W32 :=
  match o with
  | .vreg n => laneGet (x.c.rv n.val) i
  | .latch n => laneGet (vget x.fr.latch n.val zeroLanes) i
  | .snap n => (x.blk.snap[n.val]).truncate 32
  | .zero => 0
  | .laneId => w32 i
  | .imm => w.imm
  | .crewId => w32 x.c.index

/-- What a 64-bit operand supplies (R24): a register pair, all of a snapshot register, or zero. -/
def LaneCx.src64 (x : LaneCx) (w : LaneWord) (o : Src) (i : Nat) : W64 :=
  match o with
  | .vreg n => (laneGet (x.c.rv (n.val + 1)) i) ++ (laneGet (x.c.rv n.val) i)
  | .snap n => x.blk.snap[n.val]
  | _ => (x.src w o i).zeroExtend 64

/-- "A snapshot register or a literal" (R22): low 32 bits. -/
def LaneCx.literal (x : LaneCx) (w : LaneWord) : W32 := x.src w w.a 0

/-- A vector result is written to the latch and, unless WS = 1, to vd, with its flags (R92, R146). -/
def LaneCx.writeVec (x : LaneCx) (s : State) (w : LaneWord) (d : Lanes) (flags : Nat) : Result :=
  let fr := { x.fr with
    latch := vmod x.fr.latch w.ld.val (laneMerge x.lset d),
    latchOk := x.fr.latchOk ||| BitVec.ofNat 4 (2 ^ w.ld.val),
    latchSet := vmod x.fr.latchSet w.ld.val (· ||| x.lset) }
  let c := if w.ws then x.c else x.c.wv w.vd.val x.lset d
  .next (x.finishAt s (c.raiseFlags flags) fr (fr.lpc + 1))

/-- A predicate result (R149). -/
def LaneCx.writePred (x : LaneCx) (s : State) (w : LaneWord) (d : W64) : Result := x.finish s (x.c.wp w.vd.val x.lset d)

/-- A word of the vector-result class whose lanes do not meet: `f` gives each lane's result and flags. -/
def laneVec (s : State) (i : Instr) (w : LaneWord) (f : LaneCx → Nat → W32 × Nat) : Result :=
  laneWord s i (guarded w) fun s x => x.writeVec s w (lanesFn fun i => (f x i).1) (lanesFlags x.lset fun i => (f x i).2)

/-- A word of the predicate-result class whose lanes do not meet. -/
def lanePred (s : State) (i : Instr) (w : LaneWord) (f : LaneCx → Nat → Bool) : Result :=
  laneWord s i (guarded w) fun s x => x.writePred s w (maskOf (f x))

end Sys2Proof.Machine
end

