-- ==== Sys2Proof/Machine/Access.lean ====
section
/-!
DEFINITION. Memory accesses of crews: holding a word on a missing page (R316, R320), issuing loads and stores (R130, R201, R317), what a
load reads (R201, R296, R318), performing at the home (R296), atomics (R135, R137), scratchpad ports and regions (R277, R283).
-/

namespace Sys2Proof.Machine

/-! ## Holding a word -/

/-- ACCESS codes of a fault record (R321). -/
def accLoad : Nat := 0x01
def accStore : Nat := 0x02
def accAtomic : Nat := 0x07
def accFetch : Nat := 0x08
def accConst : Nat := 0x11

/-- WORD of a fault record (R321). -/
def faultWord (lane : Bool) (idx : Nat) : Nat := idx % 2 ^ 22 + 2 ^ 31 * flag lane

/-- The fault records of a crew's word for some pages with their lowest lanes (R320, R321). -/
def crewRecords (c : Crew) (lane : Bool) (idx access kind : Nat) (pages : List (Nat × Nat)) : List FaultRec :=
  pages.map fun p =>
    { vp := p.1, kind := kind, access := access, lowLane := if lane then p.2 else 0xFF, core := c.core, slot := c.slot, die := c.die,
      word := faultWord lane idx }

/-- What a word that waits for pages does (R316, R320): the pages that were refused; or it waits, with new records for pages that
have none unanswered. -/
def holdPages (s : State) (ctx : Nat) (held : List PageWait) (recs : List FaultRec) : List Nat × State × List PageWait :=
  let no := (recs.map (·.vp)).filter (refused held)
  if !no.isEmpty then (no, s, held)
  else
    let new := recs.filter fun r => !waiting held r.vp
    if new.isEmpty then ([], s, held)
    else match writeRecords s ctx new with
      | none => ([], s, held)
      | some s =>
        ([], s, held.filter (fun w => !new.any (·.vp == w.vp)) ++ new.map fun r => { vp := r.vp, answer := none })

/-- A scalar word waits for its page, or raises PAGE, detail 8, once it was refused. -/
def holdScalar (s : State) (u : Nat) (c : Crew) (va : W64) (access : Nat) : Result :=
  let r := holdPages s (crewCtx s c) c.held (crewRecords c false c.spc access 0 [(va.toNat / 4096, 0)])
  if r.1.isEmpty then stall (modCrew r.2.1 u fun c => { c with held := r.2.2 }) else raiseScalar s u 0x0B 8 0 va

/-- A lane word waits for its pages, or raises PAGE, detail 8, in the lanes of refused pages. -/
def holdLane (s : State) (x : LaneCx) (lanes : List (Nat × W64 × LaneCheck)) (access : Nat) : Result :=
  let r := holdPages s (crewCtx s x.c) x.fr.held (crewRecords x.c true x.fr.lpc access 0 (absentPages lanes))
  if r.1.isEmpty then
    stall (modCrew r.2.1 x.u fun c => { c with div := c.div.modFrag x.slot fun f => { f with held := r.2.2 } })
  else
    let bad := lanes.filter fun l => r.1.contains (l.2.1.toNat / 4096)
    x.raise s 0x0B 8 0 (maskOf fun i => bad.any (·.1 == i)) (match bad with | b :: _ => b.2.1 | [] => 0)

/-- The records of kind 2 or 3 that a walk's failure writes before PAGE is raised (R316, R323); nothing while the ring is full. -/
def failRecords (s : State) (c : Crew) (lane : Bool) (idx access : Nat) (lanes : List (Nat × W64 × LaneCheck)) : Option State :=
  let two := badPages lanes 6
  let three := badPages lanes 7
  writeRecords s (crewCtx s c) (crewRecords c lane idx access 2 two ++ crewRecords c lane idx access 3 three)

/-- A scalar word's failed check (R130). -/
def failScalar (s : State) (u : Nat) (c : Crew) (va : W64) (access cause detail : Nat) : Result :=
  match failRecords s c false c.spc access [(0, va, .fail 4 cause detail)] with
  | none => stall s
  | some s => raiseScalar s u cause detail 0 va

/-- A lane word's failed check (R207). The walks of every lane leave their records (R316). -/
def failLane (s : State) (x : LaneCx) (lanes : List (Nat × W64 × LaneCheck)) (access : Nat) (f : CheckFail) : Result :=
  match if f.cause == 0x0B then failRecords s x.c true x.fr.lpc access lanes else some s with
  | none => stall s
  | some s => x.raise s f.cause f.detail 0 f.mask f.addr

/-- The checks of a word that has waited: a page that was refused counts as missing although it has been mapped since (R320). -/
def heldOut (held : List PageWait) (ls : List (Nat × W64 × LaneCheck)) : List (Nat × W64 × LaneCheck) :=
  ls.map fun l => match l.2.2 with
    | .ok _ => if refused held (l.2.1.toNat / 4096) then (l.1, l.2.1, .absent) else l
    | _ => l

/-- The check of a scalar word that may have waited. -/
def checkHeld (s : State) (c : Crew) (va : W64) (align : Nat) (acc : Acc) (hostBad : Bool) : State × LaneCheck :=
  match checkLane s c.die c.core (crewDev s c) (crewCtx s c) va align acc hostBad with
  | (s, .ok pa) => (s, if refused c.held (va.toNat / 4096) then .absent else .ok pa)
  | r => r

/-! ## Atomic operations (R134, R135, R214) -/

/-- Sign of a w-bit number. -/
def asSigned (w n : Nat) : Int := if 2 ^ (w - 1) ≤ n % 2 ^ w then (n % 2 ^ w : Nat) - (2 ^ w : Int) else (n % 2 ^ w : Nat)

/-- The new value of an atomic (R135): OP 0 ADD, 1 AND, 2 OR, 3 SWAP, 4 MIN, 5 MAX, 6 MINU, 7 MAXU. -/
def atomNew (op w old b : Nat) : Nat :=
  let old := old % 2 ^ w
  let b := b % 2 ^ w
  match op with
  | 0 => (old + b) % 2 ^ w
  | 1 => old &&& b
  | 2 => old ||| b
  | 3 => b
  | 4 => if asSigned w b < asSigned w old then b else old
  | 5 => if asSigned w old < asSigned w b then b else old
  | 6 => min old b
  | _ => max old b

/-- The returned old value (R135, R136): sign-extended for the signed minimum and maximum. -/
def atomOld (op w old : Nat) : W64 := if op == 4 || op == 5 then signExt64 w old else w64 (old % 2 ^ w)

/-- VRED's and RRED's combination of two 4-byte values (R214, R402): 0 add, 1 min, 2 max; result and flags. -/
def redApply (ty : Ty) (op rm : Nat) (ftz : Bool) (old b : Nat) : Nat × Nat :=
  if ty == .f32 then
    match op with
    | 0 => fp32.add (plainRnd rm ftz) (fp32.read ftz old) (fp32.read ftz b)
    | 1 => (fp32.minMax ftz false old b, 0)
    | _ => (fp32.minMax ftz true old b, 0)
  else
    let s := ty == .i32
    match op with
    | 0 => ((old + b) % 2 ^ 32, 0)
    | 1 => (atomNew (if s then 4 else 6) 32 old b, 0)
    | _ => (atomNew (if s then 5 else 7) 32 old b, 0)

/-! ## The audit signature (R370) -/

/-- One access enters the signature of an audited team. -/
def signAccess (s : State) (team : Nat) (va : W64) (data : List Byte) : State :=
  match teamOf s team with
  | none => s
  | some t => match launchOf s t.launch with
    | none => s
    | some l =>
      if !l.kernel.audit || l.record.auditk == 0 then s
      else
        let tag := Config.auditTag l.uid (leBytes 8 va.toNat ++ leBytes 8 data.length ++ data)
        modTeam s team fun t => { t with sigSum := t.sigSum + tag, sigCount := t.sigCount + 1 }

/-! ## Stores in flight -/

/-- The replay view of a crew (R369). -/
def Crew.view (c : Crew) : Option Nat := some c.team

/-- An entry writes into a range of physical addresses. -/
def StoreEntry.meets (e : StoreEntry) (pa n : Nat) : Bool :=
  e.space == .global && e.lanes.any fun l => overlaps l.pa e.width pa n

/-- An address of a device is homed on another die than `die` (R292). -/
def homedFar (dev die pa : Nat) : Bool := match homeKey dev pa with | some k => k < 2 ^ 51 && keyDie k != die | none => false

/-- A request has waited longer than XTMO for an answer (R382). -/
def overdue (s : State) (sent : Option Nat) : Bool := match sent with | some t => s.xtmo < s.reftime - t | none => false

/-- Two requests of one core that the home performs in their order: they meet, or name one 128-byte line of the other die (R201, R381). -/
def kept (far : Bool) (a n b m : Nat) : Bool := overlaps a n b m || (far && a / 128 == b / 128)

/-- The port took the entry before place `at_` of the issue order (R201). -/
def StoreEntry.before (e : StoreEntry) (at_ : Nat) : Bool := match e.port with | some n => n < at_ | none => false

/-- The byte that an entry's lanes give an address, the highest lane standing last (R208). -/
def entryByte (e : StoreEntry) (addr : LaneAcc → Nat) (a : Nat) : Option Byte :=
  ((e.lanes.filter fun l => addr l ≤ a && a < addr l + e.width).getLast?).map fun l =>
    BitVec.ofNat 8 (l.data.toNat / 2 ^ (8 * (a - addr l)))

/-- The crews of a core. -/
def coreCrews (s : State) (die core : Nat) : List Crew := (s.crews.map (·.2)).filter fun c => c.die == die && c.core == core

/-- The newest logged byte of a crew at a virtual address, of the entries before `stamp` (R318). -/
def loggedByte (c : Crew) (stamp va : Nat) : Option Byte :=
  ((c.sideLog.filter fun e => e.kind == .plain && e.stamp < stamp).filterMap fun e => entryByte e (·.va.toNat) va).getLast?

/-- The newest byte of the crew's store queue that stands before `stamp` and that the port had not taken by then (R201). -/
def queuedByte (c : Crew) (stamp pa : Nat) : Option Byte :=
  ((c.storeQ.filter fun e => e.kind == .plain && e.space == .global && e.stamp < stamp && !e.before stamp).filterMap fun e =>
    entryByte e (·.pa) pa).getLast?

/-- What the crews of team `who` store may be seen by those of `view` (R369): a replay's stores are its own, and what stands in its private pages is not
others' stores. -/
def seesStores (s : State) (view : Option Nat) (who key : Nat) : Bool :=
  view == some who || ((replayTeam s (some who)).isNone &&
    match replayTeam s view with | some t => !t.shadows.contains (key / 4096) | none => true)

/-- The newest byte that the core's memory port took before place `stamp` and no home has performed (R201, R296), as the crews of `view` see it. -/
def portByte (s : State) (view : Option Nat) (dev die core stamp pa : Nat) : Option Byte :=
  let es := ((coreCrews s die core).filter fun k => seesStores s view k.team ((homeKey dev pa).getD 0)).flatMap fun k => k.storeQ.filterMap fun e =>
    match e.port with
    | some n => if n < stamp && e.kind == .plain && e.space == .global then (entryByte e (·.pa) pa).map fun b => (n, b) else none
    | none => none
  ((sortBy (·.1) es).getLast?).map (·.2)

/-- The byte a crew's load reads besides memory itself (R201, R318). -/
def forwardByte (s : State) (c : Crew) (stamp va pa : Nat) : Option Byte :=
  (loggedByte c stamp va).or ((queuedByte c stamp pa).or (portByte s c.view (crewDev s c) c.die c.core stamp pa))

/-- A store-class entry of the core that the port took before place `stamp`, to the bytes of a request or in order with it (R201, R381), has not
been performed; a plain one counts where `plain` says so. -/
def storeAhead (s : State) (dev die core : Nat) (plain : Bool) (stamp pa n : Nat) : Bool :=
  let far := homedFar dev die pa
  (coreCrews s die core).any fun k => k.storeQ.any fun e =>
    (plain || e.kind != .plain) && e.before stamp && e.space == .global && e.lanes.any fun l => kept far l.pa e.width pa n

/-- A load or returning atomic of the core that stands before place `stamp`, to the bytes of a request or in order with it, has not been
performed (R201, R381); a load counts where `plain` says so. -/
def loadAhead (s : State) (dev die core : Nat) (plain : Bool) (stamp pa n : Nat) : Bool :=
  let far := homedFar dev die pa
  (coreCrews s die core).any fun k => k.loads.any fun q =>
    (plain || q.atom.isSome) && q.stamp < stamp && q.space == .global && q.lanes.any fun l => kept far l.pa q.width pa n

/-- Another crew of the core than `who` has performed an atomic on a range before its turn: what the core's crews see of it waits until the accesses
before it are performed too (R201, R297). -/
def tookAhead (s : State) (die core : Nat) (who : Option Nat) (pa n : Nat) : Bool :=
  (coreCrews s die core).any fun k => who != some k.uid && k.loads.any fun q =>
    q.space == .global && q.lanes.any fun l => l.took.isSome && overlaps l.pa q.width pa n

/-- An access of an engine of the core waits for those to its bytes, or in order with it, that the port has taken (R197, R201, R283, R381); it reads
plain stores at the port. -/
def engineWaits (s : State) (dev die core : Nat) (write : Bool) (pa n : Nat) : Bool :=
  let plain := write || homedFar dev die pa
  storeAhead s dev die core plain s.nextStamp pa n || loadAhead s dev die core plain s.nextStamp pa n || tookAhead s die core none pa n

/-- What an engine of a core reads from memory: as a plain load of the core would (R197, R283). -/
def coreRead (s : State) (view : Option Nat) (dev die core pa n : Nat) : State × List Byte × Bool :=
  let fw := (List.range n).map fun i => portByte s view dev die core s.nextStamp (pa + i)
  let (s, bs, bad) := readHome s view dev die pa n
  (s, (fw.zip bs).map fun e => e.1.getD e.2, bad && !fw.all Option.isSome)

/-- An entry of the crew's own that the port has not taken and that no load forwards from stands in a load's bytes (R201): the load waits. -/
def Crew.blindStore (c : Crew) (pa n : Nat) : Bool := c.storeQ.any fun e => e.kind != .plain && e.port.isNone && e.meets pa n

/-- The port has taken every store of the crew: an atomic follows them in its order (R201). -/
def Crew.portClear (c : Crew) : Bool := c.storeQ.all fun e => e.space != .global || e.port.isSome

/-! ## Loads performed before their turn (R297; log 7) -/

/-- The early reads of a core that an access to a range ends: those of the crew `who`, or of all its crews. -/
def forget (s : State) (die core : Nat) (who : Option Nat) (far : Bool) (pa n : Nat) : State :=
  modCore s die core fun co =>
    { co with early := co.early.filter fun e =>
        !((match who with | some u => far || e.crew == u | none => true) && kept far e.pa e.bytes.length pa n) }

/-- What a crew's loads have read early of a range. -/
def earlyRead (s : State) (c : Crew) (pa n : Nat) : Option EarlyRead :=
  (coreAt s c.die c.core).early.find? fun e => e.crew == c.uid && e.pa ≤ pa && pa + n ≤ e.pa + e.bytes.length

/-! ## Release and acquire (R138, R235) -/

/-- The crew's stores that R84 orders before a scalar word: scalar ones, and those of blocks it has synchronised with. -/
def StoreEntry.ordered (e : StoreEntry) (synced : Nat) : Bool := e.scalar || e.block ≤ synced

/-- A scalar release is satisfied at a scope (R138): at core scope the port has accepted every ordered store, beyond it the homes have
performed them; the data of every earlier load has returned. A constant read is in no order (R300). -/
def released (c : Crew) (synced stamp scope : Nat) : Bool :=
  ((c.storeQ ++ c.sideLog).all fun e => !(e.ordered synced && e.stamp < stamp) || (scope == 0 && e.port != none)) &&
    c.loads.all fun l => (if l.scalar then stamp ≤ l.stamp else synced < l.block) || l.space == .constant

/-- The FENCE marks of a crew that still wait (R235). -/
def Crew.openFences (c : Crew) : List FenceMark := c.fences.filter fun f => !released c f.synced f.stamp f.scope

/-- No release of an earlier FENCE is open for an access: a scalar one by its stamp, a lane one by its block (R84). -/
def Crew.fencesClear (c : Crew) (scalar : Bool) (stamp block : Nat) : Bool :=
  c.openFences.all fun f => if scalar then stamp ≤ f.stamp else block < f.blocks

/-- A release of a crew is satisfied (R138, R194, R197); a crew that is gone has nothing outstanding. -/
def markReleased (s : State) (scope : Nat) (m : RelMark) : Bool :=
  match crewOf s m.crew with | some c => released c m.synced m.stamp scope | none => true

/-- A lane release (R212): every lane access before it in the lane stream, and every scalar access before the block's LRUN. -/
def laneReleased (c : Crew) (blk : Nat) (stamp : Nat) : Bool :=
  c.storeQ.all (fun e => stamp ≤ e.stamp || (e.scalar && blk ≤ e.stamp)) && c.sideLog.all (fun e => stamp ≤ e.stamp || (e.scalar && blk ≤ e.stamp)) &&
    c.loads.all (fun e => stamp ≤ e.stamp || (e.scalar && blk ≤ e.stamp) || e.space == .constant)

/-! ## Issuing -/

/-- The next stamp of the issue order. -/
def takeStamp (s : State) : State × Nat := ({ s with nextStamp := s.nextStamp + 1 }, s.nextStamp)

/-- A store-class entry joins the store queue, or the side log when a page is missing or the log holds an entry (R201, R317). -/
def Crew.enqueue (c : Crew) (e : StoreEntry) : Crew :=
  if e.waits.isEmpty && c.sideLog.isEmpty then { c with storeQ := c.storeQ ++ [e] } else { c with sideLog := c.sideLog ++ [e] }

/-- The entry would go to a side log that is full (R317). -/
def Crew.logFull (c : Crew) (waits : Bool) : Bool := (waits || !c.sideLog.isEmpty) && 64 ≤ c.sideLog.length

/-- New waits for the pages of a word that retires into the log. -/
def newWaits (pages : List (Nat × Nat)) : List PageWait := pages.map fun p => { vp := p.1, answer := none }

/-- A scalar store (R130, R132). -/
def scalarStore (d a : SReg) (i : Imm13) (width : Nat) (s : State) : Result :=
  withScalar s [d, a] fun u c =>
    let va := c.rs a + i.signExtend 64
    if c.acquiring then stall s
    else
      let (s1, ck) := checkLane s c.die c.core (crewDev s c) (crewCtx s c) va width .store false
      let put (s : State) (pa : Nat) (waits : List PageWait) : Result :=
        let (s, stamp) := takeStamp s
        let e : StoreEntry :=
          { stamp := stamp, scalar := true, kind := .plain, space := .global, width := width, ty := .b32, op := 0, rm := 0, p := 0,
            lanes := [{ lane := 0, va := va, pa := pa, data := c.rs d, expect := 0, took := none, hi := none }], port := none, word := c.spc,
            slot := 0, block := 0, waits := waits, sent := none, wrote := [] }
        .next (putCrew s u (c.enqueue e).next)
      match ck with
      | .fail _ cause detail => failScalar s1 u c va accStore cause detail
      | .ok pa => if c.logFull false then stall s1 else put s1 pa []
      | .absent =>
        if c.logFull true then stall s1
        else match writeRecords s1 (crewCtx s c) (crewRecords c false c.spc accStore 0 [(va.toNat / 4096, 0)]) with
          | none => stall s1
          | some s2 => put s2 0 (newWaits [(va.toNat / 4096, 0)])

/-- The bytes of `[va, va + n)` when the crew's own log gives every one (R318). -/
def loggedAll (c : Crew) (stamp : Nat) : Nat → Nat → Option (List Byte)
  | _, 0 => some []
  | va, n + 1 => match loggedByte c stamp va, loggedAll c stamp (va + 1) n with
    | some b, some bs => some (b :: bs)
    | _, _ => none

/-- A pending scalar load. -/
def scalarPending (c : Crew) (stamp : Nat) (d : SReg) (va : W64) (pa width : Nat) (space : Space) (ext : Extend)
    (atom : Option AtomOp) (data expect : W64) (fresh : Bool) : PendingLoad :=
  { stamp := stamp, scalar := true, reg := d.val, space := space, width := width, ext := ext, atom := atom,
    lanes := [{ lane := 0, va := va, pa := pa, data := data, expect := expect, took := none, hi := none }], word := c.spc, slot := 0, block := 0,
    fresh := fresh, sent := none, vsync := [] }

/-- A scalar load (R130, R132): the data arrives with LOAD_DATA_RETURN; a load that the crew's own log covers completes at once
(R318). -/
def scalarLoad (d a : SReg) (i : Imm13) (width : Nat) (s : State) : Result :=
  withScalar s [d, a] fun u c =>
    let va := c.rs a + i.signExtend 64
    if c.acquiring then stall s
    else if bitsOf va 63 56 != 0 then raiseScalar s u 0x0B 0 0 va
    else if va.toNat % width != 0 then raiseScalar s u 0x0A 0 0 va
    else match loggedAll c s.nextStamp va.toNat width with
      | some bs => .next (putCrew s u (c.ws d (w64 (leNat bs))).next)
      | none =>
        let (s, ck) := checkHeld s c va width .load false
        match ck with
        | .fail _ cause detail => failScalar s u c va accLoad cause detail
        | .absent => holdScalar s u c va accLoad
        | .ok pa =>
          if c.blindStore pa width then stall s
          else
            let (s, stamp) := takeStamp s
            .next (putCrew s u { c with loads := c.loads ++ [scalarPending c stamp d va pa width .global .zero none 0 0 false] }.next)

/-! ## Regions and the scratchpad port (R181, R277, R281 to R284) -/

/-- The region entry that covers an offset of a team core (R282). -/
def regionAt (l : Launch) (idx off : Nat) : Option RegionEntry :=
  l.regions.find? fun r => r.valid && r.core == idx && r.soff ≤ off && off < r.soff + r.len

/-- The key of a granule of a team. -/
def granKey (idx off : Nat) : Nat := idx * 65536 + off / 256

/-- A granule at placement (R283). -/
def Granule.empty : Granule := { st := .empty, marks := 0, wb := 0, bytes := [], bad := 0, waits := [], by_ := none, fail := [], cause := none, queue := [], sent := none, failed := [] }

/-- The launch of a team. -/
def launchOfTeam (s : State) (t : Team) : Option Launch := launchOf s t.launch

/-- The global address of a granule (R282). -/
def granGlobal (t : Team) (r : RegionEntry) (off : Nat) : W64 :=
  r.gbase + w64 t.index * r.tstride + w64 (off / 256 * 256 - r.soff)

/-- The offsets of the granules that `[off, off + n)` touches. -/
def granOffsets (off n : Nat) : List Nat := (List.range ((off % 256 + n + 255) / 256)).map fun i => off / 256 * 256 + 256 * i

/-- A toucher still stands at the access that it waits to make. -/
def Toucher.waits (s : State) : Toucher → Bool
  | .engine cmd => s.cores.any fun e => e.2.copyQ.any (·.id == cmd) || e.2.quads.any fun q => q.queue.any (·.id == cmd)
  | .word u slot block idx => match crewOf s u with
    | none => false
    | some c => c.st == .running && c.trapping.isNone &&
        if slot == 64 then c.spc == idx && c.handler == (block == 1)
        else if slot == 65 then c.firing.any fun a => a.2.order == idx
        else (c.laneQ.head?.any (·.ord == block)) && (c.div.frag slot).any fun f => f.lpc == idx

/-- The toucher joins those that wait for a granule, at the end. -/
def joinQueue (q : List Toucher) (who : Toucher) : List Toucher := if q.contains who then q else q ++ [who]

/-- One access by `who` reaches a granule (R283): the team, and whether the access may go on. Those that waited for a fill go first, in order of arrival;
`live` tells which of them wait still. -/
def granTouch (live : Toucher → Bool) (l : Launch) (t : Team) (who : Toucher) (idx off : Nat) : Team × Bool :=
  match regionAt l idx off with
  | none => (t, true)
  | some r =>
    let k := granKey idx off
    let g := kgetD t.granules k Granule.empty
    let q := g.queue.filter live
    let wait (g : Granule) : Team × Bool := ({ t with granules := kset t.granules k { g with queue := joinQueue q who } }, false)
    match g.st with
    | .empty =>
      if r.fill then wait { g with st := .filling, cause := some who, sent := none }
      else ({ t with granules := kset t.granules k { g with st := .clean } }, true)
    | .filling => wait g
    | _ => if q.isEmpty || q.head? == some who then (t, true) else wait g

/-- An access touches several granules. -/
def granTouchAll (live : Toucher → Bool) (l : Launch) (t : Team) (who : Toucher) (idx : Nat) : List Nat → Team × Bool
  | [] => (t, true)
  | o :: os =>
    let (t, a) := granTouch live l t who idx o
    let (t, b) := granTouchAll live l t who idx os
    (t, a && b)

/-- An access goes on: its word waits for no granule any more. -/
def Team.passed (t : Team) (who : Toucher) : Team :=
  if t.granules.any fun g => g.2.queue.contains who then
    { t with granules := t.granules.map fun g => (g.1, { g.2 with queue := g.2.queue.filter (· != who) }) }
  else t

/-- The fill of a granule that `who` began has failed (R284): its cause and global address. -/
def fillFailed (t : Team) (who : Toucher) (idx off : Nat) : Option (Nat × W64) :=
  ((kgetD t.granules (granKey idx off) Granule.empty).failed.find? (·.1 == who)).map (·.2)

/-- `who` has met the failures of its fills. -/
def Team.forgive (t : Team) (who : Toucher) : Team :=
  { t with granules := t.granules.map fun g => (g.1, { g.2 with failed := g.2.failed.filter (·.1 != who) }) }

/-- The sectors that a write of `[off, off + n)` marks in a granule (R283). -/
def granMark (l : Launch) (t : Team) (idx off n : Nat) (o : Nat) : Team :=
  match regionAt l idx o with
  | none => t
  | some r =>
    if !r.wb then t
    else
      let k := granKey idx o
      let g := kgetD t.granules k Granule.empty
      let m := BitVec.ofNat 8 (bitsFn (fun i => overlaps (o + 32 * i) 32 off n) 8)
      { t with granules := kset t.granules k { g with marks := g.marks ||| m, st := if g.st == .clean then .dirty else g.st } }

/-- The core of a team is fenced, or was while the team ran (R287). -/
def coreLost (s : State) (t : Team) (idx : Nat) : Bool := (coreAt s t.die (t.coreOf idx)).fenced || t.lost.contains idx

/-- What an access to a region meets at its port (R283, R284). -/
inductive Touch where
  | go (s : State)
  | wait (s : State)
  | fail (s : State) (cause : Nat) (addr : W64)

/-- An access of `n` bytes by `who` reaches the port of a team core: it goes on, waits for a fill, or meets the failure of the fill that it began.
A fenced core fills nothing. -/
def touchRange (s : State) (tid : Nat) (who : Toucher) (idx off n : Nat) : Touch :=
  match teamOf s tid with
  | none => .go s
  | some t => match launchOfTeam s t with
    | none => .go s
    | some l =>
      if coreLost s t idx then .go s
      else match ((granOffsets off n).filterMap (fillFailed t who idx)).head? with
        | some (cause, a) => .fail (putTeam s tid (t.forgive who)) cause a
        | none =>
          let (t, free) := granTouchAll (Toucher.waits s) l t who idx (granOffsets off n)
          if free then .go (putTeam s tid (t.passed who)) else .wait (putTeam s tid t)

/-- The crew's accesses to the scratchpad that R84 orders before a scalar word have been performed (R277). -/
def Crew.scratchClear (c : Crew) : Bool :=
  c.storeQ.all fun e => match e.space with | .scratch _ => c.synced < e.block | _ => true

/-- The toucher of the scalar word at SPC. -/
def Crew.scalarTouch (c : Crew) : Toucher := .word c.uid 64 (flag c.handler) c.spc

/-- The first byte of a team's allocation on its core `idx`. -/
def Team.scratchBase (t : Team) (idx : Nat) : Nat := t.scratch0.getD idx 0

/-- Bytes of a team's scratchpad. -/
def scratchSize (l : Launch) : Nat := l.kernel.scratchG * 4096

/-- Reads `n` bytes at an offset of a team core: the bytes, and whether they carry an error or the core is fenced (R287). -/
def scratchRead (s : State) (t : Team) (idx off n : Nat) : List Byte × Bool :=
  let co := coreAt s t.die (t.coreOf idx)
  let a := t.scratchBase idx + off
  (cellsRead co.scratch a n, coreLost s t idx || (List.range n).any fun i => co.scrPoison.contains (a + i))

/-- The aligned 32-bit words that a range touches. -/
def wordsOf (pa n : Nat) : List Nat := (List.range ((pa % 4 + n + 3) / 4)).map fun i => pa / 4 * 4 + 4 * i

/-- Writes bytes at an offset of a team core, at its port (R277): sectors of a region are marked; bytes written lose their error, and what engines had
overwritten there is gone. -/
def scratchWrite (s : State) (tid idx off : Nat) (bs : List Byte) : State :=
  match teamOf s tid with
  | none => s
  | some t =>
    let a := t.scratchBase idx + off
    let s := modCore s t.die (t.coreOf idx) fun co =>
      { co with scratch := cellsWrite co.scratch a bs, scrPoison := co.scrPoison.filter fun p => p < a || a + bs.length ≤ p,
                old := co.old.filter fun o => !overlaps o.addr 4 a bs.length }
    match launchOfTeam s t with
    | none => s
    | some l => putTeam s tid ((granOffsets off bs.length).foldl (fun t o => granMark l t idx off bs.length o) t)

/-- A copy or a drain of crew `u` writes bytes at an offset of a team core (R187, R264): the words that stood there are kept for the crew's own reads until
it observes the completion. -/
def engineWrite (s : State) (u cmd tid idx off : Nat) (bs : List Byte) : State :=
  match teamOf s tid with
  | none => s
  | some t =>
    let co := coreAt s t.die (t.coreOf idx)
    let keep := (wordsOf (t.scratchBase idx + off) bs.length).map fun a =>
      ({ addr := a, bytes := cellsRead co.scratch a 4, crew := u, cmd := cmd, seen := [] } : OldWord)
    modCore (scratchWrite s tid idx off bs) t.die (t.coreOf idx) fun co => { co with old := keep ++ co.old }

/-- A lane of a load has not observed that an overwritten word is complete (R222, R223, R264). -/
def OldWord.readable (o : OldWord) (c : Crew) (p : PendingLoad) (lane : Nat) : Bool :=
  o.crew == c.uid && (p.scalar || !o.seen.any fun e => e.1 == p.block && e.2.getLsbD lane)

/-- For some words of a core, whether a lane of a load finds the bytes that an engine has overwritten: a free choice for each. A word once read as it stands
is not read as it stood. -/
def oldWords (s : State) (c : Crew) (p : PendingLoad) (lane core : Nat) : List Nat → State × KMap (List Byte)
  | [] => (s, [])
  | a :: as =>
    match (coreAt s c.die core).old.find? fun o => o.addr == a && o.readable c p lane with
    | none => oldWords s c p lane core as
    | some o =>
      let (s, n) := takeFree s
      if n % 2 == 1 then
        let r := oldWords s c p lane core as
        (r.1, (a, o.bytes) :: r.2)
      else oldWords (modCore s c.die core fun co => { co with old := co.old.filter fun x => !(x.addr == a && x.crew == c.uid) }) c p lane core as

/-- What a lane of a load reads at an offset of a team core: the port's bytes, or words as they stood before an engine overwrote them. -/
def scratchLoad (s : State) (c : Crew) (p : PendingLoad) (lane : Nat) (t : Team) (idx off n : Nat) : State × List Byte × Bool :=
  let a := t.scratchBase idx + off
  let (bs, bad) := scratchRead s t idx off n
  let (s, old) := oldWords s c p lane (t.coreOf idx) (wordsOf a n)
  (s, (indexed bs).map fun e => match kget old ((a + e.1) / 4 * 4) with | some w => w.getD ((a + e.1) % 4) 0 | none => e.2, bad)

/-- The pieces of a lane of a load, in turn. -/
def scratchLoads (s : State) (c : Crew) (p : PendingLoad) (lane : Nat) (t : Team) (idx : Nat) : List (Nat × Nat × Nat) → State × List Byte × Bool
  | [] => (s, [], false)
  | q :: qs =>
    let (s, bs, bad) := scratchLoad s c p lane t idx q.1 q.2.2
    let (s, rest, bads) := scratchLoads s c p lane t idx qs
    (s, bs ++ rest, bad || bads)

/-- A crew has observed the completion of its commands: all of it by WAITC, a block's lanes by LWAITC (R222, R223). A command that still runs is not
observed. -/
def observeOld (s : State) (u : Nat) (who : Option (Nat × W64)) : State :=
  match crewOf s u with
  | none => s
  | some c =>
    let open_ (cmd : Nat) : Bool := c.cc.toList.any fun k => k.batches.any fun b => b.pending.contains cmd
    let one (o : OldWord) : Option OldWord :=
      if o.crew != u || open_ o.cmd then some o
      else match who with
        | none => none
        | some e => some { o with seen := o.seen ++ [e] }
    if s.cores.any fun e => e.2.old.any fun o => o.crew == u then { s with cores := s.cores.map fun e => (e.1, { e.2 with old := e.2.old.filterMap one }) }
    else s

/-- Marks bytes of a team core as carrying an error (R220). -/
def scratchPoison (s : State) (t : Team) (idx off n : Nat) : State :=
  modCore s t.die (t.coreOf idx) fun co =>
    { co with scrPoison := dedup (co.scrPoison ++ (List.range n).map fun i => t.scratchBase idx + off + i) }

/-- The pieces of a lane's access: address, first byte and length (R183; log 81). -/
def LaneAcc.pieces (l : LaneAcc) (width : Nat) : List (Nat × Nat × Nat) :=
  match l.hi with
  | some h => [(l.pa, 0, 4), (h, 4, width - 4)]
  | none => [(l.pa, 0, width)]

/-! ## Performing an access at its home -/

/-- The bytes that a load of a crew reads from a global range (R201, R296, R318), and whether the home delivers them poisoned. -/
def loadBytes (s : State) (c : Crew) (stamp : Nat) (va pa n : Nat) : State × List Byte × Bool :=
  let fw := (List.range n).map fun i => forwardByte s c stamp (va + i) (pa + i)
  if fw.all Option.isSome then (s, fw.map fun b => b.getD 0, false)
  else
    let (s, bs, poison) := match earlyRead s c pa n with
      | some e => (s, (e.bytes.drop (pa - e.pa)).take n, e.bad)
      | none => readHome s c.view (crewDev s c) c.die pa n
    (s, (fw.zip bs).map fun e => e.1.getD e.2, poison)

/-- An atomic at its home (R135 to R137): the old value, and whether it was poisoned. One that returns a value is answered by a poison responder, which
journals only those that return none (R384). -/
def atomHome (s : State) (c : Crew) (returns : Bool) (pa width : Nat) (new : Nat → Option Nat) : State × Nat × Bool :=
  let (s, bs, poison) := readHome s c.view (crewDev s c) c.die pa width
  let old := leNat bs
  let s := forget s c.die c.core none (homedFar (crewDev s c) c.die pa) pa width
  let dead := match homeKey (crewDev s c) pa with | some k => responder s c.die k | none => false
  if returns && dead then (s, old, true)
  else match new old with
  | none => (s, old, poison)
  | some x => (writeHome s c.view (crewDev s c) c.die pa (leBytes width x), old, poison)

/-- The performing of one lane of a store-class entry at its home (R215, R296, R319). -/
def performLane (s : State) (c : Crew) (e : StoreEntry) (l : LaneAcc) : State :=
  let dev := crewDev s c
  match e.kind with
  | .plain =>
    let bs := leBytes e.width l.data.toNat
    let s := forget s c.die c.core none (homedFar (crewDev s c) c.die l.pa) l.pa e.width
    writeHome (signAccess s c.team l.va bs) c.view dev c.die l.pa bs
  | .vrdx =>
    let v := (fmtOf e.ty).decode l.data.toNat
    let v := if e.ty == .i32 then
        (let z := l.data.toNat % 2 ^ 32
         if z == 0 then .zero false
         else if 2 ^ 31 ≤ z then .num true (2 ^ 32 - z) 0 else .num false z 0)
      else v
    let n := (xaAddend v e.p).getD 0
    let s := signAccess s c.team l.va (leBytes 12 ((n.emod (2 ^ 96)).toNat))
    (atomHome s c false l.pa 16 fun old => some (xaAdd old v e.p)).1
  | .vred =>
    let s := signAccess s c.team l.va (leBytes 4 l.data.toNat)
    (atomHome s c false l.pa 4 fun old => some (redApply e.ty e.op e.rm false old l.data.toNat).1).1
  | .vatom =>
    let s := signAccess s c.team l.va (leBytes e.width l.data.toNat)
    (atomHome s c false l.pa e.width fun old => some (atomNew e.op (8 * e.width) old l.data.toNat)).1

/-- One lane of a scratchpad store at its owner's port (R277); a fenced owner discards it (R287). -/
def performScratch (s : State) (c : Crew) (e : StoreEntry) (idx : Nat) (l : LaneAcc) : State :=
  match teamOf s c.team with
  | none => s
  | some t =>
    if coreLost s t idx then journalTeam s c.team 6 3 c.die l.va.toNat
    else l.pieces e.width |>.foldl (fun s p => scratchWrite s c.team idx p.1 ((leBytes e.width l.data.toNat).drop p.2.1 |>.take p.2.2)) s

/-- One lane of a queued store is performed. -/
def performEntry (s : State) (c : Crew) (e : StoreEntry) (l : LaneAcc) : State :=
  match e.space with
  | .scratch idx => performScratch s c e idx l
  | _ => performLane s c e l

/-- Two lanes name common bytes. -/
def LaneAcc.meets (width : Nat) (a b : LaneAcc) : Bool :=
  (a.pieces width).any fun p => (b.pieces width).any fun q => overlaps p.1 p.2.2 q.1 q.2.2

/-- In a set of lanes to perform, no lower lane left out names the same bytes (R208). -/
def lanesInOrder (width : Nat) (ls : List LaneAcc) (m : W64) : Bool :=
  ls.all fun a => !m.getLsbD a.lane || ls.all fun b => m.getLsbD b.lane || a.lane ≤ b.lane || !a.meets width b

/-- In a set of lanes to perform, no lane left out names the same bytes: a load reads one value for them all (R208). -/
def lanesTogether (width : Nat) (ls : List LaneAcc) (m : W64) : Bool :=
  ls.all fun a => !m.getLsbD a.lane || ls.all fun b => m.getLsbD b.lane || !a.meets width b

/-- A load's value in its register, by its extension (R132, R146): one or two 32-bit elements for a lane. -/
def extendValue (ext : Extend) (width : Nat) (x : Nat) : W64 :=
  match ext with
  | .sign => signExt64 (8 * width) x
  | _ => w64 (x % 2 ^ (8 * width))

/-- Writes what a load returned into its destination (R132, R208). -/
def Crew.deliver (c : Crew) (p : PendingLoad) (lane : Nat) (x : W64) : Crew :=
  if p.scalar then c.ws (Fin.ofNat 64 p.reg) x
  else
    let m := w64 (2 ^ lane)
    let c := c.wv p.reg m (lanesFn fun _ => x.truncate 32)
    match p.ext with
    | .pair => c.wv (p.reg + 1) m (lanesFn fun _ => (x >>> 32).truncate 32)
    | _ => c

/-- The constant path reads one aligned 32-bit word (R133, R300): the newest value after a CFENCE, else a free choice between the value
last seen, the launch-time value at first, and the newest. -/
def constWord (s : State) (c : Crew) (fresh : Bool) (pa : Nat) : State × W32 × Bool :=
  let dev := crewDev s c
  let newest (s : State) : State × W32 × Bool :=
    let (s, bs, poison) := readHome s c.view dev c.die pa 4
    let bs := ((List.range 4).zip bs).map fun e =>
      ((queuedByte c s.nextStamp (pa + e.1)).or (portByte s c.view dev c.die c.core s.nextStamp (pa + e.1))).getD e.2
    (s, w32 (leNat bs), poison)
  if fresh then newest s
  else
    let (s, n) := takeFree s
    if n % 2 == 1 then newest s
    else
      let launch := match crewLaunch s c, homeKey dev pa with
        | some l, some k => w32 (cellsNat l.constMem k 4)
        | _, _ => 0
      (s, kgetD c.constRead pa launch, false)

/-- A constant read of some aligned words: each is chosen once, on its own, and remembered (R208, R210, R300). -/
def constWords (s : State) (u : Nat) (c : Crew) (fresh : Bool) : List Nat → State × KMap (W32 × Bool)
  | [] => (s, [])
  | a :: as =>
    let (s, v, bad) := constWord s c fresh a
    let (s, vs) := constWords (modCrew s u fun c => { c with constRead := kset c.constRead a v }) u c fresh as
    (s, kset vs a (v, bad))

/-- The `n` bytes at an address among words that were read, and whether one carried an error. -/
def constValue (vs : KMap (W32 × Bool)) (pa n : Nat) : Nat × Bool :=
  let ws := (wordsOf pa n).map fun a => kgetD vs a (0, false)
  (leNat (((ws.flatMap fun w => leBytes 4 w.1.toNat).drop (pa % 4)).take n), ws.any (·.2))

/-- One lane of a load or returning access is performed (R130, R135, R208, R213): the value for its register, and whether the datum
carried an error. -/
def performLoad (s : State) (u : Nat) (c : Crew) (p : PendingLoad) (l : LaneAcc) : State × W64 × Bool :=
  match p.space with
  | .scratch idx => match teamOf s c.team with
    | none => (s, 0, false)
    | some t =>
      let (s, bs, bad) := scratchLoads s c p l.lane t idx (l.pieces p.width)
      (s, extendValue p.ext p.width (leNat bs), bad)
  | .constant =>
    let (s, vs) := constWords s u c p.fresh (wordsOf l.pa p.width)
    let (x, bad) := constValue vs l.pa p.width
    (s, extendValue p.ext p.width x, bad)
  | .global => match p.atom with
    | some a => match l.took with
      | some v => (s, v)
      | none =>
      let w := 8 * p.width
      let s := signAccess s c.team l.va (leBytes p.width l.data.toNat)
      let new (old : Nat) : Option Nat :=
        if a.cas then (if old == l.expect.toNat % 2 ^ w then some (l.data.toNat % 2 ^ w) else none)
        else some (atomNew a.op w old l.data.toNat)
      let (s, old, bad) := atomHome s c true l.pa p.width new
      (s, if a.cas then w64 (old % 2 ^ w) else atomOld a.op w old, bad)
    | none =>
      let (s, bs, bad) := loadBytes s c p.stamp l.va.toNat l.pa p.width
      match p.ext with
      | .exact q => (s, w64 (xaRead (leNat bs) q).1, bad)
      | ext => (s, extendValue ext p.width (leNat bs), bad)

/-- The flags that a returned lane raises: those of an XA96 read (R53). -/
def loadFlags (s : State) (c : Crew) (p : PendingLoad) (l : LaneAcc) : Nat :=
  match p.ext with
  | .exact q => (xaRead (leNat (loadBytes s c p.stamp l.va.toNat l.pa p.width).2.1) q).2
  | _ => 0

/-- Nothing that must come before keeps a lane of a load from being performed (R84, R138, R201, R277, R381). -/
def loadReady (s : State) (c : Crew) (p : PendingLoad) (l : LaneAcc) : Bool :=
  match p.space with
  | .scratch _ => c.storeQ.all fun e => (match e.space with | .scratch _ => p.stamp ≤ e.stamp | _ => true)
  | .constant => true
  | .global => l.took.isSome || !tookAhead s c.die c.core (some c.uid) l.pa p.width && match p.atom with
    | none =>
      let far := homedFar (crewDev s c) c.die l.pa && !((List.range p.width).all fun i => (forwardByte s c p.stamp (l.va.toNat + i) (l.pa + i)).isSome)
      !storeAhead s (crewDev s c) c.die c.core far p.stamp l.pa p.width && !loadAhead s (crewDev s c) c.die c.core far p.stamp l.pa p.width
    | some a =>
      !storeAhead s (crewDev s c) c.die c.core true p.stamp l.pa p.width && !loadAhead s (crewDev s c) c.die c.core true p.stamp l.pa p.width && c.fencesClear p.scalar p.stamp p.block &&
        (!a.ord || (if p.scalar then released c c.synced p.stamp 1
                    else laneReleased c (match c.laneQ.head? with | some b => b.stamp | none => 0) p.stamp))

/-- A load of the core that stands before an entry taken at place `n` keeps it from being performed (R201, R381): the crew's own loads from after
the entry forward from it. -/
def loadHolds (s : State) (c : Crew) (e : StoreEntry) (n : Nat) (l : LaneAcc) : Bool :=
  let far := homedFar (crewDev s c) c.die l.pa
  (coreCrews s c.die c.core).any fun k => k.loads.any fun q =>
    q.stamp < n && q.space == .global && (far || k.uid != c.uid || q.stamp < e.stamp) && q.lanes.any fun m => kept far m.pa q.width l.pa e.width

/-- No load of a VSYNC set that completed before a lane access at place `stamp` of the issue order, with one of `m` in the set, is unperformed (R165). -/
def Crew.vsyncClear (c : Crew) (stamp : Nat) (m : Nat → Bool) : Bool :=
  c.loads.all fun p => p.scalar || p.vsync.all fun v => stamp < v.1 || (lanesOf v.2).all fun i => !m i

/-- Nothing that must come before keeps a queued store from being performed at its home (R165, R201, R235, R277, R295, R381). -/
def storeReady (s : State) (c : Crew) (e : StoreEntry) : Bool :=
  c.fencesClear e.scalar e.stamp e.block && (e.scalar || c.vsyncClear e.stamp fun i => e.lanes.any (·.lane == i)) && (e.kind != .vatom || e.rm == 0 || laneReleased c e.p e.stamp) &&
  match e.space with
  | .scratch _ =>
    c.storeQ.all (fun f => match f.space with | .scratch _ => e.stamp ≤ f.stamp | _ => true) &&
      c.loads.all (fun p => match p.space with | .scratch _ => e.stamp < p.stamp | _ => true)
  | _ =>
    let place := e.port.getD s.nextStamp
    e.lanes.all fun l => !storeAhead s (crewDev s c) c.die c.core true place l.pa e.width && !loadHolds s c e place l

/-- The key of R104 of a crew: team age and crew index. -/
def crewAge (s : State) (c : Crew) : Nat := (match teamOf s c.team with | some t => t.age | none => 0) * 256 + c.index

/-- The crew's next entry for the memory port: its place in the store queue. -/
def Crew.toPort (c : Crew) : Option Nat := ((indexed c.storeQ).find? fun e => e.2.port == none && e.2.space == .global).map (·.1)

/-- The memory port takes the next store of a crew, the oldest by R104 among those that have one, and one in a cycle (R201). -/
def acceptPort (s : State) (u : Nat) : Option State :=
  match crewOf s u with
  | none => none
  | some c =>
    let co := coreAt s c.die c.core
    let older := (coreCrews s c.die c.core).any fun k => k.uid != u && k.toPort.isSome && crewAge s k < crewAge s c
    match c.toPort with
    | none => none
    | some i =>
      let held := match c.storeQ[i]? with
        | some e => e.lanes.any fun l => tookAhead s c.die c.core (some u) l.pa e.width
        | none => false
      if older || held || co.cycles.toNat + 1 == co.port then none
      else
        let (s, stamp) := takeStamp s
        let s := modCore s c.die c.core fun co => { co with port := co.cycles.toNat + 1 }
        some (putCrew s u { c with storeQ := lmod c.storeQ i fun e => { e with port := some stamp } })

end Sys2Proof.Machine
end

