-- ==== Sys2Proof/Machine/Barriers.lean ====
section
/-!
DEFINITION. Barriers (R192 to R195, R226 to R229) and team barriers (R286).
-/

namespace Sys2Proof.Machine

/-- Where a barrier id leads (R192): the crew's own core, the leader core, or nowhere. -/
inductive BarPlace where
  | own | leader | bad
  deriving DecidableEq, Repr

/-- The place of a barrier id, all 64 bits of it. -/
def barPlace (l : Launch) (id : W64) : BarPlace :=
  if id.toNat < l.kernel.barriers then .own
  else if 1 < l.kernel.shape && 448 ≤ id.toNat && id.toNat ≤ 511 then .leader
  else .bad

/-- What a crew's release covers at this moment (R84, R138). -/
def markNow (s : State) (u : Nat) (c : Crew) : RelMark := { crew := u, stamp := s.nextStamp, synced := c.synced }

/-- Changes a barrier of a team core. -/
def Team.putBarrier (t : Team) (core id : Nat) (b : Barrier) : Team := { t with barriers := kset t.barriers (512 * core + id) b }

/-- One arrival (R193): the barrier, whether a phase completed. ABND: nothing changes (R195). -/
def Barrier.arrive (b : Barrier) (m : RelMark) : Barrier × Bool :=
  if b.abnd then (b, false)
  else if b.count + 1 == b.expected then ({ b with par := !b.par, count := 0, marks := [], past := b.past ++ b.marks ++ [m] }, true)
  else ({ b with count := b.count + 1, marks := b.marks ++ [m] }, false)

/-- The leader's core is fenced: its barriers answer abandoned (R287). -/
def leaderLost (s : State) (t : Team) : Bool := coreLost s t 0

/-- The barrier of a team as its port shows it. -/
def barrierAt (s : State) (t : Team) (core id : Nat) : Barrier :=
  let b := t.barrier core id
  if core == 0 && leaderLost s t && 448 ≤ id then { b with abnd := true } else b

/-- An arrival with EXPECTED = 0 raises BARRIER, detail 1 (R193, R229). -/
def Barrier.refuses (b : Barrier) : Bool := !b.abnd && b.expected == 0

/-- A completion at the leader is sent to every other core of the team (R286). -/
def Team.sendCompletion (t : Team) (id : Nat) (par : Bool) : Team :=
  let add (m : KMap (List Bool)) (i : Nat) : KMap (List Bool) := kset m (512 * i + id) (kgetD m (512 * i + id) [] ++ [par])
  { t with barSent := ((List.range t.cores.length).filter (0 < ·)).foldl add t.barSent }

/-- One arrival at a barrier of the team: the new team. Team barriers send a completed phase out. -/
def Team.arriveAt (s : State) (t : Team) (core id : Nat) (m : RelMark) : Team :=
  let r := (barrierAt s t core id).arrive m
  let t := t.putBarrier core id r.1
  if r.2 && core == 0 && 448 ≤ id && 1 < t.cores.length then t.sendCompletion id r.1.par else t

/-- The parity that a crew's core knows of a barrier (R286): its own, the leader's, or the last that has reached its core. -/
def parityAt (s : State) (t : Team) (place : BarPlace) (core id : Nat) : Bool :=
  match place with
  | .leader => if core == 0 then (barrierAt s t 0 id).par else kgetD t.barSeen (512 * core + id) true
  | _ => (barrierAt s t core id).par

/-- The team core that hosts the barrier. -/
def hostCore (place : BarPlace) (core : Nat) : Nat := match place with | .leader => 0 | _ => core

/-- The status of a wait for parity `p` (R193 to R195), or none while it waits: the phase is complete and what its arrivals release
is performed at team scope. -/
def waitStatus (s : State) (t : Team) (place : BarPlace) (core id : Nat) (p : Bool) : Option W64 :=
  let b := barrierAt s t (hostCore place core) id
  if b.abnd then some 1
  else if parityAt s t place core id == p && b.past.all (markReleased s 1) then some 0
  else none

/-- A request travels to the leader's port (R286). -/
def sendBar (s : State) (u : Nat) (c : Crew) (id : Nat) (op : BarOp) : State × Nat :=
  let word := match s.cur with | some k => k.word | none => 0
  let q : BarReq := { tag := s.nextTag, crew := u, core := c.coreIdx, id := id, op := op, mark := markNow s u c, word := word, spc := c.spc }
  (modTeam { s with nextTag := s.nextTag + 1 } c.team fun t => { t with barReqs := t.barReqs ++ [q] }, s.nextTag)

/-- BARRIER with an id outside the ranges of R192. -/
def badBarrier (s : State) (u : Nat) (id : W64) : Result := raiseScalar s u 0x0E 0 (id.toNat % 2 ^ 32) 0

/-- An arrival of the present word (R227): `k` goes on with the parity of the arrival's phase. The arrival of a crew on another core
than the leader is sent there, with `waits` for BARAW. None is made before an acquiring atomic of the crew (R138). -/
def arriveWord (s : State) (u : Nat) (c : Crew) (d : SReg) (id : W64) (waits : Bool) (k : State → Bool → Result) : Result :=
  match teamOf s c.team, crewLaunch s c with
  | some t, some l =>
    let place := barPlace l id
    let n := id.toNat
    match place with
    | .bad => badBarrier s u id
    | _ =>
      let b := barrierAt s t (hostCore place c.coreIdx) n
      if c.acquiring then stall s
      else if place == .leader && c.coreIdx != 0 && !leaderLost s t then
        let (s, tag) := sendBar s u c n .arrive
        let c := { c with reply := c.reply ++ [{ reg := d, id := n, tag := tag, par := none, waits := waits }] }
        .next (putCrew s u (if waits then c else c.next))
      else if b.refuses then raiseScalar s u 0x0E 1 (n % 2 ^ 32) 0
      else k (putTeam s c.team (t.arriveAt s (hostCore place c.coreIdx) n (markNow s u c))) (!b.par)
  | _, _ => .fault .noStream

/-- A barrier id of the present word: s[a] + sext(imm13) (R226). -/
def barId (c : Crew) (a : SReg) (i : Imm13) : W64 := c.rs a + i.signExtend 64

/-- `k` runs when the id names a barrier of the team (R229, detail 0). -/
def withBarrier (s : State) (u : Nat) (c : Crew) (id : W64) (k : Team → BarPlace → Result) : Result :=
  match teamOf s c.team, crewLaunch s c with
  | some t, some l => match barPlace l id with
    | .bad => badBarrier s u id
    | place => k t place
  | _, _ => .fault .noStream

/-- BARA (R227). -/
def execBara (d a : SReg) (i : Imm13) (s : State) : Result :=
  withScalar s [d, a] fun u c =>
    let id := barId c a i
    withBarrier s u c id fun _ _ => arriveWord s u c d id false fun s p => .next (putCrew s u (c.ws d (flag64 p)).next)

/-- The wait of BARW and BARAW for parity `p`; it acquires (R194), and comes after an acquiring atomic of the crew (R138). -/
def barWait (s : State) (u : Nat) (c : Crew) (d : SReg) (id : W64) (p : Bool) (place : BarPlace) : Result :=
  match teamOf s c.team with
  | none => .fault .noStream
  | some t =>
    if c.acquiring then stall s
    else match waitStatus s t place c.coreIdx id.toNat p with
      | some st => .next (putCrew (acquire s u) u (c.observed.ws d st).next)
      | none => stall s

/-- BARW (R228). -/
def execBarw (d a : SReg) (i : Imm13) (s : State) : Result :=
  withScalar s [d, a] fun u c =>
    let id := barId c a i
    withBarrier s u c id fun _ place => barWait s u c d id ((c.rs d).getLsbD 0) place

/-- BARAW (R228): it arrives once, then waits for the parity of its own arrival. -/
def execBaraw (d a : SReg) (i : Imm13) (s : State) : Result :=
  onScalar s fun u c =>
    match c.await with
    | .phase p =>
      let id := barId c a i
      withBarrier s u c id fun _ place => barWait s u c d id p place
    | _ => if c.reply.any (·.waits) || !c.free [d, a] then stall s else execWait u c
where
  /-- The arrival; a phase that is complete by then ends the wait at once. -/
  execWait (u : Nat) (c : Crew) : Result :=
    let id := barId c a i
    withBarrier s u c id fun _ place => arriveWord s u c d id true fun s p =>
      match teamOf s c.team with
      | none => .fault .noStream
      | some t => match waitStatus s t place c.coreIdx id.toNat p with
        | some st => .next (putCrew (acquire s u) u (c.observed.ws d st).next)
        | none => .next (putCrew s u { c with await := .phase p })

/-- Sets a barrier (R193, R229): PAR keeps its value. -/
def Barrier.setUp (b : Barrier) (expected : Nat) : Barrier := { b with expected := expected, count := 0, abnd := false, marks := [] }

/-- BARINIT (R229). DESIGN CHOICE (log 78): R287 speaks of later arrivals and waits only; a BARINIT of a team barrier from another core, with the leader's core
fenced, is dropped and the crew goes on. -/
def execBarinit (a b : SReg) (s : State) : Result :=
  withScalar s [a, b] fun u c =>
    let id := c.rs a
    let e := (c.rs b).toNat
    withBarrier s u c id fun t place =>
      if c.acquiring then stall s
      else if e == 0 || 65535 < e then raiseScalar s u 0x0E 2 (id.toNat % 2 ^ 32) 0
      else if place == .leader && c.coreIdx != 0 then
        if leaderLost s t then .next (putCrew s u c.next)
        else .next (putCrew (sendBar s u c id.toNat (.init e)).1 u c.next)
      else
        let core := hostCore place c.coreIdx
        .next (putCrew (putTeam s c.team (t.putBarrier core id.toNat ((t.barrier core id.toNat).setUp e))) u c.next)

/-! ## The leader's port (R286) -/

/-- The reply to a request reaches its record in the crew, or in what a trap has frozen. -/
def Crew.answerBar (c : Crew) (tag : Nat) (p : Bool) : Crew :=
  let set (r : List BarReply) : List BarReply := r.map fun b => if b.tag == tag then { b with par := some p } else b
  { c with reply := set c.reply, frozen := c.frozen.map fun f => { f with reply := set f.reply } }

/-- A crew's request that found EXPECTED = 0 (R229, detail 1; log 25): its reply is dropped and the crew takes the trap of that word. -/
def refuseBar (s : State) (q : BarReq) : State :=
  let s := modCrew s q.crew fun c => { c with reply := c.reply.filter (·.tag != q.tag) }
  raise s q.crew { scalarTrap q.word 0x0E 1 (q.id % 2 ^ 32) 0 none with at_ := some q.spc }

/-- A trap of the crew waits to be taken: one that the port would raise waits as well (R191, R229). -/
def trapWaits (s : State) (u : Nat) : Bool := match crewOf s u with | some c => c.trapping.isSome | none => false

/-- TEAM_BARRIER_REQUEST (R286): the leader's port applies one request; those of one crew in their order. -/
def execTeamBarrierRequest (team n : Nat) (s : State) : Result :=
  match teamOf s team with
  | none => stall s
  | some t => match t.barReqs[n]? with
    | none => stall s
    | some q =>
      let b := barrierAt s t 0 q.id
      let arrives := match q.op with | .init _ => false | _ => true
      if (t.barReqs.take n).any (·.crew == q.crew) || (arrives && b.refuses && trapWaits s q.crew) then stall s
      else
        let t := { t with barReqs := ldel t.barReqs n }
        match q.op with
        | .init e => .next (putTeam s team (t.putBarrier 0 q.id ((t.barrier 0 q.id).setUp e)))
        | .armed => .next (if b.refuses then raise (putTeam s team t) q.crew (wordlessTrap true 0x0E 0x10 (q.id % 2 ^ 32) 0)
                           else putTeam s team (t.arriveAt s 0 q.id q.mark))
        | .arrive =>
          if b.refuses then .next (refuseBar (putTeam s team t) q)
          else .next (modCrew (putTeam s team (t.arriveAt s 0 q.id q.mark)) q.crew fun c => c.answerBar q.tag (!b.par))

/-- TEAM_BARRIER_COMPLETION (R286): the oldest completion on its way reaches a core of the team. -/
def execTeamBarrierCompletion (team core id : Nat) (s : State) : Result :=
  match teamOf s team with
  | none => stall s
  | some t => match kgetD t.barSent (512 * core + id) [] with
    | [] => stall s
    | p :: ps => .next (putTeam s team { t with barSeen := kset t.barSeen (512 * core + id) p, barSent := kset t.barSent (512 * core + id) ps })

/-- TEAM_BARRIER_REPLY (R286): the oldest reply that the leader has given returns. BARA's register takes the parity; BARAW goes on waiting for it. -/
def execTeamBarrierReply (crew : Nat) (s : State) : Result :=
  match crewOf s crew with
  | none => stall s
  | some c => match c.reply.find? (·.par.isSome) with
    | none => stall s
    | some b =>
      let p := b.par.getD false
      let rest := c.reply.filter (·.tag != b.tag)
      if b.waits then .next (putCrew s crew { c with reply := rest, await := .phase p })
      else .next (settleTrap (putCrew s crew { c.ws b.reg (flag64 p) with reply := rest }) crew)

end Sys2Proof.Machine
end

