-- ==== Sys2Proof/Machine/Regions.lean ====
section
/-!
DEFINITION. Region fills and write-backs (R281 to R285), and draining the atomic buffers (R199, R200).
-/

namespace Sys2Proof.Machine

/-- The team core index of a granule key. -/
def granCore (k : Nat) : Nat := k / 65536
/-- The offset of a granule key. -/
def granOff (k : Nat) : Nat := k % 65536 * 256

/-- Changes a granule of a team. -/
def Team.modGran (t : Team) (k : Nat) (f : Granule → Granule) : Team :=
  { t with granules := kset t.granules k (f (kgetD t.granules k Granule.empty)) }

/-- What the map unit's access to global memory meets (R282, R284). -/
inductive MapOutcome where
  | ok (pa : Nat)
  | wait
  | fail (cause : Nat)
  deriving DecidableEq, Repr

/-- A record for a page that an engine's access misses (R320, R321). The slot and the word of an access that no crew's word makes are
left open, within their fields (log 10). -/
def engineRecord (s : State) (vp kind access core die : Nat) : State × FaultRec :=
  let (s, slot) := takeFree s
  let (s, word) := takeFree s
  (s, { vp := vp, kind := kind, access := access, lowLane := 0xFF, core := core, slot := slot % 48, die := die, word := word % 2 ^ 22 + 2 ^ 31 * (word / 2 ^ 22 % 2) })

/-- The map unit translates a granule's address (R282, R284): an absent page gets a record and is waited for. -/
def mapGranule (s : State) (t : Team) (l : Launch) (k : Nat) (g : W64) (acc : Acc) (access : Nat) : State × MapOutcome :=
  let core := t.coreOf (granCore k)
  let gr := kgetD t.granules k Granule.empty
  let vp := g.toNat / 4096
  if refused gr.waits vp then (s, .fail 0x0B)
  else match checkLane s t.die core l.dev.val l.ctx g 1 acc false with
  | (s, .ok pa) => (s, .ok pa)
  | (s, .fail _ cause detail) =>
    if detail == 6 || detail == 7 then
      let (s, r) := engineRecord s vp (if detail == 6 then 2 else 3) access core t.die
      match writeRecords s l.ctx [r] with
      | some s => (s, .fail cause)
      | none => (s, .wait)
    else (s, .fail cause)
  | (s, .absent) =>
    if waiting gr.waits vp then (s, .wait)
    else
      let (s, r) := engineRecord s vp 0 access core t.die
      match writeRecords s l.ctx [r] with
      | none => (s, .wait)
      | some s =>
        (modTeam s t.uid fun t => t.modGran k fun g => { g with waits := g.waits.filter (·.vp != vp) ++ [{ vp := vp, answer := none }] }, .wait)

/-- The sectors of a granule as a fill reads them (R283): bytes, and which sectors carried an error. -/
def fillSectors (s : State) (t : Team) (l : Launch) (core pa : Nat) : List Nat → State × List Byte × List Nat
  | [] => (s, [], [])
  | i :: is =>
    let (s, bs, bad) := coreRead s (some t.uid) l.dev.val t.die core (pa + 32 * i) 32
    let (s, rest, bads) := fillSectors s t l core pa is
    (s, bs ++ rest, if bad then i :: bads else bads)

/-- A fill reads the granule's bytes as plain loads of its core (R283): they are written as they are; a poisoned sector stays poisoned. -/
def fillGranule (s : State) (t : Team) (l : Launch) (k pa : Nat) : State :=
  let idx := granCore k
  let a := t.scratchBase idx + granOff k
  let (s, bs, bad) := fillSectors s t l (t.coreOf idx) pa (List.range 8)
  let s := modCore s t.die (t.coreOf idx) fun co =>
    { co with scratch := cellsWrite co.scratch a bs, scrPoison := co.scrPoison.filter fun p => p < a || a + 256 ≤ p }
  let s := bad.foldl (fun s i => scratchPoison s t idx (granOff k + 32 * i) 32) s
  modTeam s t.uid fun t => t.modGran k fun g => { g with st := .clean, waits := [], cause := none }

/-- A fill whose reads are answered poisoned (R361, R382). -/
def poisonFill (s : State) (t : Team) (k : Nat) : State :=
  let s := modTeam s t.uid fun t => t.modGran k fun g => { g with st := .clean, waits := [], cause := none }
  scratchPoison s t (granCore k) (granOff k) 256

/-- A fill that cannot be made (R284): a word's leaves the granule EMPTY, an engine's CLEAN; the failure waits for its cause. -/
def Granule.fillFails (g : Granule) (cause : Nat) (va : W64) : Granule :=
  let st := match g.cause with | some (.engine _) => GranSt.clean | _ => .empty
  { g with st := st, waits := [], cause := none,
           failed := match g.cause with | some w => g.failed.filter (·.1 != w) ++ [(w, cause, va)] | none => g.failed }

/-- GRANULE_FILL_COMPLETE (R283, R284). -/
def execGranuleFillComplete (team core granule : Nat) (s : State) : Result :=
  match teamOf s team with
  | none => stall s
  | some t => match launchOfTeam s t with
    | none => stall s
    | some l =>
      let k := granKey core (256 * granule)
      let g := kgetD t.granules k Granule.empty
      match g.st, regionAt l core (256 * granule) with
      | .filling, some r =>
        let va := granGlobal t r (256 * granule)
        match mapGranule s t l k va .load 0x21 with
        | (s, .wait) => stall s
        | (s, .ok pa) =>
          if engineWaits s l.dev.val t.die (t.coreOf core) false pa 256 || (homedFar l.dev.val t.die pa && overdue s g.sent) then stall s
          else .next (fillGranule s t l k pa)
        | (s, .fail cause) => .next (modTeam s team fun t => t.modGran k fun g => g.fillFails cause va)
      | _, _ => stall s

/-- A write-back trigger at a DIRTY granule (R283): its marked sectors are taken as they stand at the port. `by_` is the crew whose RFLUSH or FENCE
triggers it. -/
def triggerGranule (s : State) (team : Nat) (by_ : Option Nat) (k : Nat) : State :=
  match teamOf s team with
  | none => s
  | some t =>
    let g := kgetD t.granules k Granule.empty
    if g.st != .dirty then s
    else
      let (bs, _) := scratchRead s t (granCore k) (granOff k) 256
      let bad := BitVec.ofNat 8 (bitsFn (fun i => (scratchRead s t (granCore k) (granOff k + 32 * i) 32).2) 8)
      putTeam s team (t.modGran k fun g => { g with st := .writing, wb := g.marks, marks := 0, bytes := bs, bad := bad, waits := [], by_ := by_, sent := none })

/-- One sector of a write-back is performed at its home (R283, R370). -/
def writeSector (s : State) (t : Team) (l : Launch) (g : Granule) (va : W64) (pa i : Nat) : State :=
  let bs := (g.bytes.drop (32 * i)).take 32
  let s := writeHome (signAccess s t.uid (va + w64 (32 * i)) bs) (some t.uid) l.dev.val t.die (pa + 32 * i) bs
  if g.bad.getLsbD i then poisonSectors s (some t.uid) (sectorsOf l.dev.val (pa + 32 * i) 32) else s

/-- The marked sectors of a write-back. -/
def wbSectors (g : Granule) : List Nat := (List.range 8).filter fun i => g.wb.getLsbD i

/-- A granule whose write-back has ended (R283); a failure belongs to the crew that triggered it (R284). -/
def Granule.written (g : Granule) (fail : Option (Nat × W64)) : Granule :=
  let new := match fail, g.by_ with | some f, some u => [(u, f.1, f.2)] | _, _ => []
  { g with st := if g.marks == 0 then .clean else .dirty, wb := 0, bytes := [], bad := 0, waits := [], by_ := none, fail := g.fail ++ new }

/-- A write-back whose sectors are acknowledged and discarded (R361, R382): journalled with `code`, at virtual address `va` for code 3 and physical
address for the others. -/
def dropWriteBack (s : State) (t : Team) (k : Nat) (g : Granule) (code at_ : Nat) : State :=
  let s := (wbSectors g).foldl (fun s i => journalTeam s t.uid 6 code t.die (at_ + 32 * i)) s
  modTeam s t.uid fun t => t.modGran k fun g => g.written none

/-- GRANULE_WRITE_BACK_DONE (R283, R284): a write-back that cannot be made is discarded and journalled; at the team's end the team
has failed. DESIGN CHOICE (log 86): the failure's address, which TADDR may show, is the granule's base. -/
def execGranuleWriteBackDone (team core granule : Nat) (s : State) : Result :=
  match teamOf s team with
  | none => stall s
  | some t => match launchOfTeam s t with
    | none => stall s
    | some l =>
      let k := granKey core (256 * granule)
      let g := kgetD t.granules k Granule.empty
      match g.st, regionAt l core (256 * granule) with
      | .writing, some r =>
        let va := granGlobal t r (256 * granule)
        match mapGranule s t l k va .store 0x22 with
        | (s, .wait) => stall s
        | (s, .ok pa) =>
          if engineWaits s l.dev.val t.die (t.coreOf core) true pa 256 || (homedFar l.dev.val t.die pa && overdue s g.sent) then stall s else
          let s := (wbSectors g).foldl (fun s i => writeSector s t l g va pa i) s
          .next (modTeam s team fun t => t.modGran k fun g => g.written none)
        | (s, .fail cause) =>
          let s := (wbSectors g).foldl (fun s i => journalTeam s team 6 2 t.die (va + w64 (32 * i)).toNat) s
          let (s, slot) := takeFree s
          .next (modTeam s team fun t =>
            let t := t.modGran k fun g => g.written (some (cause, va))
            if t.st == .ended then t.fail s.reftime 3 (t.coreOf core) (slot % 48) else t)
      | _, _ => stall s

/-- The granules of a team that a trigger acts on: dirty ones, and those being written, for which it waits. -/
def dirtyGranules (t : Team) : List Nat := (t.granules.filter fun g => g.2.st == .dirty || g.2.st == .writing).map (·.1)

/-- One attempt to go on with a write-back of several granules (R283) by crew `u`: those still to trigger, and those being written. -/
def flushGranules (s : State) (team u : Nat) (todo writing : List Nat) : State × List Nat × List Nat :=
  let st (s : State) (k : Nat) : GranSt := match teamOf s team with | some t => (kgetD t.granules k Granule.empty).st | none => .empty
  let writing := writing.filter fun k => st s k == .writing
  let later := todo.filter fun k => st s k == .writing
  let now := todo.filter fun k => st s k == .dirty
  let s := now.foldl (fun s k => triggerGranule s team (some u) k) s
  (s, later, writing ++ now)

/-- The failures of the write-backs that crew `u` has triggered (R284): cause and lowest address, and the team without them. -/
def takeFails (t : Team) (u : Nat) : Team × Option (Nat × W64) :=
  let fails := (t.granules.flatMap fun g => g.2.fail).filter (·.1 == u)
  let low := (sortBy (fun f => f.2.2.toNat) fails).head?
  if fails.isEmpty then (t, none)
  else ({ t with granules := t.granules.map fun g => (g.1, { g.2 with fail := g.2.fail.filter (·.1 != u) }) }, low.map (·.2))

/-! ## Atomic buffers (R199, R200) -/

/-- The entries of all four buffers of a core, in drain order: team age, crew index, address. -/
def drainOrder (s : State) (es : List BufEntry) : List BufEntry :=
  let age (e : BufEntry) : Nat := match crewOf s e.crew with
    | some c => (match teamOf s c.team with | some t => t.age | none => 0) * 256 + c.index
    | none => 0
  sortBy (fun e => age e * 2 ^ 64 + e.va.toNat) es

/-- One entry is performed at its home as one indivisible update (R200, R215). -/
def drainEntry (s : State) (e : BufEntry) : State :=
  match crewOf s e.crew with
  | none => s
  | some c => (atomHome s c false e.pa 4 fun old => some (redApply e.ty e.op e.rm false old e.value.toNat).1).1

/-- Entries may drain: no access to their bytes stands before them at the core's port, and no release of an earlier FENCE of their crews is
open (R201, R235); one that has timed out drains no more (R382). -/
def drainReady (s : State) (die core : Nat) (es : List BufEntry) : Bool :=
  es.all fun e => match crewOf s e.crew with
    | none => true
    | some c => !engineWaits s (crewDev s c) die core true e.pa 4 && c.openFences.isEmpty && !(homedFar (crewDev s c) die e.pa && overdue s e.sent) &&
        c.storeQ.all fun q => q.port.isSome || !q.meets e.pa 4

/-- Drains some of a core's buffers (R200), or nothing yet. -/
def drainBuffers (s : State) (die core : Nat) (which : Nat → Bool) : Option State :=
  let co := coreAt s die core
  let es := (indexed co.bufs.toList).flatMap fun b => if which b.1 then b.2 else []
  if !drainReady s die core es then none
  else
    let s := (drainOrder s es).foldl drainEntry s
    some (modCore s die core fun co => { co with bufs := Vector.ofFn fun i => if which i.val then [] else co.bufs[i] })

end Sys2Proof.Machine
end

