-- ==== Sys2Proof/Machine/Copies.lean ====
section
/-!
DEFINITION. The copy engine (R186 to R188, R216 to R220, R279): reading and checking a descriptor, accepting a copy, its elements, and
completion of commands in their batches (R189).
-/

namespace Sys2Proof.Machine

/-! ## Batches (R189) -/

/-- A command joins the open batch of a counter, or opens one. -/
def Counter.join (k : Counter) (id : Nat) : Counter :=
  match k.batches.getLast? with
  | some b =>
    if b.closed then { k with batches := k.batches ++ [{ pending := [id], closed := false, failure := none }] }
    else { k with batches := k.batches.dropLast ++ [{ b with pending := b.pending ++ [id] }] }
  | none => { k with batches := [{ pending := [id], closed := false, failure := none }] }

/-- BATCH: the open batch, or an empty one, is closed (R189). -/
def Counter.close (k : Counter) : Counter :=
  let bs := match k.batches.getLast? with
    | some b => if b.closed then k.batches ++ [{ pending := [], closed := true, failure := none }]
                else k.batches.dropLast ++ [{ b with closed := true }]
    | none => [{ pending := [], closed := true, failure := none }]
  { k with batches := bs, issued := k.issued + 1 }

/-- The earlier of two failures of a batch: that of the earlier command (R220). -/
def firstFailure (a b : Option Failure) : Option Failure :=
  match a, b with
  | some x, some y => if y.cmd < x.cmd then some y else some x
  | none, y => y
  | x, none => x

/-- A command completes, with its failure if it has one. -/
def Counter.finish (k : Counter) (id : Nat) (f : Option Failure) : Counter :=
  { k with batches := k.batches.map fun b => if b.pending.contains id then { b with pending := b.pending.filter (· != id), failure := firstFailure b.failure f } else b }

/-- Changes a counter of a crew. -/
def Crew.modCC (c : Crew) (n : Nat) (f : Counter → Counter) : Crew := { c with cc := vmod c.cc n f }

/-- A crew's command completes in whichever counter holds it. -/
def finishCommand (s : State) (crew id : Nat) (f : Option Failure) : State :=
  modCrew s crew fun c => { c with cc := c.cc.map fun k => k.finish id f }

/-- The next command number. -/
def takeCmd (s : State) : State × Nat := ({ s with nextCmd := s.nextCmd + 1 }, s.nextCmd)

/-! ## Descriptors (R217, R219) -/

/-- The descriptor in 64 bytes. -/
def copyDesc (bs : List Byte) : CopyDesc :=
  { gaddr := w64 (leAt bs 0 8), soff := leAt bs 8 4, trow := leAt bs 12 2, tcol := leAt bs 14 1, dir := leAt bs 15 1 % 2 == 1,
    tdst := leAt bs 15 1 / 2 % 2 == 1, esz := 2 ^ (leAt bs 15 1 / 4 % 4), cols := leAt bs 16 4, rows := leAt bs 20 4,
    gstride := w64 (leAt bs 24 8), sstride := leAt bs 32 4, bcols := leAt bs 36 4, brows := leAt bs 40 4,
    cc := leAt bs 44 1, cmask := leAt bs 45 1 }

/-- A copy of kind 0 CPY, 1 CPYM, 2 CPYT uses the scratchpad (R218). -/
def usesScratch (kind : Nat) (d : CopyDesc) : Bool := kind != 1 || !d.tdst
/-- A copy uses the tile store (R218). -/
def usesTile (kind : Nat) (d : CopyDesc) : Bool := kind == 2 || (kind == 1 && d.tdst)

/-- The fields and reserved bytes obey their limits (R217, R218); RESFIELD otherwise. -/
def descFieldsOk (kind shape : Nat) (bs : List Byte) (d : CopyDesc) : Bool :=
  leAt bs 15 1 / 16 == 0 && leAt bs 46 18 == 0 && d.cc < 8 && d.cmask < 16 &&
    1 ≤ d.cols && d.cols ≤ 2 ^ 24 && 1 ≤ d.rows && d.rows ≤ 2 ^ 24 && d.bcols ≤ 2 ^ 24 && d.brows ≤ 2 ^ 24 &&
    bitsOf d.gaddr 63 56 == 0 && (kind != 2 || d.gaddr == 0) && (usesTile kind d || d.trow == 0) &&
    (kind != 1 || !d.dir) && (kind == 1 || !d.tdst) &&
    (if kind == 1 then d.cmask != 0 && d.cmask < 2 ^ shape else d.cmask == 0)

/-- Alignment to the element size (R219). -/
def descAligned (d : CopyDesc) : Bool :=
  d.gaddr.toNat % d.esz == 0 && d.soff % d.esz == 0 && d.tcol % d.esz == 0 && d.gstride.toNat % d.esz == 0 && d.sstride % d.esz == 0

/-- The first byte after `rows` rows of `cols` elements that begin at SOFF. -/
def CopyDesc.scratchEnd (d : CopyDesc) (rows cols : Nat) : Nat :=
  if rows == 0 || cols == 0 then 0 else d.soff + (rows - 1) * d.sstride + cols * d.esz

/-- The scratchpad elements of a copy are read: an element out of bounds is then not addressed (R188, R218). -/
def scratchIsSource (kind : Nat) (d : CopyDesc) : Bool := if kind == 2 then !d.dir else kind == 0 && d.dir
/-- The tile-store elements of a copy are read. -/
def tileIsSource (kind : Nat) (d : CopyDesc) : Bool := kind == 2 && d.dir

/-- SOFF and TROW lie inside the team's allocation, and so does every addressed scratchpad or tile-store element (R219). -/
def descInside (kind scratch rows : Nat) (d : CopyDesc) : Bool :=
  let r := Nat.min d.rows d.brows
  let c := Nat.min d.cols d.bcols
  d.soff < scratch &&
    (!usesScratch kind d || (if scratchIsSource kind d then d.scratchEnd r c else d.scratchEnd d.rows d.cols) ≤ scratch) &&
    (!usesTile kind d || (d.trow < rows && (if tileIsSource kind d then (if c == 0 then 0 else r) else d.rows) + d.trow ≤ rows))

/-- A tile row has room for the elements (R217). -/
def descRowOk (kind : Nat) (d : CopyDesc) : Bool := !usesTile kind d || d.tcol + d.cols * d.esz ≤ 256

/-- The rows of a team's tile store on each core. -/
def tileRows (l : Launch) : Nat := l.kernel.tileG * 64

/-- The checks of R219 in order: the cause and detail, and whether TADDR holds the descriptor's offset. -/
def descCheck (kind off scratch rows shape : Nat) (bs : List Byte) : Option (Nat × Nat) :=
  let d := copyDesc bs
  if off % 64 != 0 then some (0x0A, 0)
  else if scratch < off + 64 then some (0x0C, 1)
  else if !descFieldsOk kind shape bs d then some (0x02, 0)
  else if !descAligned d then some (0x0A, 0)
  else if !descInside kind scratch rows d then some (0x0C, 1)
  else if !descRowOk kind d then some (0x02, 0)
  else none

/-! ## Acceptance (R186, R216) -/

/-- What the engine does with a copy word or an armed copy. -/
inductive Accepted where
  /-- It waits: for room, for stores to the descriptor, or for a granule of its region. -/
  | wait (s : State)
  /-- The cause and detail of the trap, TADDR. -/
  | trap (s : State) (cause detail : Nat) (addr : W64)
  /-- The descriptor carries an uncorrectable error (R202). -/
  | poisoned (s : State) (addr : Nat)
  | ok (s : State)

/-- The accesses of a crew that R84 orders before an engine command have been performed: scalar ones before place `scalarTo` of the issue order, lane ones
before `stamp`, and those of blocks up to `blockTo` (R187, R216). A constant read is in no order (R300). -/
def accessesDone (c : Crew) (stamp scalarTo blockTo : Nat) : Bool :=
  let before (scalar : Bool) (stmp block : Nat) : Bool := if scalar then stmp < scalarTo else stmp < stamp || block ≤ blockTo
  (c.storeQ ++ c.sideLog).all (fun e => !before e.scalar e.stamp e.block) &&
    c.loads.all fun e => e.space == .constant || !before e.scalar e.stamp e.block

/-- What reading a 64-byte descriptor meets (R216, R408). -/
inductive DescRead where
  | wait (s : State)
  | trap (s : State) (cause detail : Nat) (addr : W64)
  | ok (s : State) (bs : List Byte) (bad : Bool)

/-- An engine reads a descriptor in the crew's scratchpad for `who`; a granule of a region is filled first. -/
def readDesc (s : State) (c : Crew) (l : Launch) (who : Toucher) (off : Nat) : DescRead :=
  match if off % 64 == 0 && off + 64 ≤ scratchSize l then touchRange s c.team who c.coreIdx off 64 else .go s with
  | .wait s => .wait s
  | .fail s cause g => .trap s cause 2 g
  | .go s => match teamOf s c.team with
    | none => .wait s
    | some t =>
      let (bs, bad) := scratchRead s t c.coreIdx off 64
      .ok s bs bad

/-- The engine takes a copy: the descriptor is read after the accesses that R84 orders before the copy (R216), checked and queued, and the command joins its
counter's open batch. DESIGN CHOICE (log 82): TADDR of a check of R219 that fails holds the descriptor's offset, and 0 for RESFIELD. -/
def acceptCopy (s : State) (u : Nat) (c : Crew) (who : Toucher) (kind off stamp scalarTo blockTo word : Nat) : Accepted :=
  match teamOf s c.team, crewLaunch s c with
  | some _, some l =>
    if 32 ≤ (coreAt s c.die c.core).copyQ.length || !accessesDone c stamp scalarTo blockTo then .wait s
    else match readDesc s c l who off with
      | .wait s => .wait s
      | .trap s cause detail addr => .trap s cause detail addr
      | .ok s bs bad => match descCheck kind off (scratchSize l) (tileRows l) l.kernel.shape bs with
        | some (cause, detail) => .trap s cause detail (if cause == 0x02 then 0 else w64 off)
        | none =>
          if bad then .poisoned s (2 ^ 22 * c.coreIdx + off)
          else
            let d := copyDesc bs
            let (s, id) := takeCmd s
            let k : CopyCmd := { id := id, crew := u, kind := kind, desc := d, stamp := stamp, scalarTo := scalarTo, blockTo := blockTo,
                                 word := word, data := [], doneEl := [], sent := [], wrote := [], waits := [], failure := none }
            let s := modCore s c.die c.core fun co => { co with copyQ := co.copyQ ++ [k] }
            .ok (modCrew s u fun c => c.modCC d.cc fun k => k.join id)
  | _, _ => .wait s

/-- CPY, CPYM and CPYT: one command for the fragment (R216). -/
def copyWord (i : Instr) (w : LaneWord) (kind : Nat) (s : State) : Result :=
  laneWord s i (guarded w) fun s x =>
    let (s, stamp) := takeStamp s
    match acceptCopy s x.u x.c x.toucher kind (x.literal w).toNat stamp x.blk.stamp 0 (faultWord true x.fr.lpc) with
    | .wait s => stall s
    | .trap s cause detail addr => x.raise s cause detail 0 allLanes addr
    | .poisoned s a => .next (haltCrew s x.u 1 a)
    | .ok s => match crewOf s x.u with
      | some c => x.finish s c
      | none => .fault .noStream

/-- CPY (R216). -/
def execCpy (w : LaneWord) (s : State) : Result := copyWord (.cpy w) w 0 s
/-- CPYM (R216). -/
def execCpym (w : LaneWord) (s : State) : Result := copyWord (.cpym w) w 1 s
/-- CPYT (R216). -/
def execCpyt (w : LaneWord) (s : State) : Result := copyWord (.cpyt w) w 2 s

/-! ## Elements (R187, R188, R218, R220) -/

/-- The accesses that a copy comes after have been performed (R187), and no release of an earlier FENCE is open (R235). -/
def CopyCmd.ordered (s : State) (k : CopyCmd) : Bool :=
  match crewOf s k.crew with
  | none => true
  | some c =>
    accessesDone c k.stamp k.scalarTo k.blockTo && c.openFences.all fun f => k.scalarTo ≤ f.stamp

/-- Element `n` in row-major order. -/
def CopyDesc.row (d : CopyDesc) (n : Nat) : Nat := n / d.cols
def CopyDesc.col (d : CopyDesc) (n : Nat) : Nat := n % d.cols
/-- The element lies in the bounds (R218). -/
def CopyDesc.inBounds (d : CopyDesc) (n : Nat) : Bool := d.row n < d.brows && d.col n < d.bcols
/-- Its global address. -/
def CopyDesc.gAt (d : CopyDesc) (n : Nat) : W64 := d.gaddr + w64 (d.row n) * d.gstride + w64 (d.col n * d.esz)
/-- Its scratchpad offset. -/
def CopyDesc.sAt (d : CopyDesc) (n : Nat) : Nat := d.soff + d.row n * d.sstride + d.col n * d.esz
/-- Its byte in the team's tile store. -/
def CopyDesc.tAt (d : CopyDesc) (n : Nat) : Nat := (d.trow + d.row n) * 256 + d.tcol + d.col n * d.esz

/-- An outbound CPY (R218). -/
def CopyCmd.out (k : CopyCmd) : Bool := k.kind == 0 && k.desc.dir

/-- The destination cores of a copy: the crew's own, or those of CMASK. -/
def CopyCmd.dests (k : CopyCmd) (own : Nat) : List Nat := if k.kind == 1 then (List.range 4).filter fun i => k.desc.cmask / 2 ^ i % 2 == 1 else [own]

/-- The elements that a copy writes: an outbound CPY leaves out those outside its bounds. -/
def CopyCmd.elements (k : CopyCmd) (own : Nat) : List (Nat × Nat) :=
  let all := (k.dests own).flatMap fun d => (List.range (k.desc.rows * k.desc.cols)).map fun n => (d, n)
  if k.out then all.filter fun e => k.desc.inBounds e.2 else all

/-- Reads `n` bytes of a team's tile store. -/
def tileRead (s : State) (t : Team) (idx a n : Nat) : List Byte × Bool :=
  let co := coreAt s t.die (t.coreOf idx)
  let a := t.tile0.getD idx 0 * 256 + a
  (cellsRead co.tiles a n, (List.range n).any fun i => co.tilePoison.contains (a + i))

/-- Writes bytes of a team's tile store; `bad` leaves them with an uncorrectable error (R220). -/
def tileWrite (s : State) (t : Team) (idx a : Nat) (bs : List Byte) (bad : Bool) : State :=
  let a := t.tile0.getD idx 0 * 256 + a
  modCore s t.die (t.coreOf idx) fun co =>
    let p := co.tilePoison.filter fun p => p < a || a + bs.length ≤ p
    { co with tiles := cellsWrite co.tiles a bs, tilePoison := if bad then p ++ (List.range bs.length).map (a + ·) else p }

/-- What an element's access meets: it goes on, waits, or fails. -/
inductive ElemStep where
  | data (s : State) (bs : List Byte) (bad : Bool)
  | wait (s : State)
  | fail (s : State) (cause : Nat) (addr : W64)

/-- The copy waits for a page, with a record when none is unanswered (R320, ACCESS 0x21 in and 0x22 out). -/
def copyWait (s : State) (die core n : Nat) (k : CopyCmd) (c : Crew) (vp : Nat) : State :=
  if waiting k.waits vp then s
  else
    let r : FaultRec := { vp := vp, kind := 0, access := if k.out then 0x22 else 0x21, lowLane := 0xFF, core := c.core, slot := c.slot,
                          die := c.die, word := k.word }
    match writeRecords s (crewCtx s c) [r] with
    | none => s
    | some s => modCore s die core fun co =>
        { co with copyQ := lmod co.copyQ n fun k => { k with waits := k.waits.filter (·.vp != vp) ++ [{ vp := vp, answer := none }] } }

/-- A copy's global address (R220): its physical address, or a wait, or a failure. -/
def copyPage (s : State) (die core n : Nat) (k : CopyCmd) (c : Crew) (va : W64) (acc : Acc) : State × MapOutcome :=
  let vp := va.toNat / 4096
  if refused k.waits vp then (s, .fail 0x0B)
  else match checkLane s die core (crewDev s c) (crewCtx s c) va 1 acc false with
  | (s, .ok pa) => (s, .ok pa)
  | (s, .absent) => (copyWait s die core n k c vp, .wait)
  | (s, .fail _ cause detail) =>
    if detail == 6 || detail == 7 then
      let r : FaultRec := { vp := vp, kind := if detail == 6 then 2 else 3, access := if k.out then 0x22 else 0x21, lowLane := 0xFF,
                            core := c.core, slot := c.slot, die := c.die, word := k.word }
      match writeRecords s (crewCtx s c) [r] with
      | some s => (s, .fail cause)
      | none => (s, .wait)
    else (s, .fail cause)

/-- The granules of a region that an engine command's scratchpad access touches (R283, R284): it waits for a fill; a fill that failed gives the command a
failure. -/
def copyTouch (s : State) (team cmd idx off n : Nat) : State × MapOutcome × W64 :=
  match touchRange s team (.engine cmd) idx off n with
  | .go s => (s, .ok 0, 0)
  | .wait s => (s, .wait, 0)
  | .fail s cause g => (s, .fail cause, g)

/-- An element of a copy was sent across the Sound and has timed out (R382). -/
def CopyCmd.late (k : CopyCmd) (s : State) (p : Nat × Nat → Bool) : Bool := k.sent.any fun e => p e.1 && overdue s (some e.2)

/-- The source bytes of an element (R188: nothing is fetched outside the bounds). -/
def copySource (s : State) (die core n : Nat) (k : CopyCmd) (c : Crew) (t : Team) (el : Nat) : ElemStep :=
  let d := k.desc
  if !k.out && !d.inBounds el then .data s (List.replicate d.esz 0) false
  else if k.out || (k.kind == 2 && !d.dir) then
    match copyTouch s c.team k.id c.coreIdx (d.sAt el) d.esz with
    | (s, .wait, _) => .wait s
    | (s, .fail cause, g) => .fail s cause g
    | (s, .ok _, _) =>
      let (bs, bad) := scratchRead s t c.coreIdx (d.sAt el) d.esz
      .data s bs bad
  else if k.kind == 2 then
    let (bs, bad) := tileRead s t c.coreIdx (d.tAt el) d.esz
    .data s bs bad
  else
    let va := d.gAt el
    match copyPage s die core n k c va .load with
    | (s, .wait) => .wait s
    | (s, .fail cause) => .fail s cause va
    | (s, .ok pa) =>
      if engineWaits s (crewDev s c) die core false pa d.esz || (homedFar (crewDev s c) die pa && k.late s fun e => e.2 == el) then .wait s
      else
        let (s, bs, bad) := coreRead s c.view (crewDev s c) die core pa d.esz
        .data s bs bad

/-- The failure with the lowest address (R220). -/
def lowFailure (a : Option Failure) (b : Failure) : Option Failure :=
  match a with | some x => if x.addr.toNat ≤ b.addr.toNat then some x else some b | none => some b

/-- A copy's record in its core. -/
def modCopy (s : State) (die core n : Nat) (f : CopyCmd → CopyCmd) : State :=
  modCore s die core fun co => { co with copyQ := lmod co.copyQ n f }

/-- The element fails: an inbound copy writes zero, an outbound one nothing; the copy carries the failure (R220). -/
def copyFail (s : State) (die core n : Nat) (k : CopyCmd) (cause : Nat) (addr : W64) : State :=
  modCopy s die core n fun c => { c with failure := lowFailure c.failure { cmd := k.id, cause := cause, detail := 0x11, addr := addr } }

/-- A source element is read once (R279): what it carried stays with the command. One that fails reads as zero on an inbound copy and leaves an outbound
one nothing to write (R220). -/
def fetchElement (s : State) (die core n el : Nat) : State × Bool :=
  match (coreAt s die core).copyQ[n]? with
  | none => (s, false)
  | some k =>
    if (kget k.data el).isSome then (s, true)
    else match crewOf s k.crew with
      | none => (s, true)
      | some c => match teamOf s c.team with
        | none => (s, true)
        | some t =>
          let keep (s : State) (bs : List Byte) (bad : Bool) : State × Bool :=
            (modCopy s die core n fun k => { k with data := kset k.data el (bs, bad) }, true)
          match copySource s die core n k c t el with
          | .wait s => (s, false)
          | .data s bs bad => keep s bs bad
          | .fail s cause addr => keep (copyFail s die core n k cause addr) (if k.out then [] else List.replicate k.desc.esz 0) false

/-- Where an element's bytes go (R218, R279, R287). -/
inductive CopyDest where
  | memory (pa : Nat)
  | tile
  | scratch
  | nowhere
  deriving DecidableEq, Repr

/-- The place of an element at destination `dest`, once it can be written there; a write that cannot be made leaves its failure and goes nowhere (R220).
DESIGN CHOICE (log 85): after the failed fill of a granule the element is written there all the same. -/
def copyDest (s : State) (die core n : Nat) (k : CopyCmd) (c : Crew) (t : Team) (dest el : Nat) : State × Option CopyDest :=
  let d := k.desc
  if k.out then
    let va := d.gAt el
    match copyPage s die core n k c va .store with
    | (s, .wait) => (s, none)
    | (s, .fail cause) => (copyFail s die core n k cause va, some .nowhere)
    | (s, .ok pa) =>
      (s, if engineWaits s (crewDev s c) die core true pa d.esz || (homedFar (crewDev s c) die pa && k.late s (· == (dest, el))) then none
          else some (.memory pa))
  else if coreLost s t dest then (journalTeam s c.team 6 3 c.die (2 ^ 22 * dest + d.sAt el), some .nowhere)
  else if usesTile k.kind d && !(k.kind == 2 && d.dir) then (s, some .tile)
  else match copyTouch s c.team k.id dest (d.sAt el) d.esz with
    | (s, .wait, _) => (s, none)
    | (s, .fail cause, g) => (copyFail s die core n k cause g, some .scratch)
    | (s, .ok _, _) => (s, some .scratch)

/-- The element's bytes are written: what the command then has written of poisoned sectors comes with the state (R372). -/
def copyWrite (s : State) (k : CopyCmd) (c : Crew) (t : Team) (dest el : Nat) (bs : List Byte) (bad : Bool) : CopyDest → State × List (Nat × Nat)
  | .nowhere => (s, k.wrote)
  | .tile => (tileWrite s t dest (k.desc.tAt el) bs bad, k.wrote)
  | .scratch =>
    let s := engineWrite s k.crew k.id c.team dest (k.desc.sAt el) bs
    (if bad then scratchPoison s t dest (k.desc.sAt el) k.desc.esz else s, k.wrote)
  | .memory pa =>
    let dev := crewDev s c
    let s := writeHome (signAccess s c.team (k.desc.gAt el) bs) c.view dev c.die pa bs
    if bad then (poisonSectors s c.view (sectorsOf dev pa k.desc.esz), k.wrote) else healWritten s c.view dev c.die k.wrote [(pa, bs.length)]

/-- The sources of several elements are read; none follows one that waits. -/
def fetchElements (s : State) (die core n : Nat) : List (Nat × Nat) → State × Bool
  | [] => (s, true)
  | e :: es => match fetchElement s die core n e.2 with
    | (s, true) => fetchElements s die core n es
    | (s, false) => (s, false)

/-- The places of several elements that are still to be written; none follows one that waits. -/
def copyDests (s : State) (die core n : Nat) : List (Nat × Nat) → State × Option (List (Nat × Nat × CopyDest))
  | [] => (s, some [])
  | (dest, el) :: es => match (coreAt s die core).copyQ[n]? with
    | none => (s, none)
    | some k => match crewOf s k.crew with
      | none => (s, some [])
      | some c => match teamOf s c.team with
        | none => (s, some [])
        | some t =>
          if k.doneEl.contains (dest, el) then copyDests s die core n es
          else match copyDest s die core n k c t dest el with
            | (s, none) => (s, none)
            | (s, some p) => match copyDests s die core n es with
              | (s, none) => (s, none)
              | (s, some ps) => (s, some ((dest, el, p) :: ps))

/-- One element is written at its place. -/
def putElement (s : State) (die core n : Nat) (e : Nat × Nat × CopyDest) : State :=
  match (coreAt s die core).copyQ[n]? with
  | none => s
  | some k => match crewOf s k.crew with
    | none => s
    | some c => match teamOf s c.team, kget k.data e.2.1 with
      | some t, some (bs, bad) =>
        let (s, wrote) := if bs.isEmpty then (s, k.wrote) else copyWrite s k c t e.1 e.2.1 bs bad e.2.2
        modCopy s die core n fun k => { k with doneEl := (e.1, e.2.1) :: k.doneEl, wrote := wrote }
      | _, _ => s

/-- An element's global access is answered poisoned, or acknowledged and discarded with `code` (R361, R382). -/
def loseElement (s : State) (die core n : Nat) (k : CopyCmd) (e : Nat × Nat) (code at_ : Nat) : State :=
  if k.out then
    let s := match crewOf s k.crew with | some c => journalTeam s c.team 6 code die at_ | none => s
    modCopy s die core n fun k => { k with doneEl := e :: k.doneEl }
  else modCopy s die core n fun k => { k with data := kset k.data e.2 (List.replicate k.desc.esz 0, true) }

/-- An element of a copy still has its global access to make: an outbound one to write, an inbound one inside the bounds to read. -/
def CopyCmd.pending (k : CopyCmd) (e : Nat × Nat) : Bool :=
  if k.out then !k.doneEl.contains e else k.kind != 2 && k.desc.inBounds e.2 && (kget k.data e.2).isNone

/-- Several elements: every source is read and every place is free before one of them is written (R187: no word is copied in part). -/
def copyElements (s : State) (die core n : Nat) (es : List (Nat × Nat)) : State × Bool :=
  match fetchElements s die core n es with
  | (s, false) => (s, false)
  | (s, true) => match copyDests s die core n es with
    | (s, none) => (s, false)
    | (s, some ps) => (ps.foldl (fun s e => putElement s die core n e) s, true)

/-- The elements whose destination bytes share an aligned 4-byte word with `el` (R187: a word is old or copied, never in part). -/
def wordMates (k : CopyCmd) (dest el : Nat) : List (Nat × Nat) :=
  let d := k.desc
  let at_ (n : Nat) : Nat := if k.out then (d.gAt n).toNat else if usesTile k.kind d && !(k.kind == 2 && d.dir) then d.tAt n else d.sAt n
  ((List.range (d.rows * d.cols)).filter fun n => at_ n / 4 == at_ el / 4).map fun n => (dest, n)

/-- The elements whose source shares an aligned 4-byte word with that of one of `es`: a word is read old or new, never in part (R187). -/
def sourceMates (k : CopyCmd) (es : List (Nat × Nat)) : List (Nat × Nat) :=
  let d := k.desc
  let at_ (n : Nat) : Nat := if k.kind == 2 && d.dir then d.tAt n else if k.out || k.kind == 2 then d.sAt n else (d.gAt n).toNat
  let words := es.map fun e => at_ e.2 / 4
  ((List.range (d.rows * d.cols)).filter fun n => words.contains (at_ n / 4)).map fun n => (0, n)

/-- The copy engine writes one word of its n-th command early (R187); it works on up to 8 commands (R186). -/
def runCopyElement (die core n dest el : Nat) (s : State) : Result :=
  match (coreAt s die core).copyQ[n]? with
  | none => stall s
  | some k => match crewOf s k.crew with
    | none => stall s
    | some c =>
      if 8 ≤ n || !k.ordered s || !(k.elements c.coreIdx).contains (dest, el) then stall s
      else
        let mine := k.elements c.coreIdx
        let es := (wordMates k dest el).filter mine.contains
        match fetchElements s die core n ((sourceMates k es).filter fun e => mine.any (·.2 == e.2)) with
        | (s, false) => stall s
        | (s, true) => match copyElements s die core n es with
          | (s, true) => .next s
          | (s, false) => stall s

/-- COPY_COMPLETE (R218): every destination element is written, and the command completes in its batch. -/
def execCopyComplete (die core n : Nat) (s : State) : Result :=
  match (coreAt s die core).copyQ[n]? with
  | none => stall s
  | some k =>
    if 8 ≤ n || !k.ordered s then stall s
    else
      let own := match crewOf s k.crew with | some c => c.coreIdx | none => 0
      match copyElements s die core n ((k.elements own).filter fun e => !k.doneEl.contains e) with
      | (s, false) => stall s
      | (s, true) =>
        let f := match (coreAt s die core).copyQ[n]? with | some k => k.failure | none => none
        let s := modCore s die core fun co => { co with copyQ := ldel co.copyQ n }
        .next (finishCommand s k.crew k.id f)

end Sys2Proof.Machine
end

