-- ==== Sys2Proof/Machine/YpfForms.lean ====
section
/-!
DEFINITION. The text of a YPF section (R42): lines and tokens (R33), numbers (R34), and the assembly form of every operation that YPF may use.
-/

namespace Sys2Proof.Machine

/-! ## Lines and tokens (R33) -/

/-- A token of the text: its bytes. -/
abbrev Tok := List Byte

/-- The bytes of a word of the language. -/
def ascii (s : String) : Tok := s.toList.map fun c => BitVec.ofNat 8 c.toNat

/-- The pieces between the bytes that `p` selects. -/
def splitOn (p : Byte → Bool) : List Byte → List Tok
  | [] => [[]]
  | b :: bs => if p b then [] :: splitOn p bs else match splitOn p bs with
    | [] => [[b]]
    | t :: ts => (b :: t) :: ts

/-- A line without its comment. -/
def uncomment : List Byte → List Byte
  | [] => []
  | b :: bs => if b == 0x3B || (b == 0x2F && bs.head? == some 0x2F) then [] else b :: uncomment bs

/-- Blanks and commas part tokens. -/
def isBlank (b : Byte) : Bool := b == 0x20 || b == 0x09 || b == 0x0D || b == 0x2C || b == 0

/-- The tokens of a line; an equals sign is one of its own. -/
def tokens (line : List Byte) : List Tok :=
  let spaced := (uncomment line).flatMap fun b => if b == 0x3D then [0x20, b, 0x20] else [b]
  (splitOn isBlank spaced).filter fun t => !t.isEmpty

/-! ## Values, numbers, names (R33, R34, R42, R116) -/

/-- The special registers of one name (R116). -/
def ypfSpecials : List String :=
  ["CREWID", "TEAMID", "TEAMDIM", "GRIDDIM", "ROLE", "CORE", "DIE", "REFTIME", "CYCLES", "ASTAT", "FAIRT", "PREQ", "PDEAD", "SKEW",
   "TSCR0", "TSCR1", "DATABASE", "CONSTBASE", "TWORD0", "TWORD1", "TCAUSE", "TSPC", "TLPC", "TEXEC", "TFMASK", "TINFO", "TADDR",
   "TVEC"]

/-- The numbered families of special registers (R116) and how many each has. -/
def ypfFamilies : List (String × Nat) := [("FEAT", 8), ("TSPLIT", 8), ("CCDONE", 8), ("CCISSUED", 8), ("TILE", 16)]

/-- A name of a special register. -/
def isSpecialName (t : Tok) : Bool :=
  ypfSpecials.any (fun s => t == ascii s) ||
    ypfFamilies.any fun f => (List.range f.2).any fun n => t == ascii f.1 ++ ascii (toString n)

/-- A value's name: it begins with a percent sign. -/
def isValue (t : Tok) : Bool := t.head? == some 0x25
/-- The values that tokens read. -/
def valuesIn (ts : List Tok) : List Tok := ts.filter isValue

/-- A mnemonic without its suffixes. -/
def baseName (t : Tok) : Tok := t.takeWhile (· != 0x2E)
/-- Its suffixes. -/
def suffixesOf (t : Tok) : List Tok := (splitOn (· == 0x2E) t).drop 1

/-- The suffixes of R24, in the order of their codes. -/
def typeSuffixes : List String :=
  ["b32", "i32", "f32", "f16", "bf16", "e4m3", "e5m2", "e2m1", "b16", "i16", "b8", "i8", "b64", "i64", "xa96"]

/-- A token is one of some words. -/
def isWord (ks : List String) (t : Tok) : Bool := ks.any fun k => t == ascii k

/-- A type of R24, or `pred` (R42). -/
def ypfType (t : Tok) : Bool := isWord typeSuffixes t || t == ascii "pred"

/-- A decimal digit. -/
def isDigit (b : Byte) : Bool := 0x30 ≤ b.toNat && b.toNat ≤ 0x39

/-- A digit of base `b`. -/
def digitOf (b : Nat) (c : Byte) : Option Nat :=
  let n := c.toNat
  let v := if isDigit c then n - 0x30 else if 0x61 ≤ n && n ≤ 0x66 then n - 0x57 else if 0x41 ≤ n && n ≤ 0x46 then n - 0x37 else 99
  if v < b then some v else none

/-- The digits of a number; underscores may stand between them (R34). -/
def digitsOf (b : Nat) (ts : Tok) : Option Nat :=
  let ds := ts.filter (· != 0x5F)
  if ds.isEmpty then none else ds.foldl (fun a c => a.bind fun x => (digitOf b c).map fun d => x * b + d) (some 0)

/-- A number of R34: decimal, 0x or 0b. -/
def numberOf (t : Tok) : Option Nat :=
  if t.take 2 == ascii "0x" then digitsOf 16 (t.drop 2) else if t.take 2 == ascii "0b" then digitsOf 2 (t.drop 2) else digitsOf 10 t

/-- A number with an optional minus sign (R34). -/
def signedOf (t : Tok) : Option Int := if t.head? == some 0x2D then (numberOf (t.drop 1)).map fun n => -(n : Int) else (numberOf t).map fun n => (n : Int)

/-- A number with a decimal point (R34). -/
def isDecimal (t : Tok) : Bool :=
  let u := if t.head? == some 0x2D then t.drop 1 else t
  match splitOn (· == 0x2E) u with
  | [a, b] => !a.isEmpty && (a ++ b).all isDigit
  | _ => false

/-- A letter or an underscore, with which names begin (R33). -/
def isLetter (b : Byte) : Bool := b == 0x5F || (0x41 ≤ b && b ≤ 0x5A) || (0x61 ≤ b && b ≤ 0x7A)

/-- An expression over names (R34), which the model does not evaluate (log 13): letters, digits and the signs of expressions, some name among them. -/
def isExpression (t : Tok) : Bool :=
  let sign (b : Byte) : Bool := b == 0x2B || b == 0x2D || b == 0x2A || b == 0x2F || b == 0x28 || b == 0x29 || b == 0x26 || b == 0x7C || b == 0x3C || b == 0x3E
  t.all (fun b => isLetter b || isDigit b || sign b) && t.any isLetter

/-- A register of the machine, or a latch: a letter, or `cc`, and a number, alone or with a latch (R33, R34). YPF's values are virtual registers. -/
def isMachineReg (t : Tok) : Bool :=
  let numbered (r : Tok) : Bool := match r with
    | b :: n => ["s", "v", "p", "b"].any (fun s => [b] == ascii s) && !n.isEmpty && n.all isDigit
    | [] => false
  (splitOn (· == 0x3A) t).any numbered || t.head? == some 0x5F && t.contains 0x3A

/-! ## Assembly forms (R42, R120 to R124, R132 to R144, R147 to R174, R209 to R241, R255 to R266, R326, R327, R334, R400, R405 to R414) -/

/-- What an operand of a form is: a source of a lane word; one that takes no literal but 0; a source of a scalar word; a number between two bounds; a
counter; a queue; a special register; a block; a predicate; one of some words. -/
inductive YpfArg where
  | src
  | idx
  | reg
  | num (lo hi : Int)
  | cc
  | queue
  | special
  | label
  | pred
  | word (ks : List String)
  deriving DecidableEq, Repr

/-- What a form assigns. -/
inductive YpfRes where
  | none
  | value
  | pred
  /-- A value or nothing (ARMC's status). -/
  | either
  deriving DecidableEq, Repr

/-- An assembly form: mnemonics with their opcodes (`opOf`), suffixes and operands with the mark of those that may be left out, and what it assigns. -/
structure YpfForm where
  names : List (String × Nat)
  sufs  : List (Bool × List String)
  res   : YpfRes
  args  : List (Bool × YpfArg)
  deriving DecidableEq, Repr

/-- The opcode of a scalar word, with the function of the ALU group and of UNARY, apart from those of lane words. -/
def scalarCode (op fn : Nat) : Nat := 256 + op + 128 * fn
/-- The opcode of a scalar word as it stands in the code. -/
def scalarOpOf (w : Nat) : Nat := let op := w / 2 ^ 25 % 128; scalarCode op (if op == 0x01 || op == 0x0C then w % 128 else 0)

/-- Mnemonics of consecutive opcodes. -/
def opRun (first : Nat) (names : List String) : List (String × Nat) := (indexed names).map fun e => (e.2, first + e.1)
/-- Those of consecutive functions of one scalar opcode. -/
def fnRun (op : Nat) (names : List String) : List (String × Nat) := (indexed names).map fun e => (e.2, scalarCode op e.1)
/-- Those of consecutive scalar opcodes. -/
def scalarRun (first : Nat) (names : List String) : List (String × Nat) := (indexed names).map fun e => (e.2, scalarCode (first + e.1) 0)

/-- Operands that must stand. -/
def need (ks : List YpfArg) : List (Bool × YpfArg) := ks.map fun k => (false, k)
/-- Operands that may be left out. -/
def may (ks : List YpfArg) : List (Bool × YpfArg) := ks.map fun k => (true, k)
/-- One suffix of a list. -/
def suf (ks : List String) : List (Bool × List String) := [(false, ks)]
/-- One suffix of a list, or none. -/
def sufMay (ks : List String) : List (Bool × List String) := [(true, ks)]

/-- The limits of imm13. -/
def imm13Arg : YpfArg := .num (-4096) 4095
/-- The rounding suffixes; those without SR; those of RRED. -/
def roundings : List String := ["rne", "rtz", "rup", "rdn", "sr"]
def plainRoundings : List String := ["rne", "rtz", "rup", "rdn"]
/-- The types of the words by class (R24): 32-bit integers, floating, any floating, integer elements, memory words of 4 bytes and less. -/
def tyInt : List String := ["b32", "i32"]
def tyFloat : List String := ["f32", "f16", "bf16"]
def tyAnyFloat : List String := tyFloat ++ ["e4m3", "e5m2", "e2m1"]
def tyElem : List String := tyInt ++ ["b16", "i16", "b8", "i8"]
def tyMem32 : List String := tyElem ++ tyFloat ++ ["e4m3", "e5m2"]
def tyMem : List String := tyMem32 ++ ["b64", "i64"]
/-- Scopes, orders and operations of atomics (R134). -/
def scopeArg : YpfArg := .word ["team", "die", "package", "system"]
def ordArg : YpfArg := .word ["relaxed", "acqrel"]
def atomArg : YpfArg := .word ["add", "and", "or", "swap", "min", "max"]
/-- Index, scale and displacement of a memory word. -/
def placeArgs : List (Bool × YpfArg) := may [.idx, .num 1 16, .num (-(2 ^ 31)) (2 ^ 32 - 1)]

/-- The scalar forms. In a word that reads its destination (SHI, SCAS, BARW) the old value may stand as a first source (log 13). -/
def ypfScalarForms : List YpfForm :=
  [⟨fnRun 0x01 ["add", "sub", "and", "or", "xor", "shl", "shr", "sra", "slt", "sltu", "min", "max", "minu", "maxu", "mul", "mulh", "mulhu", "div",
      "divu", "rem", "remu", "addw", "subw"], [], .value, need [.reg, .reg]⟩,
   ⟨scalarRun 0x02 ["addi", "andi", "ori", "xori"] ++ scalarRun 0x09 ["slti", "sltiu"], [], .value, need [.reg, imm13Arg]⟩,
   ⟨scalarRun 0x06 ["shli", "shri", "srai"], [], .value, need [.reg, .num 0 63]⟩,
   ⟨scalarRun 0x0B ["shi"], [], .value, may [.reg] ++ need [.num 0 0x7FFFF]⟩,
   ⟨fnRun 0x0C ["clz", "ctz", "popc", "brev", "sextb", "sexth", "sextw", "zextw"], [], .value, need [.reg]⟩,
   ⟨[("madd", scalarCode 0x0D 0), ("sel", scalarCode 0x0F 0)], [], .value, need [.reg, .reg, .reg]⟩,
   ⟨scalarRun 0x0E ["addsh"], [], .value, need [.reg, .reg, .num 0 7]⟩,
   ⟨scalarRun 0x20 ["sldb", "sldh", "sldw", "sldd"] ++ scalarRun 0x28 ["sldk"], [], .value, need [.reg, imm13Arg]⟩,
   ⟨scalarRun 0x24 ["sstb", "ssth", "sstw", "sstd"], [], .none, need [.reg, .reg, imm13Arg]⟩,
   ⟨scalarRun 0x29 ["satom"], suf ["b32", "i32", "b64", "i64"], .value, need [.reg, .reg, atomArg, scopeArg, ordArg]⟩,
   ⟨scalarRun 0x2A ["scas"], suf ["b32", "i32", "b64", "i64"], .value, may [.reg] ++ need [.reg, .reg, scopeArg, ordArg]⟩,
   ⟨scalarRun 0x30 ["srd"], [], .value, need [.special]⟩,
   ⟨scalarRun 0x31 ["swr"], [], .none, need [.special, .reg]⟩,
   ⟨scalarRun 0x3B ["sgetp"], [], .value, need [.pred]⟩,
   ⟨scalarRun 0x3C ["sgetv"], [], .value, need [.reg, .idx]⟩,
   ⟨scalarRun 0x40 ["bara"] ++ scalarRun 0x42 ["baraw"], [], .value, need [.reg, imm13Arg]⟩,
   ⟨scalarRun 0x41 ["barw"], [], .value, may [.reg] ++ need [.reg, imm13Arg]⟩,
   ⟨scalarRun 0x43 ["barinit"], [], .none, need [.reg, .reg]⟩,
   ⟨scalarRun 0x44 ["qpush"], [], .none, need [.reg, .queue]⟩,
   ⟨scalarRun 0x45 ["qpop"], [], .value, need [.queue]⟩,
   ⟨scalarRun 0x46 ["qtry"], [], .value, need [.reg, .queue, .word ["push"]]⟩,
   ⟨scalarRun 0x46 ["qtry"], [], .value, need [.queue, .word ["pop"]]⟩,
   ⟨scalarRun 0x47 ["qinit"], [], .none, need [.reg, .reg, .queue]⟩,
   ⟨scalarRun 0x48 ["waitc"], [], .none, need [.cc, .reg]⟩,
   ⟨scalarRun 0x49 ["armc"], [], .either, need [.cc, .reg, .reg, .word ["copy", "copym", "copyt", "arrive", "push"]]⟩,
   ⟨scalarRun 0x4A ["cyield"], [], .none, need [.cc, .reg, .label]⟩,
   ⟨scalarRun 0x4B ["yield"] ++ scalarRun 0x4D ["pyield"] ++ scalarRun 0x51 ["fencep", "cfence", "rflush"], [], .none, []⟩,
   ⟨scalarRun 0x4C ["pchk"], [], .value, []⟩,
   ⟨scalarRun 0x50 ["fence"], [], .none,
     need [.word ["core", "team", "die", "package", "system"], .word ["release", "acquire", "full"]] ++ may [.word ["wait"]]⟩,
   ⟨scalarRun 0x58 ["wlpop"], [], .value, need [.reg, .num 0 255]⟩,
   ⟨scalarRun 0x59 ["wldone"], [], .none, need [.reg, .num 0 255]⟩,
   ⟨scalarRun 0x60 ["trap", "bkpt"], [], .none, need [.num 0 0x7FFFF]⟩,
   ⟨scalarRun 0x62 ["sysc"], [], .value, need [.num 0 0x7FFFF]⟩]

/-- The lane forms, but for the matrix words. In VCAS the expected value may stand as a further source (log 13). -/
def ypfLaneForms : List YpfForm :=
  [⟨opRun 0x01 ["vadd", "vsub", "vmul", "vmulh"] ++ opRun 0x06 ["vand", "vor", "vxor", "vshl", "vshr", "vmin", "vmax"] ++ [("vbfe", 0x11)],
      suf tyInt, .value, need [.src, .src]⟩,
   ⟨[("vmad", 0x05), ("vbfi", 0x12), ("vaddc", 0x15)], suf tyInt, .value, need [.src, .src, .src]⟩,
   ⟨[("vabs", 0x0D)], suf ["i32"], .value, need [.src]⟩,
   ⟨[("vclz", 0x0F), ("vpopc", 0x10), ("vmov", 0x13), ("vneg", 0x16)], suf tyInt, .value, need [.src]⟩,
   ⟨[("vsel", 0x0E)], suf tyInt, .value, need [.src, .src, .pred]⟩,
   ⟨[("vcmp", 0x14)], suf tyInt, .pred, need [.src, .src, .word ["eq", "ne", "lt", "le", "gt", "ge"]]⟩,
   ⟨opRun 0x20 ["fadd", "fsub", "fmul"] ++ [("fscale", 0x2E)], suf tyFloat ++ sufMay roundings, .value, need [.src, .src]⟩,
   ⟨[("ffma", 0x23)], suf tyFloat ++ sufMay roundings, .value, need [.src, .src, .src]⟩,
   ⟨opRun 0x24 ["fmin", "fmax"], suf tyFloat, .value, need [.src, .src]⟩,
   ⟨[("fcmp", 0x26)], suf tyAnyFloat, .pred, need [.src, .src, .word ["eq", "ne", "lt", "le", "gt", "ge", "un", "or"]]⟩,
   ⟨opRun 0x27 ["frcp", "frsq", "fsqrt", "fexp2", "flog2", "fsin", "fcos"], suf tyFloat ++ sufMay plainRoundings, .value, need [.src]⟩,
   ⟨[("frnd", 0x31)], suf tyFloat ++ sufMay roundings, .value, need [.src]⟩,
   ⟨[("fclass", 0x2F)], suf tyAnyFloat, .value, need [.src]⟩,
   ⟨[("fcvt", 0x30)], suf tyAnyFloat ++ suf tyAnyFloat ++ sufMay roundings ++ sufMay ["sat"], .value, need [.idx]⟩,
   ⟨[("ftoi", 0x32)], suf tyElem ++ suf tyAnyFloat ++ sufMay roundings, .value, need [.idx]⟩,
   ⟨[("itof", 0x33)], suf tyAnyFloat ++ suf tyElem ++ sufMay roundings ++ sufMay ["sat"], .value, need [.idx]⟩,
   ⟨[("qpack", 0x34)], suf ["f16", "bf16", "e4m3", "e5m2", "e2m1"] ++ sufMay roundings ++ sufMay ["sat"], .value, need [.idx, .idx, .idx, .num 0 7]⟩,
   ⟨[("qunpk", 0x35)], suf ["f16", "bf16", "e4m3", "e5m2", "e2m1"] ++ sufMay roundings, .value, need [.idx, .idx, .num 0 7]⟩,
   ⟨[("vshfl", 0x40)], suf ["b32"], .value, need [.src, .src, .src, .word ["idx", "up", "down", "xor"]]⟩,
   ⟨[("vvote", 0x41)], [], .pred, need [.src, .word ["any", "all", "uni"]]⟩,
   ⟨[("vfold", 0x42)], suf (tyInt ++ tyFloat) ++ sufMay plainRoundings, .value, need [.src, .word ["add", "min", "max", "and", "or", "xor"]]⟩,
   ⟨[("vscan", 0x43)], suf (tyInt ++ tyFloat) ++ sufMay plainRoundings, .value, need [.src, .word ["add", "min", "max", "and", "or", "xor"]]⟩,
   ⟨[("vscan", 0x43)], suf (tyInt ++ tyFloat) ++ sufMay plainRoundings ++ suf ["excl"], .value,
     need [.src, .src, .word ["add", "min", "max", "and", "or", "xor"]]⟩,
   ⟨[("vsync", 0x44)], [], .none, need [.src, .src]⟩,
   ⟨[("plog", 0x48)], [], .pred, need [.pred, .pred, .pred, .num 0 255]⟩,
   ⟨[("pset", 0x49)], [], .pred, need [.src]⟩,
   ⟨opRun 0x53 ["lyield", "lnop"], [], .none, []⟩,
   ⟨[("ltrap", 0x55)], [], .none, need [.num 0 0x7FFFF]⟩,
   ⟨[("lwaitc", 0x56)], [], .none, need [.cc, .src, .word ["ge", "lt"]]⟩,
   ⟨[("batch", 0x57)], [], .none, need [.cc]⟩,
   ⟨[("vld", 0x60)], suf tyMem, .value, need [.idx] ++ placeArgs⟩,
   ⟨[("vld", 0x60)], suf ["xa96"], .value, need [.idx] ++ may [.idx, .num (-(2 ^ 31)) (2 ^ 32 - 1)] ++ need [.num 0 95]⟩,
   ⟨[("vst", 0x61)], suf tyMem, .none, need [.idx, .idx] ++ placeArgs⟩,
   ⟨[("vlds", 0x62)], suf tyMem ++ sufMay ["skew"], .value, need [.idx] ++ placeArgs⟩,
   ⟨[("vsts", 0x63)], suf tyMem ++ sufMay ["skew"], .none, need [.idx, .idx] ++ placeArgs⟩,
   ⟨[("vldk", 0x64)], suf tyMem32, .value, need [.idx] ++ placeArgs⟩,
   ⟨[("vatom", 0x65)], suf ["b32", "i32", "b64", "i64"], .value, need [.idx, .idx] ++ placeArgs ++ need [atomArg, scopeArg, ordArg]⟩,
   ⟨[("vatom", 0x65)], suf ["b32", "i32", "b64", "i64"], .none,
     need [.word ["_"], .idx, .idx] ++ placeArgs ++ need [atomArg, scopeArg, ordArg]⟩,
   ⟨[("vcas", 0x66)], suf ["b32", "i32", "b64", "i64"], .value, may [.idx] ++ need [.idx, .idx] ++ placeArgs ++ need [scopeArg, ordArg]⟩,
   ⟨[("vred", 0x67)], suf tyInt, .none, need [.idx, .idx] ++ placeArgs ++ need [.word ["add", "min", "max"]]⟩,
   ⟨[("vred", 0x67)], suf ["f32"] ++ sufMay plainRoundings, .none, need [.idx, .idx] ++ placeArgs ++ need [.word ["add", "min", "max"]]⟩,
   ⟨[("vrdx", 0x68)], suf ["i32", "f32", "f16", "bf16"], .none,
     need [.idx, .idx] ++ may [.idx, .num (-(2 ^ 31)) (2 ^ 32 - 1)] ++ need [.num 0 95]⟩,
   ⟨[("vpref", 0x69)], [], .none, need [.idx] ++ placeArgs⟩,
   ⟨opRun 0x70 ["cpy", "cpym", "cpyt"] ++ [("cwin", 0xF4)], [], .none, need [.src]⟩,
   ⟨[("wlapp", 0x73)], [], .none, need [.src, .src]⟩,
   ⟨[("cstat", 0xF5)], [], .value, need [.src]⟩,
   ⟨[("cabort", 0xF6)], [], .none, need [.src] ++ may [.word ["remote"]]⟩,
   ⟨[("rput", 0xF0)], suf tyMem32, .none, need [.idx, .idx] ++ placeArgs ++ need [.cc]⟩,
   ⟨[("rget", 0xF1)], suf tyMem32, .value, need [.idx] ++ placeArgs ++ need [.cc]⟩,
   ⟨[("rred", 0xF2)], suf tyInt, .none, need [.idx, .idx] ++ placeArgs ++ need [.word ["add", "min", "max"], .cc]⟩,
   ⟨[("rred", 0xF2)], suf ["f32"] ++ sufMay ["rtz"], .none, need [.idx, .idx] ++ placeArgs ++ need [.word ["add", "min", "max"], .cc]⟩,
   ⟨[("coll", 0xF3)], suf ["f32", "bf16", "e4m3", "e2m1"] ++ sufMay ["sr"], .none, need [.idx, .idx] ++ may [.idx, .num 1 16] ++ need [.cc]⟩]

/-- The matrix words with the keys of their operands (R255, R258, R261, R265, R266). -/
def ypfMatrixForms : List ((String × Nat) × List String) :=
  let levels : List String := ["l0", "w0", "t0", "l1", "w1", "t1", "rnd1", "l2", "w2", "t2", "rnd2", "w3", "t3", "rnd3"]
  [(("mxmma", 0xE0), ["a", "b", "ta", "vb", "slot", "init", "vc", "cc", "k"] ++ levels),
   (("mxdrain", 0xE1), ["d", "c", "dst", "sat", "sreg", "ta", "vb", "slot", "init", "cc"]),
   (("mxzero", 0xE2), ["c", "ta", "slot", "init", "vc", "cc"] ++ levels), (("mxfence", 0xE3), []), (("mxstat", 0xE4), ["slot", "vb", "init", "cc"])]

/-- `N` below a bound after a prefix. -/
def numbered (pre : String) (n : Nat) (t : Tok) : Bool :=
  let p := ascii pre
  t.take p.length == p && !(t.drop p.length).isEmpty && (t.drop p.length).all isDigit &&
    (match numberOf (t.drop p.length) with | some k => k < n | none => false)

/-- A token is an operand of a kind. -/
def YpfArg.ok : YpfArg → Tok → Bool
  | .src, t => isValue t || (signedOf t).isSome || isDecimal t || isWord ["zero", "LANEID", "CREWID"] t || (isExpression t && !isMachineReg t)
  | .idx, t => isValue t || signedOf t == some 0 || isWord ["zero", "LANEID", "CREWID"] t
  | .reg, t => isValue t || signedOf t == some 0 || t == ascii "zero"
  | .num lo hi, t => (match signedOf t with | some n => lo ≤ n && n ≤ hi | none => isExpression t && !isMachineReg t)
  | .cc, t => numbered "cc" 8 t
  | .queue, t => numbered "q" 64 t
  | .special, t => isSpecialName t
  | .label, t => (match t with | b :: _ => isLetter b | [] => false)
  | .pred, t => isValue t
  | .word ks, t => isWord ks t

/-- The operands of a line against those of a form: a value that must be, or must not be, a predicate is given with that. -/
def matchArgs : List (Bool × YpfArg) → List Tok → Option (List (Tok × Bool))
  | [], ts => if ts.isEmpty then some [] else none
  | (opt, k) :: fs, ts =>
    let here : Option (List (Tok × Bool)) := match ts with
      | t :: r => if k.ok t then (matchArgs fs r).map fun q => (if isValue t then [(t, k == .pred)] else []) ++ q else none
      | [] => none
    here.or (if opt then matchArgs fs ts else none)

/-- The suffixes of a mnemonic against those of a form. -/
def matchSufs : List (Bool × List String) → List Tok → Bool
  | [], ts => ts.isEmpty
  | (opt, ks) :: fs, ts => (match ts with | t :: r => isWord ks t && matchSufs fs r | [] => false) || (opt && matchSufs fs ts)

/-- Two different nonzero literals in one lane word are an error (R34). -/
def literalsOk (f : YpfForm) (args : List Tok) : Bool :=
  let ns := if f.args.any (fun a => a.2 == .src) then (args.filterMap signedOf).filter (· != 0) else []
  f.args.any (fun a => match a.2 with | .num _ _ => true | _ => false) || ns.all fun n => some n == ns.head?

/-- What a form assigns fits the types of a line's destinations: a predicate, another value, or nothing. -/
def YpfRes.fits (r : YpfRes) (defs : List (Tok × Tok)) : Bool :=
  let pred : Bool := defs.any fun d => d.2 == ascii "pred"
  match r with
  | .none => defs.isEmpty
  | .value => defs.length == 1 && !pred
  | .pred => defs.length == 1 && pred
  | .either => defs.length ≤ 1 && !pred

/-- The matrix word's `key = value` operands: keys of the word, each once; no register of the machine beyond tile registers, slots and counters. -/
def matrixArgs (keys : List String) : List Tok → Option (List Tok)
  | [] => some []
  | k :: e :: v :: r =>
    if isWord keys k && e == [0x3D] && !isMachineReg v then (matrixArgs keys r).bind fun q => if q.contains k then none else some (k :: q) else none
  | _ => none

/-- One operation's form (R42, R33, R34): its opcode, and the values that it reads with whether each is a predicate; none where no form fits. With `.sr` the
last operand is the seed, a value or 0. -/
def ypfOpForm (defs : List (Tok × Tok)) (name : Tok) (args : List Tok) : Option (Nat × List (Tok × Bool)) :=
  let sufs := suffixesOf name
  let sr := sufs.contains (ascii "sr")
  let seed : Bool := match args.getLast? with | some t => isValue t || signedOf t == some 0 | none => false
  let rest := if sr then args.dropLast else args
  let seeds : List (Tok × Bool) := if sr then (args.getLast?.toList.filter isValue).map fun v => (v, false) else []
  let fit (f : YpfForm) : Option (Nat × List (Tok × Bool)) :=
    match f.names.find? fun n => baseName name == ascii n.1 with
    | none => none
    | some n =>
      if matchSufs f.sufs sufs && f.res.fits defs && literalsOk f rest && (!sr || seed) then (matchArgs f.args rest).map fun vs => (n.2, vs ++ seeds) else none
  let matrix : Option (Nat × List (Tok × Bool)) := (ypfMatrixForms.find? fun m => name == ascii m.1.1).bind fun m =>
    if defs.isEmpty then (matrixArgs m.2 args).map fun _ => (m.1.2, (valuesIn args).map fun v => (v, false)) else none
  ((ypfScalarForms ++ ypfLaneForms).findSome? fit).or matrix

end Sys2Proof.Machine
end

