-- ==== Sys2Proof/Machine/Ypf.lean ====
section
/-!
DEFINITION. What R42 and R43 say of the text of a YPF section (log 13): its functions, the kernel record of each, and what is rejected.
-/

namespace Sys2Proof.Machine

/-! ## Blocks of a function -/

/-- How a block ends; `next` where it runs into the one after it. -/
inductive YpfEnd where
  | next
  | jump (target : Tok)
  | br (uniform : Bool) (pred yes no : Tok) (converge : Option Tok)
  | ret
  deriving DecidableEq, Repr

/-- One operation: the value it assigns with its type, its name, its operands. -/
structure YpfOp where
  defs : List (Tok × Tok)
  name : Tok
  args : List Tok
  deriving DecidableEq, Repr

/-- A block: its operations and its end. -/
structure YpfBlock where
  label : Tok
  ops   : List YpfOp
  stop  : YpfEnd
  deriving DecidableEq, Repr

/-- A function as read so far: its directives; whether its data has begun; its blocks, latest first; whether `uniform` stands before the next branch; whether a line broke R42. -/
structure YpfFn where
  dirs    : List (List Tok)
  data    : Bool
  blocks  : List YpfBlock
  uniform : Bool
  bad     : Bool
  deriving DecidableEq, Repr

/-- An empty block. -/
def YpfBlock.start (label : Tok) : YpfBlock := { label := label, ops := [], stop := .next }

/-- A function with its entry block. -/
def YpfFn.start : YpfFn := { dirs := [], data := false, blocks := [YpfBlock.start []], uniform := false, bad := false }

/-- A new block. An entry block that holds nothing takes the first label. -/
def YpfFn.newBlock (f : YpfFn) (label : Tok) : YpfFn :=
  match f.blocks with
  | [e] => { f with blocks := if e == YpfBlock.start [] then [YpfBlock.start label] else [YpfBlock.start label, e] }
  | bs => { f with blocks := YpfBlock.start label :: bs }

/-- The latest block changed; after an end a block without a name begins. -/
def YpfFn.grow (f : YpfFn) (g : YpfBlock → YpfBlock) : YpfFn :=
  let f := match f.blocks with
    | b :: _ => if b.stop == YpfEnd.next then f else f.newBlock []
    | [] => f.newBlock []
  match f.blocks with
  | b :: bs => { f with blocks := g b :: bs }
  | [] => f

/-- The label and the value of a phi's operands: each value stands after its block's label and a colon. -/
def phiArgs : List Tok → Option (List (Tok × Tok))
  | [] => some []
  | l :: v :: r =>
    if l.getLast? == some 0x3A && isValue v then (phiArgs r).map fun q => (l.dropLast, v) :: q else none
  | [_] => none

/-- The operands of an operation obey R42: those of `phi`, `laneid`, `sreg`, or of an assembly form, without registers of the machine. -/
def opOk (defs : List (Tok × Tok)) (name : Tok) (args : List Tok) : Bool :=
  if name == ascii "phi" then !args.isEmpty && (phiArgs args).isSome && !defs.isEmpty
  else if name == ascii "laneid" then args.isEmpty && defs.map (·.2) == [ascii "i32"]
  else if name == ascii "sreg" then (match args with | [r] => isSpecialName r | _ => false) && !defs.isEmpty
  else (ypfOpForm defs name args).isSome

/-- One operation: a phi stands at the head of its block. -/
def YpfFn.op (f : YpfFn) (defs : List (Tok × Tok)) (name : Tok) (args : List Tok) : YpfFn :=
  let late := match f.blocks with
    | b :: _ => b.stop != YpfEnd.next || b.ops.any fun o => o.name != ascii "phi"
    | [] => true
  let f := f.grow fun b => { b with ops := b.ops ++ [{ defs := defs, name := name, args := args }] }
  { f with bad := f.bad || !opOk defs name args || (name == ascii "phi" && late) || defs.any (fun d => !ypfType d.2) || f.uniform }

/-- The end of a block. -/
def YpfFn.close (f : YpfFn) (e : YpfEnd) : YpfFn := { f.grow (fun b => { b with stop := e }) with uniform := false }

/-- One statement. -/
def YpfFn.statement (f : YpfFn) : List Tok → YpfFn
  | [] => f
  | t :: ts =>
    let broken := { f with bad := true }
    let branch (u : Bool) : List Tok → YpfFn
      | [p, y, n] => f.close (.br u p y n none)
      | [p, y, n, c, j] => if c == ascii "converge" then f.close (.br u p y n (some j)) else broken
      | _ => broken
    if t == ascii "uniform" then
      match ts with
      | [] => { f with uniform := true }
      | b :: r => if b == ascii "br" then branch true r else broken
    else if t == ascii "br" then branch f.uniform ts
    else if t == ascii "jump" then
      match ts with
      | [l] => f.close (.jump l)
      | _ => broken
    else if t == ascii "ret" then (if ts.isEmpty then f.close .ret else broken)
    else if isValue t then
      match ts with
      | e :: o :: args => if e == [0x3D] then f.op [(t.takeWhile (· != 0x3A), (t.dropWhile (· != 0x3A)).drop 1)] o args else broken
      | _ => broken
    else f.op [] t ts

/-- One line of a function: a directive, or a statement with an optional label. -/
def YpfFn.line (f : YpfFn) : List Tok → YpfFn
  | [] => f
  | t :: ts =>
    if f.data || t == ascii ".data" || t == ascii ".const" then { f with data := true }
    else if t.head? == some 0x2E then { f with dirs := f.dirs ++ [t :: ts] }
    else if t.contains 0x3A && !isValue t then
      let rest := (t.dropWhile (· != 0x3A)).drop 1
      (f.newBlock (t.takeWhile (· != 0x3A))).statement (if rest.isEmpty then ts else rest :: ts)
    else f.statement (t :: ts)

/-- The functions of a text, latest first. Text before the first function breaks R42 unless it is a directive. -/
def ypfFns (text : List Byte) : List YpfFn :=
  (splitOn (· == 0x0A) text).foldl (fun fs line =>
    match tokens line with
    | [] => fs
    | t :: ts =>
      if t == ascii ".ypf" then YpfFn.start :: fs
      else match fs with
        | f :: rest => f.line (t :: ts) :: rest
        | [] => if t.head? == some 0x2E then [] else [{ YpfFn.start with bad := true }]) []

/-! ## The kernel record of a function (R35, R38, R42) -/

/-- The number of a role's name. -/
def roleNamed (t : Tok) : Option Nat :=
  (List.range 4).find? fun n => t == ascii (["producer", "consumer", "matrix", "comm"].getD n "")

/-- `c0` or `c0-c1`. -/
def crewRange (t : Tok) : Option (Nat × Nat) :=
  match splitOn (· == 0x2D) t with
  | [a] => (numberOf a).map fun n => (n, n)
  | [a, b] => (numberOf a).bind fun m => (numberOf b).map fun n => (m, n)
  | _ => none

/-- `on` or `off`. -/
def switchOf (t : Tok) : Option Bool := if t == ascii "on" then some true else if t == ascii "off" then some false else none

/-- A record before any directive, with the defaults of R35. DESIGN CHOICE (log 79): R35 gives `.team`, `.role` and `.regs` no default; a function without
them has one crew on one core, a producer, and no vector register. -/
def ypfRecord : KernelRec :=
  { entry := 0, crews := 1, shape := 1, prog := true, audit := false, matrix := false, energy := 0, barriers := 0, queues := 0, tileG := 0,
    scratchG := 0, fastG := [0, 0, 0, 0], slowG := [0, 0, 0, 0], patch0 := 0, patchN := 0, roles := List.replicate 192 0 }

/-- A role given to crews `a` to `b`. -/
def giveRole (k : KernelRec) (a b byte : Nat) : KernelRec :=
  { k with roles := (indexed k.roles).map fun e => if a ≤ e.1 && e.1 ≤ b then byte else e.2 }

/-- One directive of a function (R35): those that make up a kernel record; patch slots, bindings and sections are not a function's own. -/
def directive (k : KernelRec) : List Tok → Option KernelRec
  | [] => some k
  | d :: ts =>
    let is (s : String) : Bool := d == ascii s
    let one (f : Nat → Option KernelRec) : Option KernelRec := match ts with | [a] => (numberOf a).bind f | _ => none
    let two (f : Nat → Nat → Option KernelRec) : Option KernelRec :=
      match ts with | [a, b] => (numberOf a).bind fun m => (numberOf b).bind fun n => f m n | _ => none
    let units (n size : Nat) (f : Nat → KernelRec) : Option KernelRec := if n % size == 0 then some (f (n / size)) else none
    if is ".needs" || is ".equ" then some k
    else if is ".team" then two fun c n => some { k with crews := c, shape := n }
    else if is ".scratch" then one fun n => units n 4096 fun g => { k with scratchG := g }
    else if is ".tiles" then one fun n => units n 64 fun g => { k with tileG := g }
    else if is ".sync" then two fun b q => some { k with barriers := b, queues := q }
    else if is ".energy" then one fun n => some { k with energy := n }
    else if is ".prog" then (match ts with | [a] => (switchOf a).map fun b => { k with prog := b } | _ => none)
    else if is ".audit" then (match ts with | [a] => (switchOf a).map fun b => { k with audit := b } | _ => none)
    else if is ".regs" then
      match ts with
      | [r, f, g] => (roleNamed r).bind fun n => (numberOf f).bind fun f => (numberOf g).bind fun g =>
          if f % 8 == 0 && g % 8 == 0 then some { k with fastG := k.fastG.set n (f / 8), slowG := k.slowG.set n (g / 8) } else none
      | _ => none
    else if is ".role" then
      match ts with
      | r :: n :: c :: rest => (crewRange r).bind fun ab => (roleNamed n).bind fun kind => (numberOf c).bind fun core =>
          let byte (q : Nat) : Nat := kind + 4 * core + 16 * q
          match rest with
          | [] => if kind == 2 then none else some (giveRole k ab.1 ab.2 (byte 0))
          | [q] => if kind == 2 && ab.1 == ab.2 then (numberOf q).map fun q => giveRole k ab.1 ab.2 (byte q) else none
          | _ => none
      | _ => none
    else none

/-- The record that a function's directives and body give; flag [2] where the body holds an M word. -/
def YpfFn.record (f : YpfFn) : Option KernelRec :=
  let mwords : List String := ["mxmma", "mxdrain", "mxzero", "mxfence", "mxstat"]
  let m := f.blocks.any fun b => b.ops.any fun o => mwords.any fun s => baseName o.name == ascii s
  (f.dirs.foldl (fun k d => k.bind fun k => directive k d) (some ypfRecord)).map fun k => { k with matrix := m, roles := k.roles.take k.crews }

/-! ## What a function must obey (R42, R43) -/

/-- The place of the block with a label. -/
def blockAt (bs : List YpfBlock) (l : Tok) : Option Nat := (List.range bs.length).find? fun i => (bs[i]?.map (·.label)) == some l

/-- The blocks that block `i` goes to. -/
def ypfNext (bs : List YpfBlock) (i : Nat) : List Nat :=
  match bs[i]? with
  | none => []
  | some b => match b.stop with
    | .next => [i + 1]
    | .jump l => (blockAt bs l).toList
    | .br _ _ y n _ => (blockAt bs y).toList ++ (blockAt bs n).toList
    | .ret => []

/-- The blocks that paths of at most `n` more steps from `seen` reach without block `j`. -/
def ypfReach (bs : List YpfBlock) (j : Nat) : Nat → List Nat → List Nat
  | 0, seen => seen
  | n + 1, seen => ypfReach bs j n (dedup (seen ++ (seen.flatMap (ypfNext bs)).filter (· != j)))

/-- Every path from block `i` that reaches a `ret` first passes block `j` (R43). -/
def postDominates (bs : List YpfBlock) (j i : Nat) : Bool :=
  let reached := ypfReach bs j bs.length ((ypfNext bs i).filter (· != j))
  !reached.any fun k => (bs[k]?.map (·.stop)) == some YpfEnd.ret

/-- The values assigned in a block. -/
def YpfBlock.defs (b : YpfBlock) : List (Tok × Tok) := b.ops.flatMap YpfOp.defs

/-- The values that an operation reads where it stands; a phi reads at the ends of the blocks it names. -/
def YpfOp.reads (o : YpfOp) : List Tok := if o.name == ascii "phi" then [] else valuesIn o.args

/-- The values that a block's end reads. -/
def YpfEnd.reads : YpfEnd → List Tok
  | .br _ p _ _ _ => [p]
  | _ => []

/-- What the phis of block `j` read from block `i`. -/
def phiReads (bs : List YpfBlock) (i j : Nat) : List Tok :=
  match bs[i]?, bs[j]? with
  | some a, some b => b.ops.flatMap fun o =>
      if o.name == ascii "phi" then (((phiArgs o.args).getD []).filter (·.1 == a.label)).map (·.2) else []
  | _, _ => []

/-- Every phi of block `j` names the blocks before `j`, each once. -/
def phisOk (bs : List YpfBlock) (j : Nat) : Bool :=
  let preds := (List.range bs.length).filter fun i => (ypfNext bs i).contains j
  match bs[j]? with
  | none => true
  | some b => b.ops.all fun o =>
    let ls := ((phiArgs o.args).getD []).map (·.1)
    o.name != ascii "phi" || (ls.length == preds.length && preds.all fun i => match bs[i]? with | some p => ls.contains p.label | none => false)

/-- The block that assigns a value. -/
def defBlock (bs : List YpfBlock) (v : Tok) : Option Nat :=
  (List.range bs.length).find? fun i => match bs[i]? with | some b => (b.defs.map (·.1)).contains v | none => false

/-- Block `d` stands on every path from the entry to block `i`. -/
def dominates (bs : List YpfBlock) (d i : Nat) : Bool := d == i || d == 0 || !(ypfReach bs d bs.length [0]).contains i

/-- Values read before any operation of their block has assigned them, in order. -/
def ypfEarly : List YpfOp → List Tok → List Tok
  | [], _ => []
  | o :: os, seen => (o.reads.filter fun v => !seen.contains v) ++ ypfEarly os (seen ++ o.defs.map (·.1))

/-- Every value is assigned before it is read: a value that joins from several blocks needs a phi (R42). -/
def readsOk (bs : List YpfBlock) (i : Nat) : Bool :=
  match bs[i]? with
  | none => true
  | some b =>
    let above (v : Tok) : Bool := match defBlock bs v with | some d => d != i && dominates bs d i | none => false
    let here (v : Tok) : Bool := match defBlock bs v with | some d => dominates bs d i | none => false
    (ypfEarly b.ops []).all above && b.stop.reads.all here && (ypfNext bs i).all fun j => (phiReads bs i j).all here

/-- The type of a value. -/
def ypfTypeOf (bs : List YpfBlock) (v : Tok) : Tok := ((bs.flatMap YpfBlock.defs).find? (·.1 == v)).elim [] (·.2)

/-- The end of block `i` obeys R42 and R43. -/
def ypfEndOk (bs : List YpfBlock) (i : Nat) (e : YpfEnd) : Bool :=
  let known (l : Tok) : Bool := (blockAt bs l).isSome
  match e with
  | .next => i + 1 < bs.length
  | .ret => true
  | .jump l => known l
  | .br u p y n c => known y && known n && ypfTypeOf bs p == ascii "pred" && match c.map (blockAt bs) with
    | none => u
    | some none => false
    | some (some j) => u || postDominates bs j i

/-- No element occurs twice. -/
def onceEach : List Tok → Bool
  | [] => true
  | t :: ts => !ts.contains t && onceEach ts

/-! ## Registers (R42) -/

/-- The values that a uniform operation may give: `sreg`, and a scalar or lane operation or a phi whose operands are all among `us`. Memory, `laneid` and
exchanges are not uniform. -/
def uniformOps (bs : List YpfBlock) (us : List Tok) : List Tok :=
  bs.flatMap fun b => (b.ops.filter fun o =>
    o.name == ascii "sreg" || (o.name != ascii "laneid" && (valuesIn o.args).all us.contains)).flatMap fun o => o.defs.map (·.1)

/-- The values that no reading of R42 lets stand in a scalar register: `laneid`, and what is computed from one. Whatever else might be uniform is left
out, so that no function is rejected which could fit. -/
def laneValues (bs : List YpfBlock) : List Tok :=
  let all := bs.flatMap fun b => b.defs.map (·.1)
  let may := (List.range (all.length + 1)).foldl (fun us _ => us.filter (uniformOps bs us).contains) all
  all.filter fun v => !may.contains v

/-- Vector registers that a value of a type takes (R24): a pair for 64 bits, none for a predicate. -/
def ypfSize (ty : Tok) : Nat :=
  if ty == ascii "b64" || ty == ascii "i64" then 2 else if ty == ascii "pred" then 0 else 1

/-- What lives before an operation, from what lives after it. -/
def liveOp (o : YpfOp) (live : List Tok) : List Tok := dedup (live.filter (fun v => !(o.defs.map (·.1)).contains v) ++ o.reads)

/-- What lives at each point of a block, first point first, from what lives after it. -/
def livePoints : List YpfOp → List Tok → List (List Tok)
  | [], live => [live]
  | o :: os, live => match livePoints os live with
    | [] => []
    | l :: ls => liveOp o l :: l :: ls

/-- What lives after block `i`, from what lives before each block. -/
def liveAfter (bs : List YpfBlock) (ins : List (List Tok)) (i : Nat) : List Tok :=
  dedup ((match bs[i]? with | some b => b.stop.reads | none => []) ++ (ypfNext bs i).flatMap fun j => ins.getD j [] ++ phiReads bs i j)

/-- What lives before each block. -/
def liveIn (bs : List YpfBlock) : List (List Tok) :=
  (List.range (bs.length + 1)).foldl (fun ins _ =>
    (indexed bs).map fun e => (livePoints e.2.ops (liveAfter bs ins e.1)).headD []) (bs.map fun _ => [])

/-- Registers of one kind that some values take at a point, by size. -/
def sizeOf (size : Tok → Nat) (vs : List Tok) : Nat := (vs.map size).foldl (· + ·) 0

/-- The most vector registers that a function needs at one point: those of values of lanes; and those of uniform values beyond s1 to s63, and of predicates
beyond p1 to p15, which have no other place (R42; log 13). -/
def YpfFn.pressure (f : YpfFn) : Nat :=
  let bs := f.blocks.reverse
  let lanes := laneValues bs
  let ins := liveIn bs
  let ty (v : Tok) : Tok := ypfTypeOf bs v
  let point (live : List Tok) : Nat :=
    let preds := live.filter fun v => ty v == ascii "pred"
    let others := live.filter fun v => ty v != ascii "pred"
    sizeOf (fun v => ypfSize (ty v)) (others.filter lanes.contains) + ((others.filter fun v => !lanes.contains v).length - 63) + (preds.length - 15)
  ((indexed bs).flatMap fun e => (livePoints e.2.ops (liveAfter bs ins e.1)).map point).foldl Nat.max 0

/-- The vector registers that the roles of a function's crews grant, at the least. -/
def granted (k : KernelRec) : Nat :=
  (listMin (k.roles.map fun r => 8 * k.fastG.getD (r % 4) 0 + 8 * k.slowG.getD (r % 4) 0)).getD 0

/-- The values that an operation reads are predicates where its form says so, and not elsewhere; those of a phi are what it assigns; a block that it names
stands in the function. -/
def opTypesOk (bs : List YpfBlock) (o : YpfOp) : Bool :=
  let isPred (v : Tok) : Bool := ypfTypeOf bs v == ascii "pred"
  if o.name == ascii "phi" then ((phiArgs o.args).getD []).all fun a => o.defs.all fun d => isPred a.2 == (d.2 == ascii "pred")
  else if o.name == ascii "laneid" || o.name == ascii "sreg" then true
  else match ypfOpForm o.defs o.name o.args with
    | none => false
    | some r => r.2.all (fun v => isPred v.1 == v.2) && (o.name != ascii "cyield" || (o.args.getLast?.bind (blockAt bs)).isSome)

/-- The function breaks a rule of R42 or R43. -/
def YpfFn.breaks (f : YpfFn) : Bool :=
  let bs := f.blocks.reverse
  let names := bs.flatMap fun b => b.defs.map (·.1)
  f.bad || !onceEach names || bs.any (fun b => !b.ops.all (opTypesOk bs)) || !onceEach ((bs.map (·.label)).filter fun l => !l.isEmpty) ||
    (List.range bs.length).any (fun i => !readsOk bs i || !phisOk bs i || match bs[i]? with | some b => !ypfEndOk bs i b.stop | none => false) ||
    (match f.record with | some k => granted k < f.pressure | none => true)

/-- The functions of a text in order; none where it holds none, or one breaks a rule (R42, R43). -/
def ypfAccepts (text : List Byte) : Option (List YpfFn) :=
  let fs := (ypfFns text).reverse
  if fs.isEmpty || fs.any YpfFn.breaks then none else some fs

end Sys2Proof.Machine
end

