-- ==== Sys2Proof/Machine/YpfCode.lean ====
section
/-!
DEFINITION. The code that the translator gives a YPF function (R42, R43; log 13): `Config.ypfCode` names it, and what the manual says of it is checked here.
-/

namespace Sys2Proof.Machine

/-- The device's feature mask (R31, R32): bits 0 to 95. -/
def deviceMask : Nat := 2 ^ 96 - 1

/-- A function's translation: its scalar words, its lane words, and the index of the lane word at which each of its blocks begins. -/
structure YpfText where
  scode  : List (BitVec 32)
  lcode  : List (BitVec 96)
  places : List Nat

/-- The translation by section text and the device's feature mask alone (R43). -/
def ypfText (text : List Byte) (n : Nat) : Option YpfText :=
  (Config.ypfCode text deviceMask n).map fun r => { scode := r.1, lcode := r.2.1, places := r.2.2 }

/-- The operations of the blocks that the entry reaches. -/
def reachedOps (bs : List YpfBlock) : List YpfOp :=
  let seen := ypfReach bs bs.length bs.length [0]
  (indexed bs).flatMap fun e => if seen.contains e.1 then e.2.ops else []

/-- The opcode of an operation's form; none for YPF's own operations. -/
def YpfOp.code (o : YpfOp) : Option Nat := (ypfOpForm o.defs o.name o.args).map (·.1)

/-- The opcodes in a translation. -/
def YpfText.codes (x : YpfText) : List Nat := x.scode.map (fun w => scalarOpOf w.toNat) ++ x.lcode.map fun w => w.toNat % 256

/-- An operation whose values are uniform may stand in the scalar stream under another name (R42). -/
def YpfOp.moves (bs : List YpfBlock) (o : YpfOp) : Bool := !o.defs.isEmpty && o.defs.all fun d => !(laneValues bs).contains d.1

/-- The words for the operations of a body (R42): each stands in the code under its own opcode. -/
def lowersOps (bs : List YpfBlock) (x : YpfText) : Bool :=
  (reachedOps bs).all fun o => match o.code with | some n => o.moves bs || x.codes.contains n | none => true

/-- A word reaches memory, the scratchpad, a queue, a list or the fabric. -/
def touchesMemory (n : Nat) : Bool := (0x60 ≤ n && n ≤ 0x73) || (0xF0 ≤ n && n ≤ 0xF6) || (scalarCode 0x20 0 ≤ n && n ≤ scalarCode 0x2A 0)

/-- The translator never keeps a value in memory (R42): the code's memory words are those of the body. -/
def noSpill (bs : List YpfBlock) (x : YpfText) : Bool :=
  let ns := (bs.flatMap YpfBlock.ops).filterMap YpfOp.code
  (x.codes.filter touchesMemory).all ns.contains

/-- The number of a special register of one name (R116). -/
def specialNumber (t : Tok) : Option Nat :=
  let ones : List (String × Nat) :=
    [("CREWID", 0x00), ("TEAMID", 0x01), ("TEAMDIM", 0x02), ("GRIDDIM", 0x03), ("ROLE", 0x04), ("CORE", 0x05), ("DIE", 0x06), ("REFTIME", 0x07),
     ("CYCLES", 0x08), ("ASTAT", 0x09), ("FAIRT", 0x0A), ("PREQ", 0x0B), ("PDEAD", 0x0C), ("SKEW", 0x0D), ("TSCR0", 0x18), ("TSCR1", 0x19),
     ("DATABASE", 0x1A), ("CONSTBASE", 0x1B), ("TWORD0", 0x1C), ("TWORD1", 0x1D), ("TCAUSE", 0x20), ("TSPC", 0x21), ("TLPC", 0x22), ("TEXEC", 0x23),
     ("TFMASK", 0x24), ("TINFO", 0x25), ("TADDR", 0x26), ("TVEC", 0x27)]
  let runs : List (String × Nat × Nat) := [("FEAT", 0x10, 8), ("TSPLIT", 0x28, 8), ("CCDONE", 0x30, 8), ("CCISSUED", 0x38, 8), ("TILE", 0x40, 16)]
  ((ones.find? fun e => t == ascii e.1).map (·.2)).or (runs.findSome? fun r => (List.range r.2.2).findSome? fun n =>
    if t == ascii r.1 ++ ascii (toString n) then some (r.2.1 + n) else none)

/-- The sources of a lane word. -/
def laneSources (w : BitVec 96) : List Src := match laneFields w.toNat with | some f => [f.a, f.b, f.c] | none => []

/-- YPF's own operations (R42): `laneid` is source LANEID of a lane word, each `sreg` an SRD of its register in the scalar stream. -/
def lowersUniform (bs : List YpfBlock) (x : YpfText) : Bool :=
  let ops := reachedOps bs
  let srd (n : Nat) : Bool := x.scode.any fun w => scalarOpOf w.toNat == scalarCode 0x30 0 && w.toNat % 256 == n
  (!ops.any (fun o => o.name == ascii "laneid") || x.lcode.any fun w => (laneSources w).contains .laneId) &&
    ops.all fun o => o.name != ascii "sreg" || match o.args with
      | [t] => (match specialNumber t with | some n => srd n | none => false)
      | _ => false

/-- A vector register lies in what a role's `.regs` line grants (R30, R42). -/
def grantedReg (k : KernelRec) (n : Nat) : Bool :=
  k.roles.all fun r => n < 8 * k.fastG.getD (r % 4) 0 || (192 ≤ n && n < 192 + 8 * k.slowG.getD (r % 4) 0)

/-- The translator never raises the counts (R42): the code names registers that every role of the function owns. -/
def keepsGrants (k : KernelRec) (x : YpfText) : Bool :=
  x.lcode.all fun w => let u := laneUse (laneInstr w.toNat); (u.readV ++ u.writeV).all (grantedReg k)

/-- The index that the join displacement of a BRL at index `i` names (R170). -/
def brlJoin (w : BitVec 96) (i : Nat) : Int := i + ((w.extractLsb' 80 16).toInt)

/-- The words of a block: from its place to the next place of the function's blocks. -/
def inBlock (x : YpfText) (i idx : Nat) : Bool :=
  let p := x.places.getD i 0
  p ≤ idx && !x.places.any fun q => p < q && q ≤ idx

/-- A function's branches are lowered (R43): one that is not uniform to a BRL of its block whose join is the JOIN that begins the converge block, and there
is no other BRL. -/
def lowersBranches (bs : List YpfBlock) (x : YpfText) : Bool :=
  let brls := (indexed x.lcode).filter fun e => e.2.toNat % 256 == 0x50
  let isJoin (j : Nat) : Bool := match x.lcode[j]? with | some w => w.toNat % 256 == 0x51 | none => false
  let lowers (e : Nat × BitVec 96) (b : Nat × YpfBlock) : Bool := match b.2.stop with
    | .br false _ _ _ (some c) => inBlock x b.1 e.1 && (match blockAt bs c with
      | some j => brlJoin e.2 e.1 == (x.places.getD j 0 : Int) && isJoin (x.places.getD j 0)
      | none => false)
    | _ => false
  let diverges (b : Nat × YpfBlock) : Bool := match b.2.stop with | .br u _ _ _ _ => !u | _ => false
  x.places.length == bs.length && brls.all (fun e => (indexed bs).any (lowers e)) &&
    ((indexed bs).filter diverges).all fun b => brls.any fun e => lowers e b

/-- The streams end (R42): the scalar code with END, and lane code that stands is begun by an LRUN and ends with LEND. -/
def endsStreams (x : YpfText) : Bool :=
  let has (n : Nat) : Bool := x.codes.contains n
  has (scalarCode 0x4E 0) && (x.lcode.isEmpty || ((has (scalarCode 0x38 0) || has (scalarCode 0x39 0)) && has 0x52))

/-- The code is a translation of the function, as far as the manual says what one is. -/
def YpfText.of (x : YpfText) (f : YpfFn) (k : KernelRec) : Bool :=
  let bs := f.blocks.reverse
  lowersOps bs x && noSpill bs x && lowersUniform bs x && keepsGrants k x && lowersBranches bs x && endsStreams x

end Sys2Proof.Machine
end

