-- ==== Sys2Proof/Machine/Objects.lean ====
section
/-!
DEFINITION. Code objects (R36 to R43): header and section table, bindings, kernel records, patch slots, and the checks that a loader
makes on them (R39 to R41, R367).
-/

namespace Sys2Proof.Machine

/-- A code object once its sections are read: kinds with their bytes, and the required-feature mask as a number. -/
structure Obj where
  secs : List (Nat × List Byte)
  mask : Nat
  deriving DecidableEq, Repr

/-- A section of the table (R36). -/
structure SectEntry where
  kind : Nat
  off  : Nat
  size : Nat
  deriving DecidableEq, Repr

/-- Bytes of the header (R36). -/
def objHeaderBytes : Nat := 0x100

/-- The header obeys R36: magic, header size, 1 to 8 sections, reserved fields, an object size that covers header and table. -/
def headerOk (h : List Byte) : Bool :=
  leAt h 0 4 == 0x4C594E5A && leAt h 4 4 == 0x100 && 1 ≤ leAt h 0x48 4 && leAt h 0x48 4 ≤ 8 && leAt h 0x4C 4 == 0 &&
    leAt h 0x58 168 == 0 && 0x100 + 16 * leAt h 0x48 4 ≤ leAt h 0x50 8

/-- The section table in its bytes: kind, offset, size; none where a reserved field is not 0. -/
def sectTable (bs : List Byte) : Nat → Option (List SectEntry)
  | 0 => some []
  | n + 1 =>
    if leAt bs 4 4 != 0 then none
    else (sectTable (bs.drop 16) n).map fun es => { kind := leAt bs 0 4, off := leAt bs 8 4, size := leAt bs 12 4 } :: es

/-- Bytes of one entry of a section kind (R36). -/
def sectUnit (kind : Nat) : Nat :=
  if kind == 1 then 4 else if kind == 2 then 12 else if kind == 5 || kind == 7 then 16 else if kind == 6 then 256 else 1

/-- The section table obeys R36: kinds 1 to 8 once each, offsets, sizes, one of the two sets of sections; the code sections obey R17. DESIGN CHOICE
(log 70): a section whose size is no multiple of its entries' is malformed too. -/
def tableOk (size : Nat) (es : List SectEntry) : Bool :=
  let has (k : Nat) : Bool := es.any (·.kind == k)
  es.all (fun e => 1 ≤ e.kind && e.kind ≤ 8 && e.off % 64 == 0 && e.off + e.size ≤ size && e.size % sectUnit e.kind == 0 &&
      (es.filter (·.kind == e.kind)).length == 1) &&
    es.all (fun e => (e.kind != 1 && e.kind != 2) || e.size / sectUnit e.kind ≤ 2 ^ 22) &&
    (if has 8 then es.all fun e => e.kind == 3 || e.kind == 4 || e.kind == 8 else has 1 && has 2)

/-- The bytes of a section; none for a kind that the object lacks. -/
def Obj.sec (o : Obj) (kind : Nat) : List Byte := ((o.secs.find? (·.1 == kind)).map (·.2)).getD []
/-- The object holds a section of a kind. -/
def Obj.has (o : Obj) (kind : Nat) : Bool := o.secs.any (·.1 == kind)

/-- Entry `n` of a list of entries of `size` bytes. -/
def entryAt (bs : List Byte) (size n : Nat) : List Byte := (bs.drop (size * n)).take size
/-- The entries of a section. -/
def entries (bs : List Byte) (size : Nat) : List (List Byte) := (List.range (bs.length / size)).map (entryAt bs size)

/-- `.scode` as words. -/
def Obj.scode (o : Obj) : List W32 := (entries (o.sec 1) 4).map fun b => w32 (leNat b)
/-- `.lcode` as words. -/
def Obj.lcode (o : Obj) : List (BitVec 96) := (entries (o.sec 2) 12).map fun b => BitVec.ofNat 96 (leNat b)

/-- The bindings: feature bit and `.scode` entry. -/
def Obj.bindings (o : Obj) : List (Nat × Nat) := (entries (o.sec 5) 16).map fun b => (leAt b 0 2, leAt b 4 4)

/-- Strictly rising. -/
def rising : List Nat → Bool
  | a :: b :: r => a < b && rising (b :: r)
  | _ => true

/-- Kind 5 obeys R36: reserved fields, ascending bits without repeat, entries inside `.scode`. -/
def bindingsOk (o : Obj) : Bool :=
  (entries (o.sec 5) 16).all (fun b => leAt b 2 2 == 0 && leAt b 8 8 == 0) && rising (o.bindings.map (·.1)) &&
    o.bindings.all fun b => b.2 < (o.sec 1).length / 4

/-- Kind 7: the patch slots with their defaults. -/
def Obj.slots (o : Obj) : List PatchSlot :=
  (entries (o.sec 7) 16).map fun b => { word := leAt b 0 4, sect := leAt b 4 1, value := w32 (leAt b 8 4) }

/-- The opcodes of format S-I (R20). -/
def scalarI (op : Nat) : Bool :=
  (0x02 ≤ op && op ≤ 0x0A) || op == 0x18 || (0x20 ≤ op && op ≤ 0x28) || op == 0x30 || op == 0x31 || op == 0x3B || op == 0x3C ||
    (0x40 ≤ op && op ≤ 0x42) || op == 0x45 || op == 0x48 || op == 0x4A || op == 0x4C || op == 0x50 || op == 0x58 || op == 0x59

/-- A 32-bit value sign-extends from its low `n` bits. -/
def fitsSigned (n : Nat) (v : W32) : Bool := (BitVec.ofNat n v.toNat).signExtend 32 == v

/-- A value fits a slot of the object; false too where the slot names a word that cannot be patched (R40). -/
def slotFits (o : Obj) (sect word : Nat) (v : W32) : Bool :=
  if sect == 1 then
    match (o.scode)[word]? with
    | none => false
    | some w =>
      let op := w.toNat / 2 ^ 25
      if scalarU op then fitsSigned 19 v else scalarI op && fitsSigned 13 v
  else if sect == 2 then
    match (o.lcode)[word]? with
    | none => false
    | some w =>
      let op := w.toNat % 256
      if 0xE0 ≤ op && op ≤ 0xE4 then 1 ≤ v.toNat && v.toNat ≤ 65535 else laneAssigned op || (0xC0 ≤ op && op ≤ 0xDF)
  else false

/-- Kind 7 obeys R36 and R40. -/
def slotsOk (o : Obj) : Bool :=
  (entries (o.sec 7) 16).all (fun b => leAt b 5 3 == 0 && leAt b 12 4 == 0) && o.slots.all fun p => slotFits o p.sect p.word p.value

/-- Acceptance check 2 on an object whose header and table are read (R36, R40). -/
def objOk (o : Obj) : Bool := bindingsOk o && slotsOk o

/-- The bytes of a kernel record (R38). -/
def recordBytes (k : KernelRec) : List Byte :=
  leBytes 4 k.entry ++ leBytes 2 k.crews ++ leBytes 1 k.shape ++ leBytes 1 (flag k.prog + 2 * flag k.audit + 4 * flag k.matrix) ++
    leBytes 1 k.energy ++ leBytes 1 0 ++ leBytes 2 k.barriers ++ leBytes 1 k.queues ++ leBytes 1 0 ++ leBytes 2 k.tileG ++ leBytes 4 k.scratchG ++
    k.fastG.flatMap (leBytes 1) ++ k.slowG.flatMap (leBytes 1) ++ leBytes 36 0 ++ k.roles.flatMap (leBytes 1) ++ leBytes (192 - k.crews) 0

/-- What the translation of a section's functions has made so far: `.scode`, `.lcode` and the kernel records, in the order in which the functions
stand (R42). -/
structure YpfOut where
  scode   : List (BitVec 32)
  lcode   : List (BitVec 96)
  records : List KernelRec

/-- One function more (R42, R43; log 13): its code, which enters at its own first scalar word, and its record; or translation fails. -/
def YpfOut.add (o : YpfOut) (text : List Byte) (n : Nat) (f : YpfFn) : Option YpfOut :=
  match f.record, ypfText text n with
  | some k, some x =>
    if x.of f k then
      some { scode := o.scode ++ x.scode, lcode := o.lcode ++ x.lcode, records := o.records ++ [{ k with entry := o.scode.length }] }
    else none
  | _, _ => none

/-- The functions of a section translated in turn. -/
def translateFns (text : List Byte) : List (Nat × YpfFn) → YpfOut → Option YpfOut
  | [], o => some o
  | (n, f) :: fs, o => (o.add text n f).bind (translateFns text fs)

/-- The object that a launch runs: that of a YPF section is its translation with the object's own data sections and mask, without patch slots and
bindings (R42, R344). -/
def translated (o : Obj) : Option Obj :=
  if !o.has 8 then some o
  else (ypfAccepts (o.sec 8)).bind fun fs =>
    (translateFns (o.sec 8) (indexed fs) { scode := [], lcode := [], records := [] }).bind fun t =>
      if 2 ^ 22 < t.scode.length || 2 ^ 22 < t.lcode.length then none
      else some { o with secs :=
        [(1, t.scode.flatMap fun w => leBytes 4 w.toNat), (2, t.lcode.flatMap fun w => leBytes 12 w.toNat),
         (6, t.records.flatMap recordBytes)] ++ o.secs.filter fun e => e.1 == 3 || e.1 == 4 }

/-- A device without the feature of a bit needs a binding for it (R41). The SA2 has bits 0 to 95 (R31, R32). -/
def featuresOk (o : Obj) : Bool :=
  (List.range 512).all fun b => b < 96 || o.mask / 2 ^ b % 2 == 0 || o.bindings.any (·.1 == b)

/-- The bindings that the device installs: those of bits it lacks (R41). -/
def Obj.installed (o : Obj) : List (Nat × Nat) := o.bindings.filter fun b => 96 ≤ b.1

/-- A kernel record (R38). -/
def kernelOf (b : List Byte) : KernelRec :=
  let crews := leAt b 4 2
  let flags := leAt b 7 1
  { entry := leAt b 0 4, crews := crews, shape := leAt b 6 1, prog := flags % 2 == 1, audit := flags / 2 % 2 == 1,
    matrix := flags / 4 % 2 == 1, energy := leAt b 8 1, barriers := leAt b 0x0A 2, queues := leAt b 0x0C 1, tileG := leAt b 0x0E 2,
    scratchG := leAt b 0x10 4, fastG := (List.range 4).map (fun i => leAt b (0x14 + i) 1),
    slowG := (List.range 4).map (fun i => leAt b (0x18 + i) 1), patch0 := leAt b 0x1C 2, patchN := leAt b 0x1E 2,
    roles := (List.range crews).map fun i => leAt b (0x40 + i) 1 }

/-- Role, core index and quadrant of a role-table byte (R38). -/
def roleKind (r : Nat) : Nat := r % 4
def roleCore (r : Nat) : Nat := r / 4 % 4
def roleQuad (r : Nat) : Nat := r / 16 % 4

/-- A role-table byte lies in its limits (R38). -/
def roleOk (shape r : Nat) : Bool := r < 64 && roleCore r < shape && (roleKind r == 2 || roleQuad r == 0)

/-- The record's fields lie in their limits (R38). -/
def kernelFieldsOk (o : Obj) (b : List Byte) (k : KernelRec) : Bool :=
  k.entry < (o.sec 1).length / 4 && 1 ≤ k.crews && k.crews ≤ 192 && (k.shape == 1 || k.shape == 2 || k.shape == 4) &&
    leAt b 7 1 < 8 && k.energy ≤ 3 && leAt b 9 1 == 0 && leAt b 0x0D 1 == 0 && leAt b 0x20 32 == 0 &&
    k.barriers ≤ (if k.shape == 1 then 512 else 448) && k.queues ≤ 64 && k.tileG ≤ 64 && k.scratchG ≤ 768 &&
    k.fastG.all (· ≤ 24) && k.slowG.all (· ≤ 8) && k.patchN ≤ 64 &&
    (if k.patchN == 0 then k.patch0 == 0 else k.patch0 + k.patchN ≤ (o.sec 7).length / 16) && leAt b (0x40 + k.crews) (192 - k.crews) == 0

/-- The role table obeys R39. -/
def rolesOk (k : KernelRec) : Bool :=
  let on (i : Nat) : List Nat := k.roles.filter fun r => roleCore r == i
  let quads (i : Nat) : List Nat := ((on i).filter (roleKind · == 2)).map roleQuad
  k.roles.all (roleOk k.shape) && (List.range 4).all (fun i => (on i).length ≤ 48) && (k.roles.filter (roleKind · == 3)).length ≤ 1 &&
    (List.range k.shape).all fun i =>
      if k.matrix then (quads i).length == 4 && (List.range 4).all (quads i).contains else (quads i).isEmpty

/-- An audited kernel holds none of the words of R367. -/
def auditable (o : Obj) : Bool :=
  o.scode.all (fun w => let op := w.toNat / 2 ^ 25; op != 0x58 && op != 0x59 && op != 0x62) &&
    o.lcode.all fun w =>
      let op := w.toNat % 256
      op != 0x73 && !(0xF0 ≤ op && op ≤ 0xF6) && !(op == 0x67 && bitsOf w 54 51 == 2)

/-- Acceptance check 4 (R345): KREC inside kind 6, R39, R367. -/
def kernelAt (o : Obj) (n : Nat) : Option KernelRec :=
  if (o.sec 6).length / 256 ≤ n then none
  else
    let b := entryAt (o.sec 6) 256 n
    let k := kernelOf b
    if kernelFieldsOk o b k && rolesOk k && (!k.audit || auditable o) then some k else none

/-- The kernel's slots with the values of a launch (R40). -/
def patchValues (o : Obj) (k : KernelRec) (bs : List Byte) : List PatchSlot :=
  (indexed ((o.slots.drop k.patch0).take k.patchN)).map fun e => { e.2 with value := w32 (leAt bs (4 * e.1) 4) }

/-- An entry of a region table (R281). -/
def regionOf (b : List Byte) : RegionEntry :=
  let f := leAt b 0x19 1
  { gbase := w64 (leAt b 0 8), tstride := w64 (leAt b 8 8), soff := leAt b 0x10 4, len := leAt b 0x14 4, core := leAt b 0x18 1,
    valid := f % 2 == 1, fill := f / 2 % 2 == 1, wb := f / 4 % 2 == 1 }

/-- An entry obeys R281 alone. -/
def regionOk (k : KernelRec) (b : List Byte) : Bool :=
  let r := regionOf b
  if !r.valid then leNat b == 0
  else r.gbase.toNat % 256 == 0 && r.tstride.toNat % 256 == 0 && r.soff % 256 == 0 && r.len % 256 == 0 && 256 ≤ r.len &&
    r.soff + r.len ≤ k.scratchG * 4096 && r.core < k.shape && leAt b 0x19 1 < 8 && leAt b 0x1A 6 == 0

/-- Two valid entries overlap on one core (R281). -/
def regionsMeet (a b : RegionEntry) : Bool := a.valid && b.valid && a.core == b.core && overlaps a.soff a.len b.soff b.len

/-- No two entries of a list overlap. -/
def regionsApart : List RegionEntry → Bool
  | [] => true
  | r :: rs => rs.all (fun q => !regionsMeet r q) && regionsApart rs

/-- The region table of 256 bytes, if it obeys R281. -/
def regionTable (k : KernelRec) (bs : List Byte) : Option (List RegionEntry) :=
  let es := entries bs 32
  let rs := es.map regionOf
  if es.all (regionOk k) && regionsApart rs then some rs else none

/-- A launch record (R343). -/
def recordOf (b : List Byte) : LaunchRec :=
  { obj := w64 (leAt b 0 8), krec := leAt b 8 4, grid := leAt b 0x10 8, patch := w64 (leAt b 0x18 8), region := w64 (leAt b 0x20 8),
    wlbase := w64 (leAt b 0x28 8), wlcap := leAt b 0x30 4, auditk := leAt b 0x34 1, auditSeed := w64 (leAt b 0x38 8),
    coreset := BitVec.ofNat 128 (leAt b 0x40 16), dataVa := w64 (leAt b 0x50 8), constVa := w64 (leAt b 0x58 8) }

/-- The cores that CORESET may name on device `dev` (R343): in split mode only those of the device's own die. -/
def coresetMask (dev : Nat) : Nat :=
  (if dev == 2 then 0 else 2 ^ 40 - 1) + (if dev == 1 then 0 else (2 ^ 40 - 1) * 2 ^ 64)

/-- Acceptance check 1 (R343, R14), in every limit that does not depend on the object. -/
def recordOk (dev : Nat) (b : List Byte) : Bool :=
  let r := recordOf b
  r.obj.toNat % 64 == 0 && leAt b 0x0C 4 == 0 && 1 ≤ r.grid && r.grid ≤ 2 ^ 32 && r.patch.toNat % 4 == 0 && r.region.toNat % 256 == 0 &&
    r.wlbase.toNat % 4096 == 0 && (r.wlcap != 0 || r.wlbase == 0) && r.wlcap ≤ 2 ^ 20 &&
    (r.auditk == 0 || (4 ≤ r.auditk && r.auditk ≤ 20)) && leAt b 0x35 3 == 0 && r.coreset.toNat &&& coresetMask dev == r.coreset.toNat &&
    r.dataVa.toNat % 64 == 0 && r.constVa.toNat % 64 == 0 && leAt b 0x60 32 == 0

end Sys2Proof.Machine
end

