-- ==== Sys2Proof/Machine/Launch.lean ====
section
/-!
DEFINITION. Submission queues and commands (R338 to R346, R387, R391), acceptance of a LAUNCH (R343 to R346, R37) and the completion of
commands (R352).
-/

namespace Sys2Proof.Machine

/-! ## Queues -/

/-- A queue of a device. -/
def queueOf (s : State) (dev n : Nat) : Option SubQueue := kget (devOf s dev).queues n
/-- Changes a queue. -/
def modQueue (s : State) (dev n : Nat) (f : SubQueue → SubQueue) : State := modDev s dev fun d => { d with queues := kmod d.queues n f }

/-- The 64 bytes of a command that obeys R339. -/
def commandBytes (kind : Nat) (a b : W64) : List Byte :=
  leBytes 8 kind ++ leBytes 8 a.toNat ++ leBytes 8 b.toNat ++ leBytes 40 0

/-- An entry for a command (R341, R342). -/
def commandEntry (dev queue kind code index : Nat) (bytes : List Byte) (detail : Nat) : JEntry :=
  { kind := kind, code := code, queue := queue, die := devDie dev, index := index, digest := sha3 bytes, detail := detail }

/-- The queue goes on to its next command: CONS is written at its descriptor (R338). -/
def advanceQueue (s : State) (dev n : Nat) : State :=
  match queueOf s dev n with
  | none => s
  | some q =>
    let cons := (q.cons + 1) % 2 ^ 32
    let s := mpWrite s dev (q.desc + 12) (leBytes 4 cons)
    modQueue s dev n fun q => { q with cons := cons, waits := [], got := q.got.filter (·.1) }

/-- A command is outstanding until it completes (R339). -/
def openCommand (s : State) (dev n index : Nat) (launch : Option Nat) : State :=
  modQueue s dev n fun q => { q with open_ := q.open_ ++ [{ index := index, launch := launch }] }

/-- A command of a queue has completed. -/
def closeCommand (s : State) (dev n index : Nat) : State :=
  modQueue s dev n fun q => { q with open_ := q.open_.filter (·.index != index) }

/-- A rejected entry, and the queue's next command (R340, R346). -/
def rejectCommand (s : State) (dev n index reason : Nat) (bytes : List Byte) (detail : Nat) : State :=
  advanceQueue (journal s dev (commandEntry dev n 3 reason index bytes detail)) dev n

/-! ## The device's accesses for a command (R321, R340) -/

/-- What a step of a command's work answers: it goes on, holds on a page, or rejects the command with a reason and an address. -/
inductive Cmd (α : Type) where
  | ok (s : State) (a : α)
  | hold (s : State)
  | reject (s : State) (reason addr : Nat)

/-- One step after another. -/
def Cmd.bind {α β : Type} (c : Cmd α) (f : State → α → Cmd β) : Cmd β :=
  match c with
  | .ok s a => f s a
  | .hold s => .hold s
  | .reject s r a => .reject s r a

/-- A check of R345: `reason` where it fails. -/
def Cmd.check {α : Type} (s : State) (b : Bool) (reason addr : Nat) (f : Unit → Cmd α) : Cmd α := if b then f () else .reject s reason addr

/-- No logical core: the memory processor walks for itself. -/
def noCore : Nat := 4096

/-- The record of a command's access (R321). -/
def commandRecord (dev n vp kind access : Nat) : FaultRec :=
  { vp := vp, kind := kind, access := access, lowLane := 0xFF, core := 0xFF, slot := 0xFF, die := devDie dev, word := n % 64 }

/-- A command's access to one page (R340): its physical address; or it holds, with a record when none is unanswered; or it fails. -/
def commandPage (s : State) (dev n : Nat) (va : W64) (acc : Acc) (access : Nat) : Cmd Nat :=
  match queueOf s dev n with
  | none => .hold s
  | some q =>
    let vp := va.toNat / 4096
    if refused q.waits vp then .reject s 9 va.toNat
    else match checkLane s (devDie dev) noCore dev q.ctx va 1 acc false with
    | (s, .ok pa) => .ok s pa
    | (s, .absent) =>
      if waiting q.waits vp then .hold s
      else match writeRecords s q.ctx [commandRecord dev n vp 0 access] with
        | none => .hold s
        | some s => .hold (modQueue s dev n fun q => { q with waits := q.waits.filter (·.vp != vp) ++ [{ vp := vp, answer := none }] })
    | (s, .fail _ _ detail) =>
      if detail == 6 || detail == 7 then
        match writeRecords s q.ctx [commandRecord dev n vp (if detail == 6 then 2 else 3) access] with
        | none => .hold s
        | some s => .reject s 9 va.toNat
      else .reject s 9 va.toNat

/-- The parts of `[va, va + n)` in its pages: address and length. -/
def pageParts (va : W64) (n : Nat) : List (W64 × Nat) :=
  let first := va.toNat % 4096
  (List.range ((first + n + 4095) / 4096)).map fun i =>
    let lo := Nat.max first (4096 * i)
    (va + w64 (lo - first), Nat.min (first + n) (4096 * (i + 1)) - lo)

/-- Every page of some parts is translated, in order. -/
def commandPages (s : State) (dev n : Nat) (acc : Acc) (access : Nat) : List (W64 × Nat) → Cmd (List (Nat × Nat))
  | [] => .ok s []
  | (va, len) :: ps =>
    (commandPage s dev n va acc access).bind fun s pa =>
      (commandPages s dev n acc access ps).bind fun s rest => .ok s ((pa, len) :: rest)

/-- Reads translated parts; what stands behind a poison responder is not read (R386; log 10). -/
def readParts (s : State) (dev : Nat) : List (Nat × Nat) → State × List Byte
  | [] => (s, [])
  | (pa, len) :: ps =>
    let r := readHome s none dev (devDie dev) pa len
    let q := readParts r.1 dev ps
    (q.1, mpRead r.1 dev pa len ++ q.2)

/-- Writes translated parts, at system scope. -/
def writeParts (s : State) (dev : Nat) : List (Nat × Nat) → List Byte → State
  | [], _ => s
  | (pa, len) :: ps, bs => writeParts (mpWrite s dev pa (bs.take len)) dev ps (bs.drop len)

/-- A command reads `len` bytes at a virtual address of its queue's context. -/
def commandRead (s : State) (dev n : Nat) (va : W64) (len : Nat) : Cmd (List Byte) :=
  (commandPages s dev n .load 0x01 (pageParts va len)).bind fun s ps =>
    let r := readParts s dev ps
    .ok r.1 r.2

/-! ## Acceptance of a LAUNCH (R344, R345) -/

/-- What an acceptance has read (R344). -/
def gotBytes (s : State) (dev n : Nat) (arm : Bool) (a len : Nat) : Option (List Byte) :=
  (queueOf s dev n).bind fun q => (q.got.find? fun e => e.1 == arm && e.2.1 == a && e.2.2.length == len).map (·.2.2)

/-- Keeps what an acceptance reads until it is over (R344). -/
def keepBytes (s : State) (dev n : Nat) (arm : Bool) (a : Nat) (bs : List Byte) : State :=
  modQueue s dev n fun q => { q with got := (arm, a, bs) :: q.got }

/-- An acceptance reads `len` bytes of its queue's context once, however often it holds (R344). `arm` tells that of a GANG_ARM. -/
def readOnce (s : State) (dev n : Nat) (arm : Bool) (va : W64) (len : Nat) : Cmd (List Byte) :=
  match gotBytes s dev n arm va.toNat len with
  | some bs => .ok s bs
  | none => (commandRead s dev n va len).bind fun s bs => .ok (keepBytes s dev n arm va.toNat bs) bs

/-- Reads the sections of an object. -/
def readSections (s : State) (dev n : Nat) (arm : Bool) (obj : W64) : List SectEntry → Cmd (List (Nat × List Byte))
  | [] => .ok s []
  | e :: es =>
    (readOnce s dev n arm (obj + w64 e.off) e.size).bind fun s bs =>
      (readSections s dev n arm obj es).bind fun s rest => .ok s ((e.kind, bs) :: rest)

/-- Check 2: the object is read and obeys R36; a YPF object translates (R42, R43); the data addresses stand for its data sections. -/
def acceptObject (s : State) (dev n : Nat) (arm : Bool) (r : LaunchRec) : Cmd (List SectEntry × Obj × Obj) :=
  let obj := r.obj
  let at_ := obj.toNat
  (readOnce s dev n arm obj objHeaderBytes).bind fun s h => Cmd.check s (headerOk h) 2 at_ fun _ =>
    (readOnce s dev n arm (obj + 0x100) (16 * leAt h 0x48 4)).bind fun s tb =>
      match sectTable tb (leAt h 0x48 4) with
      | none => .reject s 2 at_
      | some es => Cmd.check s (tableOk (leAt h 0x50 8) es) 2 at_ fun _ =>
        (readSections s dev n arm obj es).bind fun s secs =>
          let o : Obj := { secs := secs, mask := leAt h 8 64 }
          Cmd.check s (objOk o) 2 at_ fun _ =>
            match translated o with
            | none => .reject s 2 at_
            | some t => Cmd.check s ((r.dataVa != 0) == o.has 3 && (r.constVa != 0) == o.has 4) 2 at_ fun _ => .ok s (es, o, t)

/-- Check 5: the patch values. -/
def acceptPatch (s : State) (dev n : Nat) (arm : Bool) (r : LaunchRec) (ra : Nat) (o : Obj) (k : KernelRec) : Cmd (List PatchSlot) :=
  Cmd.check s ((r.patch == 0) == (k.patchN == 0)) 5 ra fun _ =>
    (readOnce s dev n arm r.patch (4 * k.patchN)).bind fun s bs =>
      let ps := patchValues o k bs
      Cmd.check s (ps.all fun p => slotFits o p.sect p.word p.value) 5 r.patch.toNat fun _ => .ok s ps

/-- Check 6: the region table. -/
def acceptRegions (s : State) (dev n : Nat) (arm : Bool) (r : LaunchRec) (k : KernelRec) : Cmd (List RegionEntry) :=
  if r.region == 0 then .ok s []
  else (readOnce s dev n arm r.region 256).bind fun s bs =>
    match regionTable k bs with
    | some rs => .ok s rs
    | none => .reject s 6 r.region.toNat

/-- The logical core at a position (R271). -/
def coreAtPos (c r : Nat) : Option Nat := if c < 6 && 6 * r + c < 40 then some (6 * r + c) else none

/-- The clusters of a shape whose lowest core is `low`, across before down (R271, R348). -/
def clustersFrom (shape low : Nat) : List (List Nat) :=
  let c := low % 6
  let r := low / 6
  let forms : List (List (Nat × Nat)) :=
    if shape == 1 then [[(0, 0)]] else if shape == 2 then [[(0, 0), (1, 0)], [(0, 0), (0, 1)]] else [[(0, 0), (1, 0), (0, 1), (1, 1)]]
  forms.filterMap fun f => f.mapM fun d => coreAtPos (c + d.1) (r + d.2)

/-- The core lies in CORESET and on the device's dies (R343). -/
def inCoreset (l : LaunchRec) (dev die core : Nat) : Bool :=
  let m := if l.coreset == 0 then coresetMask dev else l.coreset.toNat
  core < 40 && m / 2 ^ (64 * die + core) % 2 == 1

/-- A core takes teams: it is not fenced and not in self-test, and its die is powered and out of reset (R348, R362, R371, R383, R384). -/
def coreUsable (s : State) (die core : Nat) : Bool :=
  let d := dieOf s die
  let co := coreAt s die core
  d.powered && !d.inReset && !co.fenced && (match kget d.phys co.phys with | some p => p.bistAt.isNone | none => true)

/-- The candidate clusters of a launch in raster order (R348). -/
def candidates (s : State) (r : LaunchRec) (dev shape : Nat) : List (Nat × List Nat) :=
  (List.range 2).flatMap fun die => (List.range 40).flatMap fun low =>
    ((clustersFrom shape low).filter fun cs => cs.all fun c => inCoreset r dev die c && coreUsable s die c).map fun cs => (die, cs)

/-! ## What a core has free (R274, R348, R349) -/

/-- The resources in use on a core: slots, register granules of each scheduler, scratchpad and tile-store ranges in granules (base and
length), barriers, queues, energy units, a matrix team, teams. -/
structure CoreUse where
  slots  : List Nat
  fast   : List Nat
  slow   : List Nat
  scr    : List (Nat × Nat)
  tile   : List (Nat × Nat)
  bars   : Nat
  queues : Nat
  energy : Nat
  matrix : Bool
  teams  : Nat
  deriving DecidableEq, Repr

/-- Energy units of a class (R348). -/
def energyUnits (cls : Nat) : Nat := 2 ^ cls

/-- Team barriers at the leader of a cluster (R275). -/
def teamBars (k : KernelRec) (i : Nat) : Nat := if 1 < k.shape && i == 0 then 64 else 0

/-- An empty core. -/
def CoreUse.none : CoreUse :=
  { slots := [], fast := [0, 0, 0, 0], slow := [0, 0, 0, 0], scr := [], tile := [], bars := 0, queues := 0, energy := 0, matrix := false,
    teams := 0 }

/-- A core with a team's share added. -/
def CoreUse.addTeam (u : CoreUse) (k : KernelRec) (i scr tile : Nat) : CoreUse :=
  { u with scr := (scr, k.scratchG) :: u.scr, tile := (tile, k.tileG) :: u.tile, bars := u.bars + k.barriers + teamBars k i,
           queues := u.queues + k.queues, energy := u.energy + energyUnits k.energy, matrix := u.matrix || k.matrix, teams := u.teams + 1 }

/-- A core with a crew's slot and granules added. -/
def CoreUse.addCrew (u : CoreUse) (slot fastG slowG : Nat) : CoreUse :=
  { u with slots := slot :: u.slots, fast := lmod u.fast (slot / 12) (· + fastG), slow := lmod u.slow (slot / 12) (· + slowG) }

/-- The lowest place for `n` units in `size` (R349, first fit). -/
def firstFit (used : List (Nat × Nat)) (size n : Nat) : Option Nat :=
  if n == 0 then some 0
  else
    let fits (a : Nat) : Bool := a + n ≤ size && used.all fun r => !overlaps a n r.1 r.2
    listMin ((0 :: used.map fun r => r.1 + r.2).filter fits)

/-! ## Fitting a team's share on a core (R348, R349) -/

/-- The slot of a crew: a matrix crew's scheduler is its quadrant; any other takes the scheduler with the most free slots that has its
granules, the lowest on a tie; then the lowest free slot. -/
def slotFor (u : CoreUse) (k : KernelRec) (role : Nat) : Option Nat :=
  let f := k.fastG.getD (roleKind role) 0
  let g := k.slowG.getD (roleKind role) 0
  let used (q : Nat) : Nat := (u.slots.filter fun n => n / 12 == q).length
  let room (q : Nat) : Bool := used q < 12 && u.fast.getD q 0 + f ≤ 288 && u.slow.getD q 0 + g ≤ 96
  let order := if roleKind role == 2 then [roleQuad role] else sortBy used (List.range 4)
  match order.find? room with
  | none => none
  | some q => ((List.range 12).map (12 * q + ·)).find? fun n => !u.slots.contains n

/-- Slots for several crews in turn: crew index and slot. -/
def slotsFor (k : KernelRec) : CoreUse → List (Nat × Nat) → Option (CoreUse × List (Nat × Nat))
  | u, [] => some (u, [])
  | u, (i, role) :: rs => match slotFor u k role with
    | none => none
    | some n => match slotsFor k (u.addCrew n (k.fastG.getD (roleKind role) 0) (k.slowG.getD (roleKind role) 0)) rs with
      | none => none
      | some (u, ns) => some (u, (i, n) :: ns)

/-- A team's share of a core: slots by crew index, first scratchpad byte, first tile row. -/
structure Share where
  slots : List (Nat × Nat)
  scr   : Nat
  tile  : Nat
  deriving DecidableEq, Repr

/-- The needs of team core index `i` fit on a core (R348). -/
def fitShare (u : CoreUse) (k : KernelRec) (i : Nat) : Option (CoreUse × Share) :=
  let mine := (indexed k.roles).filter fun r => roleCore r.2 == i
  if 512 < u.bars + k.barriers + teamBars k i || 64 < u.queues + k.queues || 16 < u.energy + energyUnits k.energy || (k.matrix && u.matrix)
  then none
  else match firstFit u.scr 768 k.scratchG, firstFit u.tile 64 k.tileG, slotsFor k u mine with
    | some a, some b, some (v, ns) => some (v.addTeam k i a b, { slots := ns, scr := a * 4096, tile := b * 64 })
    | _, _, _ => none

/-! ## The checks (R344, R345) -/

/-- The storage of the work lists is present, writable and device memory (R353). -/
def listStorageOk (s : State) (dev n : Nat) (r : LaunchRec) : Bool :=
  match queueOf s dev n with
  | none => false
  | some q => (pageParts r.wlbase (4 * r.wlcap * 256)).all fun p =>
      match (checkLane s (devDie dev) noCore dev q.ctx p.1 1 .store false).2 with
      | .ok pa => !isHost pa
      | _ => false

/-- The section copies of R37: destination pages first, then the bytes. -/
def copySections (s : State) (dev n : Nat) (o : Obj) (r : LaunchRec) : Cmd Unit :=
  (commandPages s dev n .store 0x22 (pageParts r.dataVa (o.sec 3).length)).bind fun s dp =>
    (commandPages s dev n .store 0x22 (pageParts r.constVa (o.sec 4).length)).bind fun s cp =>
      .ok (writeParts (writeParts s dev dp (o.sec 3)) dev cp (o.sec 4)) ()

/-- What acceptance finds out about a launch. -/
structure Accept where
  record  : LaunchRec
  table   : List SectEntry
  obj     : Obj
  code    : Obj
  kernel  : KernelRec
  patches : List PatchSlot
  regions : List RegionEntry

/-- A team of a kernel fits the cores of a cluster when each of them is empty (check 7 of R345). -/
def fitsEmpty (k : KernelRec) (cl : List Nat) : Bool := (indexed cl).all fun e => (fitShare CoreUse.none k e.1).isSome

/-- The checks of R345 in order, on a launch record at `a` whose bytes are read. -/
def acceptRecord (s : State) (dev n : Nat) (arm : Bool) (a : Nat) (b : List Byte) : Cmd Accept :=
  let r := recordOf b
  Cmd.check s (recordOk dev b && (r.wlcap == 0 || listStorageOk s dev n r)) 1 a fun _ =>
    (acceptObject s dev n arm r).bind fun s oc =>
      Cmd.check s (featuresOk oc.2.1) 3 0 fun _ =>
        match kernelAt oc.2.2 r.krec with
        | none => .reject s 4 a
        | some k => (acceptPatch s dev n arm r a oc.2.2 k).bind fun s ps =>
          (acceptRegions s dev n arm r k).bind fun s rs =>
            Cmd.check s ((candidates s r dev k.shape).any fun cl => fitsEmpty k cl.2) 7 0 fun _ =>
              .ok s { record := r, table := oc.1, obj := oc.2.1, code := oc.2.2, kernel := k, patches := ps, regions := rs }

/-- The checks for a LAUNCH, whose record stands at virtual address `ra`. -/
def acceptChecks (s : State) (dev n : Nat) (ra : W64) : Cmd Accept :=
  (readOnce s dev n false ra 128).bind fun s b => acceptRecord s dev n false ra.toNat b

/-- The checks for a GANG_ARM, whose record stands at physical address `ra` (R420, R429); what the record names is virtual. -/
def armChecks (s : State) (dev n : Nat) (ra : W64) : Cmd Accept :=
  match gotBytes s dev n true ra.toNat 128 with
  | some b => acceptRecord s dev n true ra.toNat b
  | none =>
    let (s, b) := mpFetch s dev ra.toNat 128
    acceptRecord (keepBytes s dev n true ra.toNat b) dev n true ra.toNat b

/-- The virtual address of a code section of the object in memory; a translated section has none of its own. -/
def sectionBase (x : Accept) (kind : Nat) : W64 :=
  x.record.obj + w64 (((x.table.find? (·.kind == kind)).map SectEntry.off).getD 0)

/-- The launch joins the distributor (R345): its code and patch table as read (R344), memory as it stood (R133), a handle that the manual
does not number (R336; log 10). -/
def addLaunch (s : State) (dev : Fin 3) (n index : Nat) (ra : W64) (x : Accept) (armed : Bool) (gang : Option Nat) :
    State × Nat :=
  let (s, handle) := takeFree s
  let uid := s.nextLaunch
  let ctx := match queueOf s dev.val n with | some q => q.ctx | none => 0
  let l : Launch :=
    { uid := uid, ctx := ctx, dev := dev, queue := n, cmdIndex := index, jIndex := (devOf s dev.val).seq, order := uid,
      record := x.record, recAddr := ra, handle := handle % 65536, scode := x.code.scode, lcode := x.code.lcode,
      sBase := sectionBase x 1, lBase := sectionBase x 2, translated := x.obj.has 8, bindings := x.code.installed,
      patches := x.patches, kernel := x.kernel, regions := x.regions, constMem := s.mem, next := 0, back := [], retired := 0, failed := 0,
      quiet := false, aborted := false, complete := false, gang := gang, armed := armed, absent := [], audits := [], extra := 0 }
  ({ putLaunch s uid l with nextLaunch := uid + 1 }, uid)

/-- An event asks for a distributor step on a device (R347): the events of one tick share it. -/
def callDistributor (s : State) (dev : Nat) : State :=
  modDev s dev fun d => { d with placing := some (d.placing.getD s.reftime) }

/-- LAUNCH (R339, R345, R37): the checks, the section copies, the accepted entry; or a rejected entry; or the queue holds. -/
def execLaunchCmd (dev : Fin 3) (q : Nat) (a : W64) (s : State) : Result :=
  let n := q
  match queueOf s dev.val n with
  | none => stall s
  | some k =>
    let bytes := commandBytes 1 a 0
    match acceptChecks s dev.val n a with
    | .hold s => stall s
    | .reject s reason addr => .next (rejectCommand s dev.val n k.cons reason bytes addr)
    | .ok s x =>
      match copySections s dev.val n x.obj x.record with
      | .hold s => stall s
      | .reject s reason addr => .next (rejectCommand s dev.val n k.cons reason bytes addr)
      | .ok s _ =>
        let (s, uid) := addLaunch s dev n k.cons a x false none
        let s := journal s dev.val (commandEntry dev.val n 1 0 k.cons bytes a.toNat)
        let s := openCommand s dev.val n k.cons (some uid)
        .next (callDistributor (advanceQueue s dev.val n) dev.val)

/-! ## WAIT and SIGNAL (R339) -/

/-- WAIT: accepted; it blocks its queue until its counter is reached. -/
def execWaitCmd (dev : Fin 3) (q : Nat) (a b : W64) (s : State) : Result :=
  match queueOf s dev.val q with
  | none => stall s
  | some k =>
    let s := journal s dev.val (commandEntry dev.val q 1 0 k.cons (commandBytes 2 a b) a.toNat)
    let s := openCommand s dev.val q k.cons none
    .next (modQueue (advanceQueue s dev.val q) dev.val q fun x => { x with waiting := some (k.cons, a, b), accepted := false })

/-- The command that blocks a queue ends with an entry of kind 2 or 3 (R342, R346). -/
def endWaiting (s : State) (dev q kind code index : Nat) (bytes : List Byte) (detail : Nat) : State :=
  let s := journal s dev (commandEntry dev q kind code index bytes detail)
  modQueue (closeCommand s dev q index) dev q fun x => { x with waiting := none, accepted := false, waits := [] }

/-- WAIT_SATISFIED: mem64(A) has reached B, unsigned; the entry's DETAIL is the value read. -/
def execWaitSatisfied (dev : Fin 3) (q : Nat) (s : State) : Result :=
  match queueOf s dev.val q with
  | none => stall s
  | some k => match k.waiting, k.accepted with
    | some (index, a, b), false =>
      let bytes := commandBytes 2 a b
      match commandRead s dev.val q a 8 with
      | .hold s => stall s
      | .reject s reason addr => .next (endWaiting s dev.val q 3 reason index bytes addr)
      | .ok s bs => if leNat bs < b.toNat then stall s else .next (endWaiting s dev.val q 2 0 index bytes (leNat bs))
    | _, _ => stall s

/-- SIGNAL: accepted, and then B is stored at A once every earlier command of the queue has completed, with release at system scope. The
acceptance and the store are two turns when an earlier command is open. -/
def execSignalCmd (dev : Fin 3) (q : Nat) (a b : W64) (s : State) : Result :=
  match queueOf s dev.val q with
  | none => stall s
  | some k =>
    let bytes := commandBytes 3 a b
    let fresh := !k.accepted
    let index := match k.waiting with | some w => w.1 | none => k.cons
    let s :=
      if fresh then
        let s := journal s dev.val (commandEntry dev.val q 1 0 index bytes a.toNat)
        let s := advanceQueue (openCommand s dev.val q index none) dev.val q
        modQueue s dev.val q fun x => { x with waiting := some (index, a, b), accepted := true }
      else s
    if k.open_.any (·.index != index) then (if fresh then .next s else stall s)
    else match commandPage s dev.val q a .store 0x02 with
      | .hold s => if fresh then .next s else stall s
      | .reject s reason addr => .next (endWaiting s dev.val q 3 reason index bytes addr)
      | .ok s pa =>
        let s := mpWrite s dev.val pa (leBytes 8 b.toNat)
        .next (endWaiting s dev.val q 2 0 index bytes b.toNat)

/-- The address that a malformed command's entry names (R342): A where its alignment is what fails, else 0. -/
def malformedAddr (bs : List Byte) : Nat :=
  let a := leAt bs 8 8
  let kind := leAt bs 0 1
  let clear := leAt bs 1 7 == 0 && leAt bs 24 40 == 0 && (kind != 1 || leAt bs 16 8 == 0)
  if clear && 1 ≤ kind && kind ≤ 3 then a else 0

/-- MALFORMED_COMMAND (R346, reason 8). -/
def execMalformedCommand (dev : Fin 3) (q : Nat) (bytes : List Byte) (s : State) : Result :=
  match queueOf s dev.val q with
  | none => stall s
  | some k => .next (rejectCommand s dev.val q k.cons 8 bytes (malformedAddr bytes))

/-! ## Completion of a LAUNCH (R352) -/

/-- The teams of a launch, and whether any is saved. -/
def launchTeams (s : State) (l : Nat) : List Team := (s.teams.map (·.2)).filter (·.launch == l)
def launchSaved (s : State) (l : Nat) : Bool := s.saved.any fun e => e.2.1.launch == l

/-- The completed entry, once every team has retired. -/
def completeLaunch (s : State) (uid : Nat) : State :=
  match launchOf s uid with
  | none => s
  | some l =>
    if l.complete || l.armed || l.next != l.record.grid || !l.back.isEmpty || !(launchTeams s uid).isEmpty || launchSaved s uid then s
    else
      let index := l.cmdIndex
      let code := flag (l.failed != 0)
      let e := commandEntry l.dev.val l.queue 2 code index (commandBytes 1 l.recAddr 0) l.failed
      let e := if l.gang.isSome then { e with digest := noDigest } else e
      let s := journal s l.dev.val e
      let s := if l.gang.isSome then s else closeCommand s l.dev.val l.queue index
      callDistributor (putLaunch s uid { l with complete := true }) l.dev.val

/-! ## BAR0 (R387, R391) -/

/-- The function serves the present mode (R380, R387): function 0 package-as-one, functions 1 and 2 split. -/
def ownsMode (s : State) (fn : Nat) : Bool := if fn == 0 then s.mode == 1 else s.mode == 2

/-- The doorbells that a function has: 64, in split mode 32 (R387). -/
def bellCount (s : State) (fn : Nat) : Nat := if fn == 0 && s.mode != 2 then 64 else 32

/-- DOORBELL_WRITE (R391): the doorbell keeps the value; the queue takes it as its producer index, or it is journalled. The doorbell of a
queue that the function does not have is ignored (R387). -/
def execDoorbellWrite (fn : Fin 3) (q : Nat) (p : W32) (s : State) : Result :=
  if bellCount s fn.val ≤ q then .next s
  else match queueOf s fn.val q with
    | none => .next s
    | some k =>
      let s := modDev s fn.val fun d => { d with bells := kset d.bells q p }
      if (p.toNat + 2 ^ 32 - k.cons) % 2 ^ 32 ≤ 2 ^ k.log2n then .next (modQueue s fn.val q fun x => { x with prod := p.toNat })
      else
        let e : JEntry := { kind := 3, code := 8, queue := q, die := devDie fn.val, index := p.toNat, digest := noDigest, detail := 0 }
        .next (journal s fn.val e)

/-- Bytes of a register with four of them replaced. -/
def putBytes (bs : List Byte) (off : Nat) (new : List Byte) : List Byte :=
  let bs := bs ++ List.replicate (256 - bs.length) 0
  bs.take off ++ new ++ bs.drop (off + new.length)

/-- What a 32-bit read of BAR0 returns (R387): the mailbox, FUNCMODE and the doorbells; everything else reads 0 (R14). -/
def readBar0 (s : State) (fn : Fin 3) (off : Nat) : W32 :=
  let d := devOf s fn.val
  let word (bs : List Byte) (at_ : Nat) : W32 := w32 (leNat ((bs.drop at_).take 4))
  if off % 4 != 0 then 0
  else if off < 0x100 then word d.mboxReq off
  else if off < 0x200 then word d.mboxRsp (off - 0x100)
  else if off == 0x200 then w32 (flag d.go + 2 ^ 8 * d.status)
  else if off == 0x208 then w32 (s.mode + 4 * flag (ownsMode s fn.val))
  else if 0x1000 ≤ off && off < 0x1200 && off % 8 == 0 then kgetD d.bells ((off - 0x1000) / 8) 0
  else 0

/-- REGISTER_WRITE (R387): a 32-bit write to MBOX_REQ or to MBOX_CTL, whose GO submits the request; other registers of BAR0 ignore it. R387
gives a software write to MBOX_CTL no effect but GO's: that STATUS stays as the device left it is the model's choice (DESIGN CHOICE,
log 72). -/
def execRegisterWrite (fn : Fin 3) (off : Nat) (v : W32) (s : State) : Result :=
  if off < 0x100 && off % 4 == 0 then
    .next (modDev s fn.val fun d => { d with mboxReq := putBytes d.mboxReq off (leBytes 4 v.toNat) })
  else if off == 0x200 then .next (modDev s fn.val fun d => if v.getLsbD 0 then { d with go := true } else d)
  else .next s

end Sys2Proof.Machine
end

