-- ==== Sys2Proof/Machine/LaneMem.lean ====
section
/-!
DEFINITION. The lane memory words (R203 to R215): addresses, checks, and issue. Loads wait in `Crew.loads` for LOAD_DATA_RETURN, stores in
the store queue for STORE_PERFORMED.
-/

namespace Sys2Proof.Machine

/-! ## Addresses (R204, R205, R183) -/

/-- sext of a 32-bit element to 64 bits. -/
def sext32 (x : W32) : W64 := x.signExtend 64

/-- The base of a global word in lane `i` (R204). -/
def LaneCx.base (x : LaneCx) (w : LaneWord) (i : Nat) : W64 := if w.wa then x.src64 w w.a i else match w.a with
  | .snap _ => x.src64 w w.a i
  | _ => 0

/-- The virtual address of a global word in lane `i`, `sc` being the scale as a shift (R204). -/
def LaneCx.globalVa (x : LaneCx) (w : LaneWord) (sc i : Nat) : W64 :=
  x.base w i + (sext32 (x.src w w.c i) <<< sc) + sext32 w.imm

/-- The scratchpad address of a word in lane `i` (R205). -/
def LaneCx.scratchVa (x : LaneCx) (w : LaneWord) (i : Nat) : W32 := x.src w w.a i + (x.src w w.c i <<< fnBits w.fn 2 1) + w.imm

/-- The index scale of a word with SC in fn[2:1] (R206). -/
def scaleOf (w : LaneWord) : Nat := fnBits w.fn 2 1

/-- The width in bytes of an access of a type (R209); the XA96 cell has 16. -/
def widthOf (t : Ty) : Nat := bitsTy t / 8

/-- How a loaded element of a type reaches its register (R146, R24). -/
def extendOf : Ty → Extend
  | .i8 | .i16 => .sign
  | .b64 | .i64 => .pair
  | _ => .zero

/-- A lane access with its addresses. -/
def laneAcc (lane : Nat) (va : W64) (pa : Nat) (data expect : W64) : LaneAcc :=
  { lane := lane, va := va, pa := pa, data := data, expect := expect, took := none, hi := none }

/-- The data operand B of lane `i` (R24, R209). -/
def LaneCx.dataOf (x : LaneCx) (w : LaneWord) (i : Nat) : W64 := if w.ty.is64 then x.src64 w w.b i else (x.src w w.b i).zeroExtend 64

/-- The value of vd in lane `i`, as VCAS reads it (R213). -/
def LaneCx.destOf (x : LaneCx) (w : LaneWord) (i : Nat) : W64 :=
  let lo := laneGet (x.c.rv w.vd.val) i
  if w.ty.is64 then laneGet (x.c.rv (w.vd.val + 1)) i ++ lo else lo.zeroExtend 64

/-! ## Global loads and returning atomics -/

/-- The checks of a load's lanes: a lane that the crew's log covers whole is not walked (R318). -/
def loadChecks (s : State) (x : LaneCx) (width : Nat) : List (Nat × W64) → State × List (Nat × W64 × LaneCheck)
  | [] => (s, [])
  | (i, va) :: ls =>
    let r : State × LaneCheck :=
      if va.toNat % width == 0 && (loggedAll x.c s.nextStamp va.toNat width).isSome then (s, .ok 0)
      else checkLane s x.c.die x.c.core (crewDev s x.c) (crewCtx s x.c) va width .load false
    let q := loadChecks r.1 x width ls
    (q.1, (i, va, r.2) :: q.2)

/-- A pending load of the word. -/
def LaneCx.pending (x : LaneCx) (s : State) (w : LaneWord) (stamp : Nat) (space : Space) (width : Nat) (ext : Extend)
    (atom : Option AtomOp) (lanes : List LaneAcc) (fresh : Bool) : PendingLoad :=
  { stamp := stamp, scalar := false, reg := w.vd.val, space := space, width := width, ext := ext, atom := atom, lanes := lanes,
    word := x.fr.lpc, slot := x.slot, block := x.blk.ord, fresh := fresh, sent := none, vsync := [] }

/-- The lanes of a word whose checks passed, with their physical addresses. -/
def passed (ls : List (Nat × W64 × LaneCheck)) : List (Nat × W64 × Nat) :=
  ls.filterMap fun l => match l.2.2 with | .ok pa => some (l.1, l.2.1, pa) | _ => none

/-- Whether any lane's page is missing. -/
def anyAbsent (ls : List (Nat × W64 × LaneCheck)) : Bool := ls.any fun l => l.2.2 == .absent

/-- One lane of a load that the crew's log covers completes at once (R318, R53). -/
def deliverLogged (c : Crew) (p : PendingLoad) (lane : Nat) (bs : List Byte) : Crew :=
  match p.ext with
  | .exact q =>
    let r := xaRead (leNat bs) q
    (c.deliver p lane (w64 r.1)).raiseFlags r.2
  | ext => c.deliver p lane (extendValue ext p.width (leNat bs))

/-- A global load (R204, R207, R209, R318). -/
def laneLoad (i : Instr) (w : LaneWord) (sc width : Nat) (ext : Extend) (s : State) : Result :=
  laneWord s i (guarded w) fun s x =>
    if x.c.laneAcquiring then stall s
    else
      let (s, ls) := loadChecks s x width ((lanesOf x.lset).map fun k => (k, x.globalVa w sc k))
      let ls := heldOut x.fr.held ls
      match firstFail ls with
      | some f => failLane s x ls accLoad f
      | none =>
        if anyAbsent ls then holdLane s x ls accLoad
        else if (passed ls).any fun l => x.c.blindStore l.2.2 width then stall s
        else
          let (s, stamp) := takeStamp s
          let covered (va : W64) : Option (List Byte) := loggedAll x.c stamp va.toNat width
          let far := (passed ls).filter fun l => (covered l.2.1).isNone
          let p := x.pending s w stamp .global width ext none (far.map fun l => laneAcc l.1 l.2.1 l.2.2 0 0) false
          let near (c : Crew) (l : Nat × W64 × Nat) : Crew :=
            match covered l.2.1 with | some bs => deliverLogged c p l.1 bs | none => c
          let c := (passed ls).foldl near x.c
          x.finish s { c with loads := if far.isEmpty then c.loads else c.loads ++ [p] }

/-- VLD (R209); VLD.xa96 (R53). -/
def execVld (w : LaneWord) (s : State) : Result :=
  if w.ty == .xa96 then laneLoad (.vld w) w 4 16 (.exact w.xaP) s
  else laneLoad (.vld w) w (scaleOf w) (widthOf w.ty) (extendOf w.ty) s

/-- VLDK (R210). -/
def execVldk (w : LaneWord) (s : State) : Result :=
  laneWord s (.vldk w) (guarded w) fun s x =>
    let lanes := (lanesOf x.lset).map fun k => (k, x.globalVa w (scaleOf w) k)
    let (s, ls) := checkLanes s x.c.die x.c.core (crewDev s x.c) (crewCtx s x.c) (widthOf w.ty) .load false lanes
    let ls := heldOut x.fr.held ls
    match firstFail ls with
    | some f => failLane s x ls accConst f
    | none =>
      if anyAbsent ls then holdLane s x ls accConst
      else
        let (s, stamp) := takeStamp s
        let p := x.pending s w stamp .constant (widthOf w.ty) (extendOf w.ty) none
          ((passed ls).map fun l => laneAcc l.1 l.2.1 l.2.2 0 0) (0 < x.blk.cfence)
        x.finish s { x.c with loads := x.c.loads ++ [p] }

/-- An atomic that returns (R212, R213): it waits for an empty side log, and until the port has taken the crew's stores (R201). -/
def laneAtomic (i : Instr) (w : LaneWord) (cas : Bool) (s : State) : Result :=
  laneWord s i (guarded w) fun s x =>
    let o : AtomOp := { cas := cas, op := fnBits w.fn 6 4, ord := w.fn.getLsbD 3, scope := fnBits w.fn 8 7 }
    if x.c.laneAcquiring then stall s
    else
      let lanes := (lanesOf x.lset).map fun k => (k, x.globalVa w (scaleOf w) k)
      let host := !cas && o.op != 0 && o.op != 3
      let (s, ls) := checkLanes s x.c.die x.c.core (crewDev s x.c) (crewCtx s x.c) (widthOf w.ty) .atomic host lanes
      let ls := heldOut x.fr.held ls
      match firstFail ls with
      | some f => failLane s x ls accAtomic f
      | none =>
        if anyAbsent ls then holdLane s x ls accAtomic
        else if !x.c.sideLog.isEmpty || !x.c.portClear then stall s
        else
          let (s, stamp) := takeStamp s
          let p := x.pending s w stamp .global (widthOf w.ty) (extendOf w.ty) (some o)
            ((passed ls).map fun l => laneAcc l.1 l.2.1 l.2.2 (x.dataOf w l.1) (x.destOf w l.1)) false
          x.finish s { x.c with loads := x.c.loads ++ [p] }

/-- VATOM that returns (R212). -/
def execVatom (w : LaneWord) (s : State) : Result := laneAtomic (.vatom w) w false s
/-- VCAS (R213). -/
def execVcas (w : LaneWord) (s : State) : Result := laneAtomic (.vcas w) w true s

/-! ## Global stores (R201, R209, R212, R214, R215, R317) -/

/-- What a store-class word carries besides its lanes. -/
structure StoreSpec where
  kind  : StoreKind
  width : Nat
  sc    : Nat
  op    : Nat
  rm    : Nat
  p     : Nat

/-- The permission of a store-class word (R310) and its ACCESS code (R321). -/
def StoreKind.acc : StoreKind → Acc × Nat
  | .vatom => (.atomic, accAtomic)
  | _ => (.store, accStore)

/-- What a checked store-class word becomes: an entry with its lanes in ascending order; a lane on a missing page has no address yet. -/
def LaneCx.storeEntry (x : LaneCx) (s : State) (w : LaneWord) (f : StoreSpec) (stamp : Nat) (ls : List (Nat × W64 × LaneCheck))
    (waits : List PageWait) : StoreEntry :=
  let one (l : Nat × W64 × LaneCheck) : LaneAcc :=
    laneAcc l.1 l.2.1 (match l.2.2 with | .ok pa => pa | _ => 0) (x.dataOf w l.1) 0
  { stamp := stamp, scalar := false, kind := f.kind, space := .global, width := f.width, ty := w.ty, op := f.op, rm := f.rm, p := f.p,
    lanes := ls.map one, port := none, word := x.fr.lpc, slot := x.slot, block := x.blk.ord, waits := waits, sent := none, wrote := [] }

/-- The checks of a store-class word, then what it does when it may retire: `go` gets the lanes and the missing pages, whose records
have been written. It waits for room in the side log and the fault ring (R317, R322). -/
def laneStore (i : Instr) (w : LaneWord) (width sc : Nat) (kind : StoreKind) (host : Bool) (s : State)
    (go : State → LaneCx → List (Nat × W64 × LaneCheck) → List PageWait → Result) : Result :=
  laneWord s i (guarded w) fun s x =>
    if x.c.laneAcquiring then stall s
    else
      let lanes := (lanesOf x.lset).map fun k => (k, x.globalVa w sc k)
      let (s, ls) := checkLanes s x.c.die x.c.core (crewDev s x.c) (crewCtx s x.c) width kind.acc.1 host lanes
      match firstFail ls with
      | some f => failLane s x ls kind.acc.2 f
      | none =>
        let pages := absentPages ls
        if x.c.logFull (!pages.isEmpty) then stall s
        else if pages.isEmpty then go s x ls []
        else match writeRecords s (crewCtx s x.c) (crewRecords x.c true x.fr.lpc kind.acc.2 0 pages) with
          | none => stall s
          | some s => go s x ls (newWaits pages)

/-- A store-class word that enters the store queue or the side log. -/
def laneQueue (i : Instr) (w : LaneWord) (f : LaneCx → StoreSpec) (width sc : Nat) (kind : StoreKind) (host : Bool) (s : State) : Result :=
  laneStore i w width sc kind host s fun s x ls waits =>
    let (s, stamp) := takeStamp s
    x.finish s (x.c.enqueue (x.storeEntry s w (f x) stamp ls waits))

/-- VST (R209). -/
def execVst (w : LaneWord) (s : State) : Result :=
  laneQueue (.vst w) w (fun _ => { kind := .plain, width := widthOf w.ty, sc := scaleOf w, op := 0, rm := 0, p := 0 })
    (widthOf w.ty) (scaleOf w) .plain false s

/-- VRDX (R215): the addend is B in its type, P in fn[7:1]. -/
def execVrdx (w : LaneWord) (s : State) : Result :=
  laneQueue (.vrdx w) w (fun _ => { kind := .vrdx, width := 16, sc := 4, op := 0, rm := 0, p := w.xaP }) 16 4 .vrdx true s

/-- VATOM without return (R212). -/
def execVatomNoReturn (w : LaneWord) (s : State) : Result :=
  let op := fnBits w.fn 6 4
  laneQueue (.vatomNoReturn w) w
    (fun x => { kind := .vatom, width := widthOf w.ty, sc := scaleOf w, op := op, rm := flag (w.fn.getLsbD 3), p := x.blk.stamp })
    (widthOf w.ty) (scaleOf w) .vatom (op != 0 && op != 3) s

/-! ## VRED and the atomic buffer (R199, R200, R214) -/

/-- The scheduler of a crew's slot. -/
def Crew.scheduler (c : Crew) : Nat := c.slot / 12

/-- One contribution reaches the buffer of the crew's scheduler: combined into its key's entry, else a new entry, drains first where
R199 asks for them. Nothing when a drain cannot yet be performed. -/
def contribute (s : State) (c : Crew) (e : BufEntry) : Option (State × Nat) :=
  let n := c.scheduler
  let put (s : State) (f : List BufEntry → List BufEntry) : State :=
    modCore s c.die c.core fun co => { co with bufs := vmod co.bufs n f }
  let mine (b : BufEntry) : Bool := b.crew == e.crew && b.va == e.va
  let buf := vget (coreAt s c.die c.core).bufs n []
  match buf.find? mine with
  | some b =>
    if b.ty == e.ty && b.op == e.op && b.rm == e.rm then
      let r := redApply e.ty e.op e.rm c.ftz b.value.toNat e.value.toNat
      some (put s fun l => l.map fun b => if mine b then { b with value := w32 r.1 } else b, r.2)
    else if !drainReady s c.die c.core [b] then none
    else some (put (drainEntry s b) fun l => l.filter (fun b => !mine b) ++ [e], 0)
  | none =>
    if buf.length < 256 then some (put s fun l => l ++ [e], 0)
    else match drainBuffers s c.die c.core (· == n) with
      | none => none
      | some s => some (put s fun l => l ++ [e], 0)

/-- The contributions of a word in ascending lane order, and the flags of their combinations. -/
def contributeAll (s : State) (c : Crew) : List BufEntry → Option (State × Nat)
  | [] => some (s, 0)
  | e :: es => match contribute s c e with
    | none => none
    | some (s, fl) => match contributeAll s c es with
      | none => none
      | some (s, fls) => some (s, orFlags fl fls)

/-- VRED (R214): its contributions combine in the buffer; with a page missing or an entry in the log, the word is logged (R317). -/
def execVred (w : LaneWord) (s : State) : Result :=
  let op := fnBits w.fn 5 4
  let rm := fnBits w.fn 8 6
  laneStore (.vred w) w 4 (scaleOf w) .vred true s fun s x ls waits =>
    if waits.isEmpty && x.c.sideLog.isEmpty then
      let one (l : Nat × W64 × Nat) : BufEntry :=
        { crew := x.u, va := l.2.1, pa := l.2.2, ty := w.ty, op := op, rm := rm, value := x.src w w.b l.1, sent := none }
      let es := (passed ls).map one
      match contributeAll s x.c es with
      | none => stall s
      | some (s, fl) =>
        let s := es.foldl (fun s e => signAccess s x.c.team e.va (leBytes 4 e.value.toNat)) s
        x.finish s (x.c.raiseFlags fl)
    else
      let (s, stamp) := takeStamp s
      let f : StoreSpec := { kind := .vred, width := 4, sc := scaleOf w, op := op, rm := rm, p := 0 }
      x.finish s (x.c.enqueue (x.storeEntry s w f stamp ls waits))

/-- VPREF (R211): it changes no visible state and raises no trap. -/
def execVpref (w : LaneWord) (s : State) : Result := laneWord s (.vpref w) (guarded w) fun s x => x.finish s x.c

/-! ## The scratchpad words (R205, R207, R183) -/

/-- The declaration in SKEW (R183): base, rows, row length in bytes, element size as a shift; none when it is empty. -/
def skewTile (k : W64) : Option (Nat × Nat × Nat × Nat) :=
  let rows := bitsOf k 34 22
  let rlen := bitsOf k 47 35
  if rows == 0 || 4096 < rows || rlen == 0 || 4096 < rlen then none
  else some (bitsOf k 21 0, rows, rlen * 2 ^ bitsOf k 49 48, bitsOf k 49 48)

/-- The byte at which a skewed tile places the logical offset `o` (R183). -/
def skewPlace (base rb esz o : Nat) : Nat :=
  let sw := (rb + 255) / 256 * 64
  let r := o / rb
  let cb := o % rb
  let cw := cb / 4
  let word := base / 4 + r * sw + 64 * (cw / 64) +
    (if esz ≤ 2 then (cw + r) % 64 else 2 * ((cw % 64 / 2 + r) % 32) + cw % 2)
  4 * word + cb % 4

/-- What one lane of a scratchpad word meets (R207): its owner core and place, or the step that fails, cause and detail. -/
inductive ScratchCheck where
  | ok (core pa : Nat) (hi : Option Nat)
  | fail (step cause detail : Nat)
  deriving DecidableEq, Repr

/-- The checks of one lane, `width` bytes wide, in the tile if there is one (R183, R205, R207). DESIGN CHOICE (log 81): R183 places the offset alone; an access
takes the `width` bytes from its place on, and the upper half of 8 bytes stands at the place of the offset plus 4. -/
def checkScratch (shape size width : Nat) (tile : Option (Nat × Nat × Nat × Nat)) (sa : W32) : ScratchCheck :=
  let core := bitsOf sa 23 22
  let o := bitsOf sa 21 0
  if bitsOf sa 31 24 != 0 || shape ≤ core then .fail 1 0x0C 1
  else match tile with
    | none => if size ≤ o then .fail 1 0x0C 1 else if o % width != 0 then .fail 2 0x0A 0 else .ok core o none
    | some (base, rows, rb, esz) =>
      let pa := skewPlace base rb esz o
      let hi := skewPlace base rb esz (o + 4)
      if rows * rb ≤ o || size ≤ pa || (width == 8 && o % 8 == 0 && size ≤ hi) then .fail 1 0x0C 1
      else if o % width != 0 then .fail 2 0x0A 0
      else .ok core pa (if width == 8 && hi != pa + 4 then some hi else none)

/-- The lanes that fail the earliest failing check (R207). -/
def scratchFail (ls : List (Nat × W32 × ScratchCheck)) : Option CheckFail :=
  let at_ (n : Nat) : Option CheckFail :=
    let bad := ls.filter fun l => match l.2.2 with | .fail k _ _ => k == n | _ => false
    match bad with
    | (_, sa, .fail _ cause detail) :: _ =>
      some { cause := cause, detail := detail, mask := maskOf (fun i => bad.any (·.1 == i)), addr := sa.zeroExtend 64 }
    | _ => none
  (at_ 1).or (at_ 2)

/-- The granules that one lane touches. -/
def laneGranules (width : Nat) (e : Nat × LaneAcc) : List Nat := (e.2.pieces width).flatMap fun p => granOffsets p.1 p.2.2

/-- The granules that the lanes of a word touch at their owners (R283): the team after the touches, and whether the word may go on. -/
def scratchTouch (live : Toucher → Bool) (l : Launch) (who : Toucher) (width : Nat) : Team → List (Nat × LaneAcc) → Team × Bool
  | t, [] => (t, true)
  | t, e :: rest =>
    let (t, ok) := granTouchAll live l t who e.1 (laneGranules width e)
    let (t, oks) := scratchTouch live l who width t rest
    (t, ok && oks)

/-- A fill that failed under the lowest of the lanes that met one (R284): its cause and address, and the lanes that touch that granule. -/
def scratchBad (t : Team) (who : Toucher) (width : Nat) (as : List (Nat × LaneAcc)) : Option (Nat × W64 × W64) :=
  let bad (e : Nat × LaneAcc) : Option (Nat × Nat × Nat × W64) :=
    ((laneGranules width e).filterMap fun o => (fillFailed t who e.1 o).map fun f => (e.1, o, f)).head?
  ((as.filterMap bad).head?).map fun f =>
    (f.2.2.1, f.2.2.2, maskOf fun i => as.any fun e => e.2.lane == i && e.1 == f.1 && (laneGranules width e).contains f.2.1)

/-- Every earlier scratchpad access of the crew has been performed: its next one reaches a port that it has to wait at (R277). -/
def Crew.scratchIdle (c : Crew) : Bool :=
  c.storeQ.all (fun e => match e.space with | .scratch _ => false | _ => true) && c.loads.all fun p => match p.space with | .scratch _ => false | _ => true

/-- A scratchpad word: its checks, the regions it touches, then `go` with the lanes by owner core. -/
def scratchWord (i : Instr) (w : LaneWord) (data : Bool) (s : State) (go : State → LaneCx → List (Nat × LaneAcc) → Result) : Result :=
  laneWord s i (guarded w) fun s x =>
    match teamOf s x.c.team, crewLaunch s x.c with
    | some t, some l =>
      let width := widthOf w.ty
      let skewed := w.fn.getLsbD 3
      let tile := skewTile x.blk.skew
      let sas := (lanesOf x.lset).map fun k => (k, x.scratchVa w k)
      let low : W64 := match sas with | (_, sa) :: _ => sa.zeroExtend 64 | [] => 0
      if skewed && tile.isNone then x.raise s 0x02 0 0 x.lset low
      else if skewed && bitsOf x.blk.skew 7 0 != 0 then x.raise s 0x0A 0 0 x.lset low
      else
        let tile := if skewed then tile else none
        let ls := sas.map fun e => (e.1, e.2, checkScratch l.kernel.shape (scratchSize l) width tile e.2)
        match scratchFail ls with
        | some f => x.raise s f.cause f.detail 0 f.mask f.addr
        | none =>
          if x.c.laneAcquiring then stall s
          else
            let one (e : Nat × W32 × ScratchCheck) : Option (Nat × LaneAcc) := match e.2.2 with
              | .ok core pa hi => some (core, { laneAcc e.1 (e.2.1.zeroExtend 64) pa (if data then x.dataOf w e.1 else 0) 0 with hi := hi })
              | _ => none
            let as := ls.filterMap one
            let mapped := as.filter fun e => !coreLost s t e.1
            match scratchBad t x.toucher width mapped with
            | some (cause, g, lanes) => x.raise (putTeam s x.c.team (t.forgive x.toucher)) cause 2 0 lanes g
            | none =>
              let (t, free) := scratchTouch (Toucher.waits s) l x.toucher width t mapped
              if free then go (putTeam s x.c.team (t.passed x.toucher)) x as
              else if x.c.scratchIdle then stall (putTeam s x.c.team t) else stall s
    | _, _ => .fault .noStream

/-- The accesses of a word, by owner core. -/
def byCore (as : List (Nat × LaneAcc)) : List (Nat × List LaneAcc) :=
  ((List.range 4).map fun core => (core, (as.filter (·.1 == core)).map (·.2))).filter fun e => !e.2.isEmpty

/-- VLDS (R209): one load at each owner's port. -/
def execVlds (w : LaneWord) (s : State) : Result :=
  scratchWord (.vlds w) w false s fun s x as =>
    let (s, stamp) := takeStamp s
    let ps := (byCore as).map fun e => x.pending s w stamp (.scratch e.1) (widthOf w.ty) (extendOf w.ty) none e.2 false
    x.finish s { x.c with loads := x.c.loads ++ ps }

/-- VSTS (R209): one store for each owner's port. -/
def execVsts (w : LaneWord) (s : State) : Result :=
  scratchWord (.vsts w) w true s fun s x as =>
    let (s, stamp) := takeStamp s
    let one (e : Nat × List LaneAcc) : StoreEntry :=
      { stamp := stamp, scalar := false, kind := .plain, space := .scratch e.1, width := widthOf w.ty, ty := w.ty, op := 0, rm := 0, p := 0,
        lanes := e.2, port := none, word := x.fr.lpc, slot := x.slot, block := x.blk.ord, waits := [], sent := none, wrote := [] }
    x.finish s { x.c with storeQ := x.c.storeQ ++ (byCore as).map one }

end Sys2Proof.Machine
end

