-- ==== Sys2Proof/Machine/MemEvents.lean ====
section
/-!
DEFINITION. The moments at which accesses of crews are performed: LOAD_DATA_RETURN (R130, R208), STORE_PERFORMED (R201, R296),
SIDE_LOG_REPLAY (R319).
-/

namespace Sys2Proof.Machine

/-! ## Loads -/

/-- Two constant reads touch a common aligned word. -/
def sharesWord (p q : PendingLoad) : Bool :=
  p.lanes.any fun a => q.lanes.any fun b => (wordsOf a.pa p.width).any (wordsOf b.pa q.width).contains

/-- An earlier load of the same stream has not returned (R84; log 7: what a load reads may be older). Constant reads are in order with those of the same
word only (R300). -/
def loadBehind (c : Crew) (idx : Nat) (p : PendingLoad) : Bool :=
  (c.loads.take idx).any fun q => q.scalar == p.scalar &&
    if p.space == .constant then q.space == .constant && sharesWord p q else q.space != .constant

/-- The address that the journal names for a datum with an error (R342, kind 5). -/
def datumAddr (p : PendingLoad) (l : LaneAcc) : Nat :=
  match p.space with | .scratch core => 2 ^ 22 * core + l.pa | _ => l.va.toNat

/-- One lane of a load is performed and its register written (R208): the state, and the address of a datum that carried an error. -/
def returnLane (s : State) (u : Nat) (p : PendingLoad) (l : LaneAcc) : State × Option Nat :=
  match crewOf s u with
  | none => (s, none)
  | some c =>
    let fl := loadFlags s c p l
    let (s, v, bad) := performLoad s u c p l
    (modCrew s u fun c => (c.deliver p l.lane v).raiseFlags fl, if bad then some (datumAddr p l) else none)

/-- Lanes of a load in ascending order. -/
def returnLanes (s : State) (u : Nat) (p : PendingLoad) : List LaneAcc → State × Option Nat
  | [] => (s, none)
  | l :: ls =>
    let a := returnLane s u p l
    let b := returnLanes a.1 u p ls
    (b.1, a.2.or b.2)

/-- Lanes of a constant read (R208, R210): each aligned word is chosen once, for every lane that names a byte of it. -/
def returnConst (s : State) (u : Nat) (c : Crew) (p : PendingLoad) (ls : List LaneAcc) : State × Option Nat :=
  let (s, vs) := constWords s u c p.fresh (dedup (ls.flatMap fun l => wordsOf l.pa p.width))
  let one (c : Crew) (l : LaneAcc) : Crew := c.deliver p l.lane (extendValue p.ext p.width (constValue vs l.pa p.width).1)
  (modCrew s u fun c => ls.foldl one c, (ls.find? fun l => (constValue vs l.pa p.width).2).map (datumAddr p))

/-- The lanes of a load that are performed in one turn (R208): atomics in ascending order; of a load or a constant read, those that name
common bytes or a common aligned word together. -/
def lanesWhole (p : PendingLoad) (m : W64) : Bool :=
  if p.atom.isSome then lanesInOrder p.width p.lanes m
  else if p.space == .constant then
    p.lanes.all fun a => !m.getLsbD a.lane || p.lanes.all fun b =>
      m.getLsbD b.lane || !(wordsOf a.pa p.width).any (wordsOf b.pa p.width).contains
  else lanesTogether p.width p.lanes m

/-- What a turn of a load does to the early reads of its core (R295, R297, R381): none of the crew stays of what it has read, none at all after an
acquiring atomic. -/
def settleEarly (s : State) (u : Nat) (c : Crew) (p : PendingLoad) (ls : List LaneAcc) : State :=
  if p.space != .global then s
  else
    let s := ls.foldl (fun s l => forget s c.die c.core (some u) (homedFar (crewDev s c) c.die l.pa) l.pa p.width) s
    match p.atom with | some a => if a.ord then acquire s u else s | none => s

/-- The pending load `idx` keeps only the lanes that have not returned. -/
def dropLanes (c : Crew) (idx : Nat) (m : W64) : Crew :=
  let rest := match c.loads[idx]? with | some p => p.lanes.filter fun l => !m.getLsbD l.lane | none => []
  { c with loads := if rest.isEmpty then ldel c.loads idx else lmod c.loads idx fun p => { p with lanes := rest } }

/-- A request across the Sound that is older than XTMO has timed out: no answer reaches its crew (R382). -/
def soundGone (s : State) (c : Crew) (sent : Option Nat) (ls : List LaneAcc) : Bool :=
  overdue s sent && ls.any fun l => homedFar (crewDev s c) c.die l.pa

/-- LOAD_DATA_RETURN (R130, R208): the chosen lanes of a pending load are performed. An error in the datum halts the crew (R202). -/
def execLoadDataReturn (crew idx : Nat) (lanes : W64) (s : State) : Result :=
  match crewOf s crew with
  | none => stall s
  | some c => match c.loads[idx]? with
    | none => stall s
    | some p =>
      let sel := p.lanes.filter fun l => lanes.getLsbD l.lane
      if sel.isEmpty || !lanesWhole p lanes then stall s
      else if loadBehind c idx p || !sel.all (loadReady s c p) then stall s
      else if (p.space == .global || p.space == .constant) && soundGone s c p.sent sel then stall s
      else
        let (s, bad) := if p.space == .constant then returnConst s crew c p sel else returnLanes s crew p sel
        let s := modCrew (settleEarly s crew c p sel) crew fun c => dropLanes c idx lanes
        .next (match bad with | some a => haltCrew s crew 1 a | none => settleTrap s crew)

/-! ## Stores -/

/-- The entry `idx` of the store queue keeps only the lanes that have not been performed. -/
def dropStore (c : Crew) (idx : Nat) (m : W64) (wrote : List (Nat × Nat)) : Crew :=
  let rest := match c.storeQ[idx]? with | some e => e.lanes.filter fun l => !m.getLsbD l.lane | none => []
  { c with storeQ := if rest.isEmpty then ldel c.storeQ idx else lmod c.storeQ idx fun e => { e with lanes := rest, wrote := wrote } }

/-- Lanes of one store have been performed: a sector that the store's lanes cover whole between them loses its poison (R372), unless a responder has discarded
them. What it has written of sectors that are still poisoned. -/
def healStore (s : State) (u : Nat) (e : StoreEntry) (ls : List LaneAcc) : State × List (Nat × Nat) :=
  match crewOf s u with
  | none => (s, e.wrote)
  | some c =>
    if e.kind == .plain && e.space == .global then healWritten s c.view (crewDev s c) c.die e.wrote (ls.map fun l => (l.pa, e.width))
    else (s, e.wrote)

/-- The chosen lanes of a store are performed, in ascending order. -/
def performLanes (s : State) (u : Nat) (e : StoreEntry) (ls : List LaneAcc) : State × List (Nat × Nat) :=
  healStore (ls.foldl (fun s l => match crewOf s u with | some c => performEntry s c e l | none => s) s) u e ls

/-- The port has taken the entry, or takes it now as the crew's next one (R201). -/
def throughPort (s : State) (u idx : Nat) (e : StoreEntry) : Option State :=
  match e.space, e.port with
  | .global, none => if (match crewOf s u with | some c => c.toPort | none => none) == some idx then acceptPort s u else none
  | _, _ => some s

/-- STORE_PERFORMED (R296): the chosen lanes of a queued store are performed at their homes. -/
def execStorePerformed (crew idx : Nat) (lanes : W64) (s : State) : Result :=
  match crewOf s crew with
  | none => stall s
  | some c => match c.storeQ[idx]? with
    | none => stall s
    | some e => match throughPort s crew idx e with
      | none => stall s
      | some s1 => match crewOf s1 crew with
        | none => stall s
        | some c1 => match c1.storeQ[idx]? with
          | none => stall s
          | some e =>
            let sel := e.lanes.filter fun l => lanes.getLsbD l.lane
            if sel.isEmpty || !lanesInOrder e.width e.lanes lanes || !storeReady s1 c1 e ||
                (e.space == .global && soundGone s1 c1 e.sent sel) then stall s
            else
              let (t, wrote) := performLanes s1 crew e sel
              .next (modCrew t crew fun c => dropStore c idx lanes wrote)

/-! ## The side log (R317, R319) -/

/-- The permission and ACCESS code of a logged entry (R310, R321). -/
def StoreEntry.acc (e : StoreEntry) : Acc × Nat := e.kind.acc

/-- The checks of a logged entry at replay: lanes of refused pages are not walked. -/
def replayChecks (s : State) (c : Crew) (e : StoreEntry) : List LaneAcc → State × List (LaneAcc × LaneCheck)
  | [] => (s, [])
  | l :: ls =>
    let host := match e.kind with | .plain => false | .vatom => e.op != 0 && e.op != 3 | _ => true
    let r : State × LaneCheck :=
      if refused e.waits (l.va.toNat / 4096) then (s, .fail 4 0x0B 5)
      else checkLane s c.die c.core (crewDev s c) (crewCtx s c) l.va e.width e.acc.1 host
    let q := replayChecks r.1 c e ls
    (q.1, (l, r.2) :: q.2)

/-- One lane of a replay (R319): performed at its home, or discarded and journalled. -/
def replayLane (s : State) (u : Nat) (e : StoreEntry) (l : LaneAcc × LaneCheck) : State :=
  match crewOf s u with
  | none => s
  | some c => match l.2 with
    | .ok pa => performLane s c e { l.1 with pa := pa }
    | .absent => s
    | .fail _ cause _ =>
      let s := journalTeam s c.team 6 1 c.die l.1.va.toNat
      let low : Option (Nat × W64) := match c.discard with
        | some (k, a) => if a.toNat ≤ l.1.va.toNat then some (k, a) else some (cause, l.1.va)
        | none => some (cause, l.1.va)
      let s := putCrew s u { c with discard := low }
      if c.alive then s else modTeam s c.team fun t => t.fail s.reftime 4 c.core c.slot

/-- The trap of a crew whose log is empty and had a lane discarded (R319): once no other trap is waiting. -/
def discardTrap (s : State) (u : Nat) : State :=
  match crewOf s u with
  | none => s
  | some c => match c.discard with
    | some (cause, a) =>
      if c.sideLog.isEmpty && c.alive && c.trapping.isNone then
        raise (putCrew s u { c with discard := none }) u (wordlessTrap false cause 5 0 a)
      else s
    | none => s

/-- SIDE_LOG_REPLAY (R319): the oldest entry, once the store queue before it is empty and its pages are answered. A page that is
missing again is asked for again; a bad or lost table entry leaves its record (R316, R323). -/
def execSideLogReplay (crew : Nat) (s : State) : Result :=
  match crewOf s crew with
  | none => stall s
  | some c => match c.sideLog with
    | [] => if c.discard.isSome && c.alive && c.trapping.isNone then .next (discardTrap s crew) else stall s
    | e :: rest =>
      if !c.storeQ.isEmpty || !waitsAnswered e.waits || !storeReady s c e then stall s
      else
        let (s, ls) := replayChecks s c e e.lanes
        let missing := absentPages (ls.map fun l => (l.1.lane, l.1.va, l.2))
        if !missing.isEmpty then
          match writeRecords s (crewCtx s c) (crewRecords c (!e.scalar) e.word e.acc.2 0 missing) with
          | none => stall s
          | some s =>
            let waits := e.waits.filter (fun w => !missing.any (·.1 == w.vp)) ++ newWaits missing
            .next (modCrew s crew fun c => { c with sideLog := { e with waits := waits } :: rest })
        else match failRecords s c (!e.scalar) e.word e.acc.2 (ls.map fun l => (l.1.lane, l.1.va, l.2)) with
          | none => stall s
          | some s =>
            let done := ls.filterMap fun l => match l.2 with | .ok pa => some { l.1 with pa := pa } | _ => none
            let s := healStore (ls.foldl (fun s l => replayLane s crew e l) s) crew e done
            .next (discardTrap (modCrew s.1 crew fun c => { c with sideLog := rest }) crew)

end Sys2Proof.Machine
end

