-- ==== Sys2Proof/Machine/Queues.lean ====
section
/-!
DEFINITION. Named queues (R196 to R198, R230 to R233).
-/

namespace Sys2Proof.Machine

/-- A queue that no QINIT has set (R231). -/
def QueueSt.reset : QueueSt := { ring := 0, depth := 0, count := 0, head := 0, allow := 0, init := false }

/-- The key of a queue of a team core. -/
def queueKey (core n : Nat) : Nat := 64 * core + n

/-- A queue of a team. -/
def Team.queue (t : Team) (core n : Nat) : QueueSt := kgetD t.queues (queueKey core n) QueueSt.reset

/-- Other crews of the core that are blocked on the same side of a queue (R196): those older than `c` when `c` is blocked itself,
else all of them. -/
def queueAhead (s : State) (c : Crew) (push : Bool) (n : Nat) : Nat :=
  let same (k : Crew) : Bool := k.uid != c.uid && k.core == c.core && k.trapping.isNone && k.await == .blocked push n
  let all := (teamCrews s c.team).filter same
  (if c.await == .blocked push n then all.filter (fun k => k.index < c.index) else all).length

/-- The offset of the ring word that the next push writes. -/
def QueueSt.tail (q : QueueSt) : Nat := q.ring + 4 * ((q.head + q.count) % q.depth)

/-- The offset of the ring word that holds the oldest handle. -/
def QueueSt.front (q : QueueSt) : Nat := q.ring + 4 * q.head

/-- The queue stores a handle: its ring word is written, an allowance taken (R196, R231). -/
def pushHandle (s : State) (team core n : Nat) (q : QueueSt) (x : W32) : State :=
  let s := scratchWrite s team core q.tail (leBytes 4 x.toNat)
  let q := { q with count := q.count + 1, allow := q.allow - 1 }
  modTeam s team fun t => { t with queues := kset t.queues (queueKey core n) q }

/-- The queue gives its oldest handle, as its ring word stands (R196, R231), and whether that word carries an error. -/
def popHandle (s : State) (t : Team) (core n : Nat) (q : QueueSt) : State × W32 × Bool :=
  let (bs, bad) := scratchRead s t core q.front 4
  let q := { q with count := q.count - 1, allow := q.allow + 1, head := (q.head + 1) % q.depth }
  (modTeam s t.uid fun t => { t with queues := kset t.queues (queueKey core n) q }, w32 (leNat bs), bad)

/-- A queue word's access to the ring word at `off` reaches the scratchpad port: after the crew's earlier accesses (R84, R277), and through the
region map (R283, R284). DESIGN CHOICE (log 84): a fill that it begins and that cannot be mapped traps at the word, as for a lane word. -/
def ringTouch (s : State) (u : Nat) (c : Crew) (off : Nat) (k : State → Result) : Result :=
  if !c.scratchClear then stall s
  else match touchRange s c.team c.scalarTouch c.coreIdx off 4 with
    | .wait s => stall s
    | .fail s cause addr => raiseScalar s u cause 2 0 addr
    | .go s => k s

/-- A queue word runs: detail 0 first (R233). It waits for an acquiring atomic of the crew (R138). -/
def withQueue (s : State) (rs : List SReg) (n : Fin 64) (f : Nat → Crew → Team → QueueSt → Result) : Result :=
  withScalar s rs fun u c => match teamOf s c.team, crewLaunch s c with
    | some t, some l => if l.kernel.queues ≤ n.val then raiseScalar s u 0x0D 0 n.val 0 else if c.acquiring then stall s else f u c t (t.queue c.coreIdx n.val)
    | _, _ => .fault .noStream

/-- A push that can be made: an allowance that no crew blocked before it takes. -/
def canPush (s : State) (c : Crew) (q : QueueSt) (n : Nat) : Bool := q.init && queueAhead s c true n < q.allow

/-- A pop that can be made: a handle that no crew blocked before it takes. -/
def canPop (s : State) (c : Crew) (q : QueueSt) (n : Nat) : Bool := q.init && queueAhead s c false n < q.count

/-- A blocking queue word that cannot complete at once: detail 1 in a team with a halted crew (R198), detail 4 on an uninitialised
queue, else it waits. -/
def queueBlocked (s : State) (u : Nat) (c : Crew) (t : Team) (q : QueueSt) (push : Bool) (n : Nat) : Result :=
  if t.halted then raiseScalar s u 0x0D 1 n 0
  else if !q.init then raiseScalar s u 0x0D 4 n 0
  else stall (putCrew s u { c with await := .blocked push n })

/-- The word pushes and ends with its destination `w` (R232). The push is a release at core scope: it stores its handle once the accesses before it are
performed there (R197). -/
def endPush (s : State) (u : Nat) (c : Crew) (q : QueueSt) (a : SReg) (n : Nat) (w : Crew → Crew) : Result :=
  if !released c c.synced s.nextStamp 0 then stall s
  else ringTouch s u c q.tail fun s => .next (putCrew (pushHandle s c.team c.coreIdx n q ((c.rs a).truncate 32)) u (w c).next)

/-- The word ends with the popped handle, which acquires (R197), or the crew halts on a handle that carries an error (R202). -/
def endPop (s : State) (u : Nat) (c : Crew) (q : QueueSt) (d : SReg) (n : Nat) : Result :=
  ringTouch s u c q.front fun s => match teamOf s c.team with
    | none => .fault .noStream
    | some t => match popHandle s t c.coreIdx n q with
      | (s, _, true) => .next (haltCrew s u 1 (2 ^ 22 * c.coreIdx + q.front))
      | (s, x, false) => .next (putCrew (acquire s u) u (c.observed.ws d (x.zeroExtend 64)).next)

/-- QPUSH (R232). -/
def execQpush (a : SReg) (n : Fin 64) (s : State) : Result :=
  withQueue s [a] n fun u c t q => if canPush s c q n.val then endPush s u c q a n.val id else queueBlocked s u c t q true n.val

/-- QPOP (R232). -/
def execQpop (d : SReg) (n : Fin 64) (s : State) : Result :=
  withQueue s [d] n fun u c t q => if canPop s c q n.val then endPop s u c q d n.val else queueBlocked s u c t q false n.val

/-- QTRY push (R232): all ones when no allowance is left. -/
def execQtryPush (d a : SReg) (n : Fin 64) (s : State) : Result :=
  withQueue s [d, a] n fun u c _ q =>
    if !q.init then raiseScalar s u 0x0D 4 n.val 0
    else if canPush s c q n.val then endPush s u c q a n.val fun c => c.ws d 0
    else .next (putCrew s u (c.ws d allLanes).next)

/-- QTRY pop (R232): all ones when the queue has no handle that it may give. -/
def execQtryPop (d : SReg) (n : Fin 64) (s : State) : Result :=
  withQueue s [d] n fun u c _ q =>
    if !q.init then raiseScalar s u 0x0D 4 n.val 0
    else if canPop s c q n.val then endPop s u c q d n.val
    else .next (putCrew s u (c.ws d allLanes).next)

/-- QINIT (R231): detail 2 for the depth, detail 3 for the ring. -/
def execQinit (a b : SReg) (n : Fin 64) (s : State) : Result :=
  withQueue s [a, b] n fun u c t _ =>
    let off := (c.rs a).toNat
    let depth := (c.rs b).toNat
    let size := match crewLaunch s c with | some l => scratchSize l | none => 0
    if depth == 0 || 256 < depth then raiseScalar s u 0x0D 2 n.val 0
    else if off % 4 != 0 || size < off + 4 * depth then raiseScalar s u 0x0D 3 n.val 0
    else
      let q : QueueSt := { ring := off, depth := depth, count := 0, head := 0, allow := depth, init := true }
      .next (putCrew (putTeam s c.team { t with queues := kset t.queues (queueKey c.coreIdx n.val) q }) u c.next)

end Sys2Proof.Machine
end

