-- ==== Sys2Proof/Machine/ScalarAlu.lean ====
section
/-!
DEFINITION. The scalar words that compute on registers and transfer control (R119 to R129).
-/

namespace Sys2Proof.Machine

/-- A word with two sources: s[d] := f s[a] s[b] (R119, R120). -/
def scalarOp2 (d a b : SReg) (f : W64 → W64 → W64) (s : State) : Result :=
  withScalar s [d, a, b] fun u c => .next (putCrew s u (c.ws d (f (c.rs a) (c.rs b))).next)

/-- A word with one source. -/
def scalarOp1 (d a : SReg) (f : W64 → W64) (s : State) : Result :=
  withScalar s [d, a] fun u c => .next (putCrew s u (c.ws d (f (c.rs a))).next)

/-- A word with three sources (R124). -/
def scalarOp3 (d a b e : SReg) (f : W64 → W64 → W64 → W64) (s : State) : Result :=
  withScalar s [d, a, b, e] fun u c => .next (putCrew s u (c.ws d (f (c.rs a) (c.rs b) (c.rs e))).next)

/-- The sign-extended immediate (R19, R121). -/
def immS (i : Imm13) : W64 := i.signExtend 64

/-- ADD (R120). -/
def execAdd (d a b : SReg) (s : State) : Result := scalarOp2 d a b (fun x y => x + y) s
/-- SUB (R120). -/
def execSub (d a b : SReg) (s : State) : Result := scalarOp2 d a b (fun x y => x - y) s
/-- AND (R120). -/
def execAndd (d a b : SReg) (s : State) : Result := scalarOp2 d a b (fun x y => x &&& y) s
/-- OR (R120). -/
def execOrr (d a b : SReg) (s : State) : Result := scalarOp2 d a b (fun x y => x ||| y) s
/-- XOR (R120). -/
def execXor (d a b : SReg) (s : State) : Result := scalarOp2 d a b (fun x y => x ^^^ y) s
/-- SHL (R120). -/
def execShl (d a b : SReg) (s : State) : Result := scalarOp2 d a b (fun x y => x <<< (y.toNat % 64)) s
/-- SHR (R120). -/
def execShr (d a b : SReg) (s : State) : Result := scalarOp2 d a b (fun x y => x >>> (y.toNat % 64)) s
/-- SRA (R120). -/
def execSra (d a b : SReg) (s : State) : Result := scalarOp2 d a b (fun x y => x.sshiftRight (y.toNat % 64)) s
/-- SLT (R120). -/
def execSlt (d a b : SReg) (s : State) : Result := scalarOp2 d a b (fun x y => flag64 (x.slt y)) s
/-- SLTU (R120). -/
def execSltu (d a b : SReg) (s : State) : Result := scalarOp2 d a b (fun x y => flag64 (x.ult y)) s
/-- MIN (R120). -/
def execMin (d a b : SReg) (s : State) : Result := scalarOp2 d a b (fun x y => if x.slt y then x else y) s
/-- MAX (R120). -/
def execMax (d a b : SReg) (s : State) : Result := scalarOp2 d a b (fun x y => if x.slt y then y else x) s
/-- MINU (R120). -/
def execMinu (d a b : SReg) (s : State) : Result := scalarOp2 d a b (fun x y => if x.ult y then x else y) s
/-- MAXU (R120). -/
def execMaxu (d a b : SReg) (s : State) : Result := scalarOp2 d a b (fun x y => if x.ult y then y else x) s
/-- MUL (R120). -/
def execMul (d a b : SReg) (s : State) : Result := scalarOp2 d a b (fun x y => x * y) s
/-- MULH (R120). -/
def execMulh (d a b : SReg) (s : State) : Result := scalarOp2 d a b (fun x y => BitVec.ofInt 64 ((x.toInt * y.toInt).fdiv (2 ^ 64))) s
/-- MULHU (R120). -/
def execMulhu (d a b : SReg) (s : State) : Result := scalarOp2 d a b (fun x y => w64 (x.toNat * y.toNat / 2 ^ 64)) s
/-- DIV (R45). -/
def execDiv (d a b : SReg) (s : State) : Result := scalarOp2 d a b (fun x y => divS x y) s
/-- DIVU (R45). -/
def execDivu (d a b : SReg) (s : State) : Result := scalarOp2 d a b (fun x y => divU x y) s
/-- REM (R45). -/
def execRem (d a b : SReg) (s : State) : Result := scalarOp2 d a b (fun x y => remS x y) s
/-- REMU (R45). -/
def execRemu (d a b : SReg) (s : State) : Result := scalarOp2 d a b (fun x y => remU x y) s
/-- ADDW (R120). -/
def execAddw (d a b : SReg) (s : State) : Result := scalarOp2 d a b (fun x y => signExt64 32 (x + y).toNat) s
/-- SUBW (R120). -/
def execSubw (d a b : SReg) (s : State) : Result := scalarOp2 d a b (fun x y => signExt64 32 (x - y).toNat) s

/-- ADDI (R121). -/
def execAddi (d a : SReg) (i : Imm13) (s : State) : Result := scalarOp1 d a (fun x => x + immS i) s
/-- ANDI (R121). -/
def execAndi (d a : SReg) (i : Imm13) (s : State) : Result := scalarOp1 d a (fun x => x &&& immS i) s
/-- ORI (R121). -/
def execOri (d a : SReg) (i : Imm13) (s : State) : Result := scalarOp1 d a (fun x => x ||| immS i) s
/-- XORI (R121). -/
def execXori (d a : SReg) (i : Imm13) (s : State) : Result := scalarOp1 d a (fun x => x ^^^ immS i) s
/-- SHLI (R121). -/
def execShli (d a : SReg) (k : Fin 64) (s : State) : Result := scalarOp1 d a (fun x => x <<< k.val) s
/-- SHRI (R121). -/
def execShri (d a : SReg) (k : Fin 64) (s : State) : Result := scalarOp1 d a (fun x => x >>> k.val) s
/-- SRAI (R121). -/
def execSrai (d a : SReg) (k : Fin 64) (s : State) : Result := scalarOp1 d a (fun x => x.sshiftRight k.val) s
/-- SLTI (R121). -/
def execSlti (d a : SReg) (i : Imm13) (s : State) : Result := scalarOp1 d a (fun x => flag64 (x.slt (immS i))) s
/-- SLTIU (R121). -/
def execSltiu (d a : SReg) (i : Imm13) (s : State) : Result := scalarOp1 d a (fun x => flag64 (x.ult (immS i))) s
/-- SHI (R122). -/
def execShi (d : SReg) (i : BitVec 19) (s : State) : Result :=
  scalarOp1 d d (fun x => (x <<< 19) ||| i.zeroExtend 64) s

/-- The number of leading zero bits of an n-bit number. -/
def leadingZeros (n x : Nat) : Nat := if x == 0 then n else n - 1 - ilog2 x

/-- The number of trailing zero bits, at most `n`. -/
def trailingZeros : Nat → Nat → Nat
  | 0, _ => 0
  | n + 1, x => if x % 2 == 1 then 0 else 1 + trailingZeros n (x / 2)

/-- The number of one bits among the low `n`. -/
def onesCount : Nat → Nat → Nat
  | 0, _ => 0
  | n + 1, x => x % 2 + onesCount n (x / 2)

/-- CLZ (R123). -/
def execClz (d a : SReg) (s : State) : Result := scalarOp1 d a (fun x => w64 (leadingZeros 64 x.toNat)) s
/-- CTZ (R123). -/
def execCtz (d a : SReg) (s : State) : Result := scalarOp1 d a (fun x => w64 (trailingZeros 64 x.toNat)) s
/-- POPC (R123). -/
def execPopc (d a : SReg) (s : State) : Result := scalarOp1 d a (fun x => w64 (onesCount 64 x.toNat)) s
/-- BREV (R123). -/
def execBrev (d a : SReg) (s : State) : Result := scalarOp1 d a (fun x => x.reverse) s
/-- SEXTB (R123). -/
def execSextb (d a : SReg) (s : State) : Result := scalarOp1 d a (fun x => signExt64 8 x.toNat) s
/-- SEXTH (R123). -/
def execSexth (d a : SReg) (s : State) : Result := scalarOp1 d a (fun x => signExt64 16 x.toNat) s
/-- SEXTW (R123). -/
def execSextw (d a : SReg) (s : State) : Result := scalarOp1 d a (fun x => signExt64 32 x.toNat) s
/-- ZEXTW (R123). -/
def execZextw (d a : SReg) (s : State) : Result := scalarOp1 d a (fun x => w64 (x.toNat % 2 ^ 32)) s

/-- MADD (R124). -/
def execMadd (d a b c : SReg) (s : State) : Result := scalarOp3 d a b c (fun x y z => x * y + z) s
/-- ADDSH (R124). -/
def execAddsh (d a b : SReg) (k : Fin 8) (s : State) : Result := scalarOp2 d a b (fun x y => x + (y <<< k.val)) s
/-- SEL (R124). -/
def execSel (d a b c : SReg) (s : State) : Result := scalarOp3 d a b c (fun x y z => if z != 0 then x else y) s

/-! ## Control transfer (R125 to R129) -/

/-- The target of a displacement (R18): none below 0 or at or beyond the size of `.scode` (R125). -/
def target (size spc : Nat) (disp : Int) : Option Nat :=
  let t : Int := spc + disp
  if 0 ≤ t && t < size then some t.toNat else none

/-- Transfers to a checked target; a target outside raises ILLEGAL, detail 3, and writes nothing (R125). -/
def transfer (s : State) (u : Nat) (c : Crew) (t : Option Nat) (write : Crew → Crew) : Result :=
  match t with
  | some t => .next (putCrew s u ((write c).goto t))
  | none => raiseScalar s u 0x01 3 0 0

/-- A conditional branch (R126). -/
def branch (a b : SReg) (i : Imm13) (taken : W64 → W64 → Bool) (s : State) : Result :=
  withScalar s [a, b] fun u c =>
    if taken (c.rs a) (c.rs b) then transfer s u c (target (scodeSize s c) c.spc i.toInt) id
    else .next (putCrew s u c.next)

/-- BEQ (R126). -/
def execBeq (a b : SReg) (i : Imm13) (s : State) : Result := branch a b i (fun x y => x == y) s
/-- BNE (R126). -/
def execBne (a b : SReg) (i : Imm13) (s : State) : Result := branch a b i (fun x y => x != y) s
/-- BLT (R126). -/
def execBlt (a b : SReg) (i : Imm13) (s : State) : Result := branch a b i (fun x y => x.slt y) s
/-- BGE (R126). -/
def execBge (a b : SReg) (i : Imm13) (s : State) : Result := branch a b i (fun x y => !x.slt y) s
/-- BLTU (R126). -/
def execBltu (a b : SReg) (i : Imm13) (s : State) : Result := branch a b i (fun x y => x.ult y) s
/-- BGEU (R126). -/
def execBgeu (a b : SReg) (i : Imm13) (s : State) : Result := branch a b i (fun x y => !x.ult y) s
/-- BRA (R127). -/
def execBra (i : BitVec 25) (s : State) : Result :=
  withScalar s [] fun u c => transfer s u c (target (scodeSize s c) c.spc i.toInt) id
/-- CALL (R127): the return index goes to s62. -/
def execCall (i : BitVec 25) (s : State) : Result :=
  withScalar s [62] fun u c =>
    transfer s u c (target (scodeSize s c) c.spc i.toInt) fun c => c.ws 62 (w64 (c.spc + 1))
/-- JMPR (R128): s[a] is read before s[d] is written; the target is an unsigned 64-bit word index. -/
def execJmpr (d a : SReg) (i : Imm13) (s : State) : Result :=
  withScalar s [d, a] fun u c =>
    let t := (c.rs a + immS i).toNat
    transfer s u c (if t < scodeSize s c then some t else none) fun c => c.ws d (w64 (c.spc + 1))
/-- LOOP (R129): the test uses the decremented value. -/
def execLoopDec (a : SReg) (i : Imm13) (s : State) : Result :=
  withScalar s [a] fun u c =>
    let n := c.rs a - 1
    if n != 0 then transfer s u c (target (scodeSize s c) c.spc i.toInt) fun c => c.ws a n
    else .next (putCrew s u (c.ws a n).next)

end Sys2Proof.Machine
end

