-- ==== Sys2Proof/Machine/LaneInt.lean ====
section
/-!
DEFINITION. The integer lane words (R148 to R151).
-/

namespace Sys2Proof.Machine

/-- An integer word of two sources. -/
def laneInt2 (i : Instr) (w : LaneWord) (op : W32 → W32 → W32) (s : State) : Result :=
  laneVec s i w fun x k => (op (x.src w w.a k) (x.src w w.b k), 0)

/-- An integer word of one source. -/
def laneInt1 (i : Instr) (w : LaneWord) (op : W32 → W32) (s : State) : Result :=
  laneVec s i w fun x k => (op (x.src w w.a k), 0)

/-- An integer word of three sources. -/
def laneInt3 (i : Instr) (w : LaneWord) (op : W32 → W32 → W32 → W32) (s : State) : Result :=
  laneVec s i w fun x k => (op (x.src w w.a k) (x.src w w.b k) (x.src w w.c k), 0)

/-- The type is `.i32` (R148). -/
def isSigned (w : LaneWord) : Bool := w.ty == .i32

/-- Bits [63:32] of the exact product (R148). -/
def mulHigh (sg : Bool) (a b : W32) : W32 :=
  if sg then ((a.signExtend 64 * b.signExtend 64) >>> 32).truncate 32 else ((a.zeroExtend 64 * b.zeroExtend 64) >>> 32).truncate 32

/-- The minimum (R148). -/
def minInt (sg : Bool) (a b : W32) : W32 := if sg then (if b.slt a then b else a) else (if b.ult a then b else a)
/-- The maximum (R148). -/
def maxInt (sg : Bool) (a b : W32) : W32 := if sg then (if a.slt b then b else a) else (if a.ult b then b else a)

/-- |A|; the most negative value stays (R148). -/
def absInt (a : W32) : W32 := if a.msb then 0 - a else a

/-- The position and width of a bit field (R150). -/
def fieldOf (b : W32) : Nat × Nat :=
  let off := bitsOf b 4 0
  (off, Nat.min (bitsOf b 13 8) (32 - off))

/-- VBFE (R150). -/
def extractField (sg : Bool) (a b : W32) : W32 :=
  let (off, n) := fieldOf b
  let x := a.toNat / 2 ^ off % 2 ^ n
  if n == 0 then 0 else if sg && 2 ^ (n - 1) ≤ x then w32 (x + 2 ^ 32 - 2 ^ n) else w32 x

/-- VBFI (R150). -/
def insertField (a b c : W32) : W32 :=
  let (off, n) := fieldOf b
  let m : W32 := w32 ((2 ^ n - 1) * 2 ^ off)
  (c &&& ~~~ m) ||| ((a <<< off) &&& m)

/-- VCMP's condition (R149). -/
def compareInt (sg : Bool) (cond : Nat) (a b : W32) : Bool :=
  let lt (a b : W32) : Bool := if sg then a.slt b else a.ult b
  match cond with
  | 0 => a == b
  | 1 => a != b
  | 2 => lt a b
  | 3 => !lt b a
  | 4 => lt b a
  | _ => !lt a b

/-- The carry out of a three-input add (R148, R151). -/
def carryOut (a b c : W32) : W32 := flag32 (2 ^ 32 ≤ a.toNat + b.toNat + c.toNat % 2)

/-- VADD (R148). -/
def execVadd (w : LaneWord) (s : State) : Result := laneInt2 (.vadd w) w (· + ·) s
/-- VSUB (R148). -/
def execVsub (w : LaneWord) (s : State) : Result := laneInt2 (.vsub w) w (· - ·) s
/-- VMUL (R148). -/
def execVmul (w : LaneWord) (s : State) : Result := laneInt2 (.vmul w) w (· * ·) s
/-- VMULH (R148). -/
def execVmulh (w : LaneWord) (s : State) : Result := laneInt2 (.vmulh w) w (mulHigh (isSigned w)) s
/-- VMAD (R148). -/
def execVmad (w : LaneWord) (s : State) : Result := laneInt3 (.vmad w) w (fun a b c => a * b + c) s
/-- VAND (R148). -/
def execVand (w : LaneWord) (s : State) : Result := laneInt2 (.vand w) w (· &&& ·) s
/-- VOR (R148). -/
def execVor (w : LaneWord) (s : State) : Result := laneInt2 (.vor w) w (· ||| ·) s
/-- VXOR (R148). -/
def execVxor (w : LaneWord) (s : State) : Result := laneInt2 (.vxor w) w (· ^^^ ·) s
/-- VSHL (R148). -/
def execVshl (w : LaneWord) (s : State) : Result := laneInt2 (.vshl w) w (fun a b => a <<< bitsOf b 4 0) s
/-- VSHR (R148). -/
def execVshr (w : LaneWord) (s : State) : Result :=
  laneInt2 (.vshr w) w (fun a b => if (isSigned w) then a.sshiftRight (bitsOf b 4 0) else a >>> bitsOf b 4 0) s
/-- VMIN (R148). -/
def execVmin (w : LaneWord) (s : State) : Result := laneInt2 (.vmin w) w (minInt (isSigned w)) s
/-- VMAX (R148). -/
def execVmax (w : LaneWord) (s : State) : Result := laneInt2 (.vmax w) w (maxInt (isSigned w)) s
/-- VABS (R148). -/
def execVabs (w : LaneWord) (s : State) : Result := laneInt1 (.vabs w) w absInt s
/-- VSEL (R148): the selecting predicate is p[fn[3:0]]. -/
def execVsel (w : LaneWord) (s : State) : Result :=
  laneVec s (.vsel w) w fun x k => (if (x.c.rp (fnBits w.fn 3 0)).getLsbD k then x.src w w.a k else x.src w w.b k, 0)
/-- VCLZ (R148). -/
def execVclz (w : LaneWord) (s : State) : Result := laneInt1 (.vclz w) w (fun a => w32 (leadingZeros 32 a.toNat)) s
/-- VPOPC (R148). -/
def execVpopc (w : LaneWord) (s : State) : Result := laneInt1 (.vpopc w) w (fun a => w32 (onesCount 32 a.toNat)) s
/-- VBFE (R150). -/
def execVbfe (w : LaneWord) (s : State) : Result := laneInt2 (.vbfe w) w (extractField (isSigned w)) s
/-- VBFI (R150). -/
def execVbfi (w : LaneWord) (s : State) : Result := laneInt3 (.vbfi w) w insertField s
/-- VMOV (R148). -/
def execVmov (w : LaneWord) (s : State) : Result := laneInt1 (.vmov w) w (fun a => a) s
/-- VCMP (R149). -/
def execVcmp (w : LaneWord) (s : State) : Result :=
  lanePred s (.vcmp w) w fun x k => compareInt (isSigned w) (fnBits w.fn 2 0) (x.src w w.a k) (x.src w w.b k)
/-- VADDC (R151). -/
def execVaddc (w : LaneWord) (s : State) : Result := laneInt3 (.vaddc w) w carryOut s
/-- VNEG (R148). -/
def execVneg (w : LaneWord) (s : State) : Result := laneInt1 (.vneg w) w (fun a => 0 - a) s

end Sys2Proof.Machine
end

