-- ==== Sys2Proof/Machine/LaneFloat.lean ====
section
/-!
DEFINITION. The floating and conversion lane words (R152 to R158, R64).
-/

namespace Sys2Proof.Machine

/-- A 32-bit lane result from a pattern and its flags. -/
def laneRes (r : Nat × Nat) : W32 × Nat := (w32 r.1, r.2)

/-- What a floating word reads from a source in its type (R146, R63). -/
def LaneCx.fval (x : LaneCx) (w : LaneWord) (o : Src) (k : Nat) : FVal := (fmtOf w.ty).read x.c.ftz (x.src w o k).toNat

/-- An arithmetic word (R152): `f` gets the format, the lane's rounding and its values. -/
def laneFloat (i : Instr) (w : LaneWord) (f : Fmt → Rnd → FVal → FVal → FVal → Nat × Nat) (s : State) : Result :=
  laneVec s i w fun x k =>
    laneRes (f (fmtOf w.ty) (laneRnd x.c x.blk.snap w k 0) (x.fval w w.a k) (x.fval w w.b k) (x.fval w w.c k))

/-- A function word (R155). -/
def laneFunc (i : Instr) (w : LaneWord) (f : Fmt → Rnd → FVal → Nat × Nat) (s : State) : Result :=
  laneFloat i w (fun fm r a _ _ => f fm r a) s

/-- FADD (R152). -/
def execFadd (w : LaneWord) (s : State) : Result := laneFloat (.fadd w) w (fun f r a b _ => f.add r a b) s
/-- FSUB (R152). -/
def execFsub (w : LaneWord) (s : State) : Result := laneFloat (.fsub w) w (fun f r a b _ => f.add r a b.neg) s
/-- FMUL (R152). -/
def execFmul (w : LaneWord) (s : State) : Result := laneFloat (.fmul w) w (fun f r a b _ => f.mul r a b) s
/-- FFMA (R152). -/
def execFfma (w : LaneWord) (s : State) : Result := laneFloat (.ffma w) w (fun f r a b c => f.fma r a b c) s
/-- FSCALE (R152): B is read as `.i32`. -/
def execFscale (w : LaneWord) (s : State) : Result :=
  laneVec s (.fscale w) w fun x k =>
    laneRes ((fmtOf w.ty).scale (laneRnd x.c x.blk.snap w k 0) (x.fval w w.a k) (x.src w w.b k).toInt)
/-- FMIN (R153). -/
def execFmin (w : LaneWord) (s : State) : Result :=
  laneVec s (.fmin w) w fun x k => (w32 ((fmtOf w.ty).minMax x.c.ftz false (x.src w w.a k).toNat (x.src w w.b k).toNat), 0)
/-- FMAX (R153). -/
def execFmax (w : LaneWord) (s : State) : Result :=
  laneVec s (.fmax w) w fun x k => (w32 ((fmtOf w.ty).minMax x.c.ftz true (x.src w w.a k).toNat (x.src w w.b k).toNat), 0)
/-- FCMP (R154). -/
def execFcmp (w : LaneWord) (s : State) : Result :=
  lanePred s (.fcmp w) w fun x k => (x.fval w w.a k).compare (x.fval w w.b k) (fnBits w.fn 2 0)
/-- FRCP (R155, R64). -/
def execFrcp (w : LaneWord) (s : State) : Result := laneFunc (.frcp w) w fRcp s
/-- FRSQ (R155, R64). -/
def execFrsq (w : LaneWord) (s : State) : Result := laneFunc (.frsq w) w fRsqrt s
/-- FSQRT (R155, R64). -/
def execFsqrt (w : LaneWord) (s : State) : Result := laneFunc (.fsqrt w) w fSqrt s
/-- FEXP2 (R155, R64). -/
def execFexp2 (w : LaneWord) (s : State) : Result := laneFunc (.fexp2 w) w fExp2 s
/-- FLOG2 (R155, R64). -/
def execFlog2 (w : LaneWord) (s : State) : Result := laneFunc (.flog2 w) w fLog2 s
/-- FSIN (R155, R64). -/
def execFsin (w : LaneWord) (s : State) : Result := laneFunc (.fsin w) w fSin s
/-- FCOS (R155, R64). -/
def execFcos (w : LaneWord) (s : State) : Result := laneFunc (.fcos w) w fCos s
/-- FRND (R156). -/
def execFrnd (w : LaneWord) (s : State) : Result := laneFunc (.frnd w) w (fun f r a => f.integral r a) s
/-- FCLASS (R156). -/
def execFclass (w : LaneWord) (s : State) : Result :=
  laneVec s (.fclass w) w fun x k => (w32 ((fmtOf w.ty).classify (x.src w w.a k).toNat), 0)

/-! ## Conversions (R157) -/

/-- The source type of a conversion word, imm32[3:0]. -/
def convFrom (w : LaneWord) : Ty := (Ty.ofCode (w.imm.toNat % 16)).getD .f32

/-- FCVT with equal types (R157): NaNs made canonical, subnormals flushed under FTZ, anything else as it stands. -/
def convertSame (f : Fmt) (ftz : Bool) (x : Nat) : Nat := if f.decode x == .nan then f.nan else f.flushed (ftz && f.flushes) x

/-- FCVT (R157, R58 to R60). DESIGN CHOICE (log 80): under FTZ a subnormal FP32, FP16 or BF16 source is flushed (R157) for the targets E2M1, E4M3 and E5M2 too,
which R63 says FTZ never affects. -/
def execFcvt (w : LaneWord) (s : State) : Result :=
  laneVec s (.fcvt w) w fun x k =>
    let a := (x.src w w.a k).toNat
    let src := fmtOf (convFrom w)
    if w.ty == (convFrom w) then (w32 (convertSame src x.c.ftz a), 0)
    else laneRes ((fmtOf w.ty).convert (laneRnd x.c x.blk.snap w k 0) (src.read x.c.ftz a))

/-- FTOI (R157, R61): the integer is extended by R146. -/
def execFtoi (w : LaneWord) (s : State) : Result :=
  laneVec s (.ftoi w) w fun x k =>
    let r := toInteger (laneRnd x.c x.blk.snap w k 0) w.ty ((fmtOf (convFrom w)).read x.c.ftz (x.src w w.a k).toNat)
    (BitVec.ofInt 32 r.1, r.2)

/-- A source of an integer type (R146). -/
def readInt (t : Ty) (x : W32) : Int :=
  let n := bitsTy t
  match t with
  | .i32 | .i16 | .i8 => (BitVec.ofNat n x.toNat).toInt
  | _ => (x.toNat % 2 ^ n : Nat)

/-- ITOF (R157, R61). -/
def execItof (w : LaneWord) (s : State) : Result :=
  laneVec s (.itof w) w fun x k =>
    laneRes ((fmtOf w.ty).ofInteger (laneRnd x.c x.blk.snap w k 0) (readInt (convFrom w) (x.src w w.a k)))

/-! ## Packing (R158) -/

/-- The width of a slot of an element type: 32/n bits. -/
def slotBits (t : Ty) : Nat := match t with | .f16 | .bf16 => 16 | .e2m1 => 4 | _ => 8

/-- The value times 2^b, exact (R158). -/
def FVal.shift (v : FVal) (b : Int) : FVal := match v with | .num n m e => .num n m (e + b) | v => v

/-- QPACK (R158). FTZ never affects a conversion to E2M1, E4M3 or E5M2 (R63). -/
def execQpack (w : LaneWord) (s : State) : Result :=
  laneVec s (.qpack w) w fun x k =>
    let n := slotBits w.ty
    let e := w.imm.toNat % 8
    let v := (fp32.read (x.c.ftz && (fmtOf w.ty).flushes) (x.src w w.a k).toNat).shift (-(x.src w w.b k).toInt)
    let r := (fmtOf w.ty).convert (laneRnd x.c x.blk.snap w k e) v
    let m : W32 := w32 ((2 ^ n - 1) * 2 ^ (n * e))
    ((x.src w w.c k &&& ~~~ m) ||| (w32 (r.1 % 2 ^ n * 2 ^ (n * e))), r.2)

/-- QUNPK (R158). -/
def execQunpk (w : LaneWord) (s : State) : Result :=
  laneVec s (.qunpk w) w fun x k =>
    let n := slotBits w.ty
    let v := (fmtOf w.ty).read x.c.ftz ((x.src w w.a k).toNat / 2 ^ (n * (w.imm.toNat % 8)) % 2 ^ n)
    laneRes (fp32.scale (laneRnd x.c x.blk.snap w k 0) v (x.src w w.b k).toInt)

end Sys2Proof.Machine
end

