-- ==== Sys2Proof/Machine/SumTree.lean ====
section
/-!
DEFINITION. The summation contract (R68 to R77): alignment, the levels, a cell's steps, closing, and the level-3 internal form.
-/

namespace Sys2Proof.Machine

/-! ## Values (R70, R72) -/

/-- Zero. -/
def Dyadic.zero : Dyadic := { neg := false, mag := 0, exp := 0 }
/-- z × 2^e. -/
def Dyadic.ofInt (z e : Int) : Dyadic := if z == 0 then .zero else { neg := z < 0, mag := z.natAbs, exp := e }
/-- Whether it is zero. -/
def Dyadic.isZero (x : Dyadic) : Bool := x.mag == 0
/-- exp_of (R70), for a nonzero value. -/
def Dyadic.expOf (x : Dyadic) : Int := (ilog2 x.mag : Nat) + x.exp
/-- The value as FP conversions take it. -/
def Dyadic.fval (x : Dyadic) : FVal := if x.mag == 0 then .zero false else .num x.neg x.mag x.exp
/-- A finite value of a format. -/
def Dyadic.ofFVal : FVal → Dyadic
  | .num n m e => { neg := n, mag := m, exp := e }
  | _ => .zero

/-- align (R70): whole units of 2^q, truncated or rounded to nearest even, and whether nonzero bits were lost. -/
def Dyadic.align (x : Dyadic) (q : Int) (rne : Bool) : Int × Bool :=
  if q ≤ x.exp then (signed x.neg (x.mag * 2 ^ (x.exp - q).toNat), false)
  else
    let sh := (q - x.exp).toNat
    let k := x.mag / 2 ^ sh
    let rem := x.mag % 2 ^ sh
    let up := rne && (2 ^ sh < 2 * rem || (2 * rem == 2 ^ sh && k % 2 == 1))
    (signed x.neg (if up then k + 1 else k), rem != 0)

/-- fit (R72): units of 2^q rounded to w significant bits; whether the result was flushed to zero. -/
def fitUnits (units q : Int) (w : Nat) (rtz : Bool) : Dyadic × Bool :=
  let x := Dyadic.ofInt units q
  if x.isZero then (.zero, false)
  else
    let (z, _) := x.align (x.expOf - w + 1) (!rtz)
    let v := if x.expOf - w + 1 ≤ q then x else Dyadic.ofInt z (x.expOf - w + 1)
    if v.expOf < -511 then (.zero, true) else (v, false)

/-- What level_add did (R72): the new value, whether it flushed, and the monitor's event if any: shift and loss. -/
structure Added where
  value : Dyadic
  ufl   : Bool
  event : Option (Nat × Bool)

/-- level_add (R72). -/
def levelAdd (acc x : Dyadic) (w : Nat) (rne rtz : Bool) : Added :=
  if x.isZero then { value := acc, ufl := false, event := none }
  else
    let swap : Bool := acc.isZero || acc.expOf < x.expOf
    let big := if swap then x else acc
    let small := if swap then acc else x
    let q := big.expOf - w + 1
    let (bq, lostBig) := big.align q rne
    let (sq, lostSmall) := small.align q rne
    let shift : Nat := if small.isZero then 0 else (big.expOf - small.expOf).toNat
    let (v, ufl) := fitUnits (bq + sq) q w rtz
    { value := v, ufl := ufl, event := some (shift, lostBig || lostSmall) }

/-! ## Level fields (R27) -/

/-- One level's significand width, alignment rule and rounding. -/
structure Level where
  width : Nat
  rne   : Bool
  rtz   : Bool

/-- Products of a chunk, 4 to 32. -/
def chunkLen (f : BitVec 31) : Nat := 4 * 2 ^ bitsOf f 1 0
/-- 12 + W0. -/
def level0Bits (f : BitVec 31) : Nat := 12 + bitsOf f 5 2
/-- T0. -/
def level0Rne (f : BitVec 31) : Bool := f.getLsbD 6
/-- Level 1 (R27). -/
def level1 (f : BitVec 31) : Level := { width := 14 + bitsOf f 13 10, rne := f.getLsbD 14, rtz := f.getLsbD 15 }
/-- Level 2. -/
def level2 (f : BitVec 31) : Level := { width := 16 + bitsOf f 22 19, rne := f.getLsbD 23, rtz := f.getLsbD 24 }
/-- Level 3. -/
def level3 (f : BitVec 31) : Level := { width := 16 + bitsOf f 28 25, rne := f.getLsbD 29, rtz := f.getLsbD 30 }
/-- Level-0 sums of a level-1 group. -/
def group1 (f : BitVec 31) : Nat := 2 ^ bitsOf f 9 7
/-- Level-1 results of a level-2 group. -/
def group2 (f : BitVec 31) : Nat := 2 ^ bitsOf f 18 16

/-! ## Monitors (R77) -/

/-- The monitors of a slot. -/
structure Monitors where
  counts : Vector Nat 4
  shifts : Vector Nat 4

/-- No event yet. -/
def Monitors.zero : Monitors := { counts := Vector.replicate 4 0, shifts := Vector.replicate 4 0 }

/-- monitor(n, shift, lost). -/
def Monitors.see (m : Monitors) (n shift : Nat) (lost : Bool) : Monitors :=
  { counts := if lost then vmod m.counts n (fun k => Nat.min 0xFFFFFFFF (k + 1)) else m.counts,
    shifts := vmod m.shifts n (fun k => Nat.max k (Nat.min 0xFFFF shift)) }

/-- The event of one level. -/
def Monitors.event (m : Monitors) (n : Nat) : Option (Nat × Bool) → Monitors
  | some (shift, lost) => m.see n shift lost
  | none => m

/-! ## A cell (R73) -/

/-- A cleared cell. -/
def Cell.zero : Cell :=
  { lv1 := .zero, lv2 := .zero, lv3 := .zero, n1 := 0, n2 := 0, nan := false, pinf := false, ninf := false, ufl := false, sum := 0 }

/-- A value enters level 3. -/
def enter3 (f : BitVec 31) (c : Cell) (m : Monitors) (x : Dyadic) : Cell × Monitors :=
  let a := levelAdd c.lv3 x (level3 f).width (level3 f).rne (level3 f).rtz
  ({ c with lv3 := a.value, ufl := c.ufl || a.ufl }, m.event 3 a.event)

/-- A value enters level 2. -/
def enter2 (f : BitVec 31) (c : Cell) (m : Monitors) (x : Dyadic) : Cell × Monitors :=
  let a := levelAdd c.lv2 x (level2 f).width (level2 f).rne (level2 f).rtz
  ({ c with lv2 := a.value, ufl := c.ufl || a.ufl }, m.event 2 a.event)

/-- A value enters level 1. -/
def enter1 (f : BitVec 31) (c : Cell) (m : Monitors) (x : Dyadic) : Cell × Monitors :=
  let a := levelAdd c.lv1 x (level1 f).width (level1 f).rne (level1 f).rtz
  ({ c with lv1 := a.value, ufl := c.ufl || a.ufl }, m.event 1 a.event)

/-- A closed chunk (R73). -/
def closeChunk (f : BitVec 31) (c : Cell) (m : Monitors) (x : Dyadic) : Cell × Monitors :=
  let (c, m) := enter1 f c m x
  let c := { c with n1 := c.n1 + 1 }
  if c.n1 < group1 f then (c, m)
  else
    let (c, m) := enter2 f c m c.lv1
    let c := { c with lv1 := .zero, n1 := 0, n2 := c.n2 + 1 }
    if c.n2 < group2 f then (c, m)
    else
      let (c, m) := enter3 f c m c.lv2
      ({ c with lv2 := .zero, n2 := 0 }, m)

/-- close (R74): the cell with its tree closed. -/
def closeTree (f : BitVec 31) (c : Cell) (m : Monitors) : Cell × Monitors :=
  let (c, m) := enter2 f c m c.lv1
  let c := { c with lv1 := .zero, n1 := 0 }
  let (c, m) := enter3 f c m c.lv2
  ({ c with lv2 := .zero, n2 := 0 }, m)

/-- What a closed cell holds (R74). -/
def Cell.value (c : Cell) : FVal :=
  if c.nan || (c.pinf && c.ninf) then .nan else if c.pinf then .inf false else if c.ninf then .inf true else c.lv3.fval

/-! ## Products (R69 to R71) -/

/-- One product as it reaches the sum. -/
inductive Term where
  | none
  | nan
  | inf (neg : Bool)
  | num (x : Dyadic)

/-- The product of two elements with a scale 2^sc (R69, R71); `bad` marks an MX scale of 0xFF. -/
def term (bad : Bool) (sc : Int) (a b : FVal) : Term :=
  if bad then .nan
  else match a.times b with
    | Option.none => .nan
    | some .nan => .nan
    | some (.inf n) => .inf n
    | some (.zero _) => .none
    | some (.num n m e) => .num { neg := n, mag := m, exp := e + sc }

/-- The nonzero finite products of a chunk, in order. -/
def finite (ts : List Term) : List Dyadic := ts.filterMap fun t => match t with | .num x => some x | _ => Option.none

/-- The flags that the others set (R69). -/
def flagTerm (c : Cell) : Term → Cell
  | .nan => { c with nan := true }
  | .inf false => { c with pinf := true }
  | .inf true => { c with ninf := true }
  | _ => c

/-- level0 (R70): the chunk's sum, and the monitor's events. -/
def level0 (f : BitVec 31) (m : Monitors) (xs : List Dyadic) : Dyadic × Monitors :=
  match xs with
  | [] => (.zero, m)
  | x :: rest =>
    let emax := rest.foldl (fun e y => if e < y.expOf then y.expOf else e) x.expOf
    let q := emax - level0Bits f
    let r := xs.foldl (fun (acc : Int × Monitors) y =>
      let (z, lost) := y.align q (level0Rne f)
      (acc.1 + z, acc.2.see 0 (emax - y.expOf).toNat lost)) (0, m)
    (Dyadic.ofInt r.1 q, r.2)

/-- The exact sum of a chunk of MXFP4 products, times 2^sc (R71). -/
def exactChunk (sc : Int) (xs : List Dyadic) : Dyadic :=
  let r := xs.foldl (fun (acc : Int × Int) y => addExact acc.1 acc.2 (signed y.neg y.mag) y.exp) (0, 0)
  Dyadic.ofInt r.1 (r.2 + sc)

/-- One chunk: `sc` is the common scale of an MXFP4 chunk, none for the other types. -/
def feedChunk (f : BitVec 31) (c : Cell) (m : Monitors) (sc : Option Int) (ts : List Term) : Cell × Monitors :=
  let c := ts.foldl flagTerm c
  match sc with
  | some e => closeChunk f c m (exactChunk e (finite ts))
  | none =>
    let (x, m) := level0 f m (finite ts)
    closeChunk f c m x

/-- The chunks of a word in order. -/
def feedChunks (f : BitVec 31) (c : Cell) (m : Monitors) : List (Option Int × List Term) → Cell × Monitors
  | [] => (c, m)
  | (sc, ts) :: rest =>
    let r := feedChunk f c m sc ts
    feedChunks f r.1 r.2 rest

/-- The integer kind (R75). -/
def feedInts (c : Cell) (zs : List Int) : Cell := { c with sum := zs.foldl (fun s z => s + BitVec.ofInt 32 z) c.sum }

/-! ## The level-3 internal form (R76, R263, R265) -/

/-- The bits of a level-3 image. -/
def packInternal (neg : Bool) (m : Nat) (q : Int) (c : Cell) : Nat :=
  let fl := 2 ^ 44 * (flag c.nan + 2 * flag c.pinf + 4 * flag c.ninf + 8 * flag c.ufl)
  if m == 0 then fl else m + 2 ^ 32 * (q.emod 2048).toNat + 2 ^ 43 * flag neg + fl

/-- lv3 as it stands, with Q = exp_of − w + 1; a value that the recorded width cannot hold is written exactly. -/
def internalOf (f : BitVec 31) (c : Cell) : Nat :=
  let x := c.lv3
  if x.isZero then packInternal false 0 0 c
  else
    let q := x.expOf - (level3 f).width + 1
    if q ≤ x.exp then packInternal x.neg (x.mag * 2 ^ (x.exp - q).toNat) q c
    else if x.mag % 2 ^ (q - x.exp).toNat == 0 then packInternal x.neg (x.mag / 2 ^ (q - x.exp).toNat) q c
    else
      let (z, _) := x.align (x.expOf - 30) false
      if x.mag < 2 ^ 31 then packInternal x.neg x.mag x.exp c else packInternal x.neg z.natAbs (x.expOf - 30) c

/-- An integer sum in the internal form (R263). -/
def internalInt (z : Int) (c : Cell) : Nat := if z.natAbs == 2 ^ 31 then packInternal (z < 0) (2 ^ 30) 1 c else packInternal (z < 0) z.natAbs 0 c

/-- C enters a cell from the internal form (R265). -/
def loadInternal (f : BitVec 31) (c : Cell) (m : Monitors) (x : Nat) : Cell × Monitors :=
  let bit (n : Nat) : Bool := x / 2 ^ n % 2 == 1
  let c := { c with nan := c.nan || bit 44, pinf := c.pinf || bit 45, ninf := c.ninf || bit 46, ufl := c.ufl || bit 47 }
  let mag := x % 2 ^ 31
  let q : Int := (BitVec.ofNat 11 (x / 2 ^ 32)).toInt
  if mag == 0 then (c, m)
  else
    let v : Dyadic := { neg := bit 43, mag := mag, exp := q }
    if 511 < v.expOf then (if v.neg then { c with ninf := true } else { c with pinf := true }, m)
    else if v.expOf < -511 then ({ c with ufl := true }, m)
    else enter3 f c m v

/-- C enters a cell from a floating format (R73, R265). -/
def loadC (f : BitVec 31) (c : Cell) (m : Monitors) (v : FVal) : Cell × Monitors :=
  match v with
  | .nan => ({ c with nan := true }, m)
  | .inf n => (if n then { c with ninf := true } else { c with pinf := true }, m)
  | v => enter3 f c m (Dyadic.ofFVal v)

end Sys2Proof.Machine
end

