-- ==== Sys2Proof/Machine/Image.lean ====
section
/-!
DEFINITION. The bytes of a team image (R330 to R333, R91): the team header, core images and crew images. Restore.lean reads them back.
-/

namespace Sys2Proof.Machine

/-- A list of bytes of exactly `n`: zeros fill it up. -/
def padBytes (n : Nat) (bs : List Byte) : List Byte := (bs ++ List.replicate (n - bs.length) 0).take n
/-- Filled up to a multiple of 4 KiB. -/
def padPage (bs : List Byte) : List Byte := padBytes (roundUp bs.length 4096) bs

/-! ## Core images (R331, R332) -/

/-- 8 bytes of a barrier. -/
def barrierBytes (b : Barrier) : List Byte :=
  leBytes 2 b.expected ++ leBytes 2 b.count ++ leBytes 1 (flag b.par) ++ leBytes 1 (flag b.abnd) ++ leBytes 2 0

/-- The ids of the barriers that a core holds: the kernel's, then the team barriers at the leader. -/
def barrierIds (k : KernelRec) (i : Nat) : List Nat :=
  List.range k.barriers ++ (if teamBars k i == 0 then [] else (List.range 64).map (448 + ·))

/-- 16 bytes of a queue. -/
def queueBytes (q : QueueSt) : List Byte :=
  leBytes 4 q.ring ++ leBytes 2 q.depth ++ leBytes 2 q.count ++ leBytes 2 q.head ++ leBytes 2 q.allow ++ leBytes 1 (flag q.init) ++ leBytes 3 0

/-- An accumulator in the form of R76, with the flags of `c`. -/
def sumBytes (c : Cell) (x : Dyadic) : List Byte :=
  if x.isZero then leBytes 8 (packInternal false 0 0 c) else leBytes 8 (packInternal x.neg x.mag x.exp c)

/-- A cell without its flags. -/
def Cell.bare (c : Cell) : Cell := { c with nan := false, pinf := false, ninf := false, ufl := false }

/-- 32 bytes of a cell-slot (R332). -/
def cellBytes (sl : MxSlot) (c : Cell) : List Byte :=
  match sl.kind with
  | .empty => List.replicate 32 0
  | .integer => padBytes 32 (leBytes 4 c.sum.toNat)
  | .floating => padBytes 32 (leBytes 8 (internalOf sl.fields c) ++ sumBytes c.bare c.lv2 ++ sumBytes c.bare c.lv1 ++ leBytes 1 c.n1 ++ leBytes 1 c.n2)

/-- The accumulators of a slot in row-major order. -/
def slotBytes (sl : MxSlot) : List Byte := (List.range 4096).flatMap fun i => cellBytes sl (kgetD sl.cells i Cell.zero)

/-- 64 bytes of a slot's status: counts, shifts, kind, recorded fields. -/
def statusBytes (sl : MxSlot) : List Byte :=
  let kind := match sl.kind with | .empty => 0 | .floating => 1 | .integer => 2
  padBytes 64 (sl.counts.toList.flatMap (leBytes 4) ++ sl.shifts.toList.flatMap (leBytes 2) ++ leBytes 1 kind ++ leBytes 4 sl.fields.toNat)

/-- 32 bytes of an atomic-buffer entry. -/
def bufBytes (sched index : Nat) (e : BufEntry) : List Byte :=
  padBytes 32 (leBytes 1 sched ++ leBytes 8 e.va.toNat ++ leBytes 1 index ++ leBytes 1 (e.ty.code + 16 * e.op + 64 * e.rm) ++ leBytes 8 e.value.toNat)

/-- The entries of a core's buffers, with their scheduler, in buffer order. -/
def coreEntries (co : CoreSt) : List (Nat × BufEntry) := (indexed co.bufs.toList).flatMap fun b => b.2.map fun e => (b.1, e)

/-- The index of the crew of an entry. -/
def entryIndex (crews : List Crew) (e : BufEntry) : Nat := match crews.find? (·.uid == e.crew) with | some c => c.index | none => 0

/-- 2 bytes of a granule. -/
def granBytes (g : Granule) : List Byte :=
  leBytes 1 (match g.st with | .clean => 1 | .dirty => 2 | _ => 0) ++ leBytes 1 g.marks.toNat

/-- The core image of team core index `i` (R331), from a core that holds buffered entries of the team only. -/
def coreImage (t : Team) (k : KernelRec) (crews : List Crew) (i : Nat) (co : CoreSt) : List Byte :=
  let slots := co.quads.toList.flatMap fun q => q.slots.toList
  padPage (cellsRead co.scratch (t.scratch0.getD i 0) (k.scratchG * 4096)) ++
    padPage (cellsRead co.tiles (t.tile0.getD i 0 * 256) (k.tileG * 64 * 256)) ++
    padPage ((barrierIds k i).flatMap fun b => barrierBytes (t.barrier i b)) ++
    padPage ((List.range k.queues).flatMap fun n => queueBytes (t.queue i n)) ++
    (if k.matrix then slots.flatMap slotBytes else []) ++
    padPage (padBytes 512 (if k.matrix then slots.flatMap statusBytes else [])) ++
    padPage ((coreEntries co).flatMap fun e => bufBytes e.1 (entryIndex crews e.2) e.2) ++
    padPage ((List.range (k.scratchG * 16)).flatMap fun n => granBytes (kgetD t.granules (65536 * i + n) Granule.empty))

/-! ## Crew images (R333) -/

/-- A join entry: join index, split identifier. -/
def joinBytes (e : JoinEntry) : List Byte := leBytes 4 e.join ++ leBytes 1 e.id ++ leBytes 3 0

/-- The age rank of a fragment among its crew's. -/
def ageRank (d : Diverge) (f : Frag) : Nat := (d.frags.filter fun g => g.2.stamp < f.stamp).length

/-- A slot record of a divergence image. -/
def slotRecord (d : Diverge) (n : Nat) : List Byte :=
  let active := d.serial.any fun e => e.slot == n
  match d.frag n with
  | none => padBytes 64 (List.replicate 21 0 ++ leBytes 1 (flag (d.gen n)))
  | some f =>
    let st := match f.st with | .ready => 1 | .parked => 2 | .atVsync => 3
    padBytes 64 (leBytes 8 f.owned.toNat ++ leBytes 8 f.exec.toNat ++ leBytes 4 f.lpc ++ leBytes 1 st ++
      leBytes 1 (flag (d.gen n) + 2 * flag active) ++ leBytes 2 f.stack.length ++ leBytes 8 (ageRank d f) ++ f.stack.reverse.flatMap joinBytes)

/-- A serial entry. -/
def serialBytes (e : SerialEntry) : List Byte :=
  leBytes 4 e.join ++ leBytes 4 e.resume ++ leBytes 8 e.maskN.toNat ++ leBytes 1 e.slot ++ leBytes 7 0

/-- A divergence image of 1 KiB. -/
def divergeBytes (d : Diverge) : List Byte :=
  padBytes 1024 ((List.range 8).flatMap (slotRecord d) ++ padBytes 384 (d.serial.reverse.flatMap serialBytes) ++ leBytes 1 d.serial.length)

/-- A lane-queue entry of 128 bytes. -/
def blockBytes (b : Block) : List Byte := leBytes 4 b.start ++ leBytes 4 0 ++ b.snap.toList.flatMap fun (x : W64) => leBytes 8 x.toNat

/-- 16 bytes of a counter: an open batch and a carried failure are given as their number. -/
def counterBytes (k : Counter) : List Byte :=
  leBytes 4 k.issued.toNat ++ leBytes 4 k.done.toNat ++ leBytes 4 (k.batches.filter fun b => !b.closed).length ++ leBytes 4 k.carried.length

/-- 16 bytes of an armed operation. -/
def armedBytes (a : Armed) : List Byte :=
  let kind := match a.kind with | .copy n => n | .arrive => 4 | .push => 8
  leBytes 4 a.threshold.toNat ++ leBytes 1 kind ++ leBytes 1 1 ++ leBytes 2 a.order ++ leBytes 8 a.operand.toNat

/-- The number of a store-class kind in a side-log entry. -/
def logKind (e : StoreEntry) : Nat := match e.kind with | .plain => flag (!e.scalar) | .vred => 2 | .vrdx => 3 | .vatom => 4

/-- The byte of type, operation and RM: the type in [3:0], the operation from [4], RM in [7:6]; an atomic has no RM and an operation of three bits
(log 17). -/
def logTypeByte (e : StoreEntry) : Nat := e.ty.code + 16 * e.op + (if e.kind == .vatom then 0 else 64 * e.rm)

/-- A side-log entry of 1,088 bytes. P belongs to VRDX (R53). -/
def logBytes (e : StoreEntry) : List Byte :=
  let lane (f : LaneAcc → W64) (i : Nat) : List Byte := leBytes 8 (match e.lanes.find? (·.lane == i) with | some l => (f l).toNat | none => 0)
  leBytes 1 (logKind e) ++ leBytes 1 e.width ++ leBytes 1 (logTypeByte e) ++ leBytes 1 (if e.kind == .vrdx then e.p else 0) ++ leBytes 4 e.word ++
    leBytes 8 (maskOf fun i => e.lanes.any (·.lane == i)).toNat ++ leBytes 48 0 ++ (List.range 64).flatMap (lane LaneAcc.va) ++
    (List.range 64).flatMap (lane LaneAcc.data)

/-- The special registers of a crew image, in order. -/
def crewSpecials (c : Crew) : List W64 :=
  [c.astat, c.skew] ++ c.tscr.toList ++ [c.tcause, c.tspc, c.tlpc, c.texec, c.tfmask, c.tinfo, c.taddr, c.tvec] ++ c.tsplit.toList ++
    c.tword.toList

/-- The vector registers of a crew, fast ones first (R91). -/
def vectorBytes (c : Crew) : List Byte :=
  (List.range c.fast ++ (List.range c.slow).map (192 + ·)).flatMap fun n => (c.rv n).toList.flatMap fun (x : W32) => leBytes 4 x.toNat

/-- The header of a crew image; a SYSC is outstanding in the stream or in what a trap has frozen. -/
def crewHeader (light : Bool) (c : Crew) : List Byte :=
  let asked (a : Await) : Option Nat := match a with | .sysc tag _ => some tag | _ => none
  let tag := (asked c.await).or (c.frozen.bind fun f => asked f.await)
  let queue := match c.frozen with | some f => f.laneQ | none => c.laneQ
  leBytes 1 (if light then 1 else 2) ++ leBytes 1 (flag c.handler + 2 * flag tag.isSome + 4 * flag c.fenceFlag) ++ leBytes 2 c.index ++ leBytes 4 c.spc ++
    leBytes 1 queue.length ++ leBytes 1 c.sideLog.length ++ leBytes 1 (c.fast / 8) ++ leBytes 1 (c.slow / 8) ++ leBytes 4 0 ++ leBytes 8 (tag.getD 0) ++
    leBytes 40 0

/-- The crew image (R333), light when the crew has yielded. -/
def crewImage (c : Crew) : List Byte :=
  let light := c.st == .yielded
  let words (v : List W64) : List Byte := v.flatMap fun (x : W64) => leBytes 8 x.toNat
  let queue := match c.frozen with | some f => f.laneQ | none => c.laneQ
  let slot := if c.handler then c.laneQ.take 1 else []
  let part (n : Nat) (bs : List Byte) : List Byte := padBytes n (if light then [] else bs)
  crewHeader light c ++ words (c.s.toList.set 0 0) ++ words (c.p.toList.set 0 allLanes) ++ words c.t.toList ++ padBytes 256 (words (crewSpecials c)) ++
    c.cc.toList.flatMap counterBytes ++ c.cc.toList.flatMap (fun k => padBytes 64 (k.armed.flatMap armedBytes)) ++
    part 512 (queue.flatMap blockBytes) ++ part 128 (slot.flatMap blockBytes) ++ leBytes 192 0 ++ part 1024 (divergeBytes c.div) ++
    part 1024 (match c.frozen with | some f => divergeBytes f.div | none => []) ++ vectorBytes c ++ c.sideLog.flatMap logBytes

/-! ## The team image (R330) -/

/-- The bytes of a team image, rounded to 4 KiB (R330 to R333). -/
def imageSize (l : Launch) : Nat :=
  let k := l.kernel
  let cells := if k.matrix then 2 ^ 20 else 0
  let core := roundUp (k.scratchG * 4096) 4096 + roundUp (k.tileG * 64 * 256) 4096 + roundUp (8 * (k.barriers + 64)) 4096 +
    roundUp (16 * k.queues) 4096 + cells + 4096 + roundUp (32 * 1024) 4096 + roundUp (2 * (k.scratchG * 16)) 4096
  let crew (r : Nat) : Nat :=
    roundUp (0x1200 + 256 * 8 * (k.fastG.getD (roleKind r) 0 + k.slowG.getD (roleKind r) 0) + 1088 * 64) 4096
  4096 + k.shape * core + (k.roles.map crew).foldl (· + ·) 0


/-- Where images that stand one after another begin, from `off` on. -/
def offsetsFrom : Nat → List (List Byte) → List Nat
  | _, [] => []
  | off, b :: bs => off :: offsetsFrom (off + b.length) bs

/-- The image: header, core images, crew images, each at a multiple of 4 KiB. -/
def teamImage (t : Team) (l : Launch) (crews : List Crew) (cores : List CoreSt) : List Byte :=
  let cores : List (List Byte) := (indexed cores).map fun e => coreImage t l.kernel crews e.1 e.2
  let coreOffs := offsetsFrom 4096 cores
  let cs : List (List Byte) := crews.map fun c => padPage (crewImage c)
  let crewOffs := offsetsFrom (4096 + (cores.map (fun (b : List Byte) => b.length)).foldl (· + ·) 0) cs
  let offAt (i : Nat) : Nat := match (crews.zip crewOffs).find? (fun (e : Crew × Nat) => e.1.index == i) with | some (e : Crew × Nat) => e.2 | none => 0
  let offs : List Byte := (List.range 192).flatMap fun i => leBytes 8 (offAt i)
  let head : List Byte :=
    leBytes 8 t.index ++ leBytes 8 l.jIndex ++ leBytes 1 l.kernel.shape ++ leBytes 1 t.reqReason ++ leBytes 2 l.kernel.crews ++ leBytes 4 0 ++
      padBytes 32 (coreOffs.flatMap (leBytes 8)) ++ offs
  padBytes 4096 head ++ cores.flatten ++ cs.flatten

end Sys2Proof.Machine
end

