-- ==== Sys2Proof/Machine/Restore.lean ====
section
/-!
DEFINITION. Restoring reverses the team image (R329 to R333): the memory processor reads the image, and what has changed there since it was
written is what the team resumes with (log 17).
-/

namespace Sys2Proof.Machine

/-- A record of an image as it resumes: what the image still holds of it comes back as it was, else its bytes are read. -/
def fromImage {α : Type} (enc : α → List Byte) (dec : α → List Byte → α) (x : α) (bs : List Byte) : α := if enc x == bs then x else dec x bs

/-- Records of `n` bytes that stand one after another. -/
def fromImages {α : Type} (n : Nat) (enc : α → List Byte) (dec : α → List Byte → α) (xs : List α) (bs : List Byte) : List α :=
  (indexed xs).map fun e => fromImage enc dec e.2 ((bs.drop (n * e.1)).take n)

/-- `n` bytes of a block at an offset. -/
def cut (bs : List Byte) (off n : Nat) : List Byte := (bs.drop off).take n

/-- The 64-bit words of a block. -/
def wordsAt (bs : List Byte) (n : Nat) : Vector W64 n := Vector.ofFn fun i => w64 (leAt bs (8 * i.val) 8)

/-! ## Crew images (R333) -/

/-- A counter. How many batches are open and how many failures are carried is read; what they hold is not in the image. -/
def readCounter (k : Counter) (bs : List Byte) : Counter :=
  { k with issued := w32 (leAt bs 0 4), done := w32 (leAt bs 4 4), carried := k.carried.take (leAt bs 12 4),
           batches := if leAt bs 8 4 == 0 then k.batches.filter (·.closed) else k.batches }

/-- The armed operations of a counter; what the image does not hold of one is as it was. -/
def readArmed (old : List Armed) (bs : List Byte) : List Armed :=
  ((List.range 4).filter fun i => leAt bs (16 * i + 5) 1 % 2 == 1).map fun i =>
    let b := cut bs (16 * i) 16
    let a := old.getD i { threshold := 0, kind := .arrive, operand := 0, order := 0, synced := 0, word := 0 }
    let code := leAt b 4 1
    { a with threshold := w32 (leAt b 0 4), kind := if code == 4 then .arrive else if code == 8 then .push else .copy code,
             order := a.order / 65536 * 65536 + leAt b 6 2, operand := w64 (leAt b 8 8) }

/-- A lane-queue entry. -/
def readBlock (b : Block) (bs : List Byte) : Block := { b with start := leAt bs 0 4, snap := wordsAt (bs.drop 8) 15 }

/-- A block of a crew that the image holds and the crew did not. -/
def Crew.blankBlock (c : Crew) : Block :=
  { ord := c.nextBlock, stamp := 0, start := 0, snap := Vector.replicate 15 0, skew := c.skew, tiles := c.t, cfence := c.cfence }

/-- A lane queue of `n` entries. -/
def readQueue (c : Crew) (old : List Block) (n : Nat) (bs : List Byte) : List Block :=
  fromImages 128 blockBytes readBlock ((old ++ List.replicate 4 c.blankBlock).take n) bs

/-- A join entry. -/
def readJoin (bs : List Byte) : JoinEntry := { join := leAt bs 0 4, id := leAt bs 4 1 % 16 }

/-- A slot record: its fragment stands by its rank. -/
def readSlot (sl : SplitSlot) (bs : List Byte) : SplitSlot :=
  let st := leAt bs 20 1
  let f := sl.frag.getD (newFrag 0 0 0 [])
  let frag : Frag :=
    { f with owned := w64 (leAt bs 0 8), exec := w64 (leAt bs 8 8), lpc := leAt bs 16 4, st := if st == 2 then .parked else if st == 3 then .atVsync else .ready,
             stamp := leAt bs 24 8, stack := ((List.range (Nat.min 4 (leAt bs 22 2))).map fun i => readJoin (cut bs (32 + 8 * i) 8)).reverse }
  { gen := leAt bs 21 1 % 2 == 1, frag := if st == 0 then none else some frag }

/-- A serial entry. -/
def readSerial (e : SerialEntry) (bs : List Byte) : SerialEntry :=
  { e with join := leAt bs 0 4, resume := leAt bs 4 4, maskN := w64 (leAt bs 8 8), slot := leAt bs 16 1 }

/-- A divergence image. -/
def readDiverge (d : Diverge) (bs : List Byte) : Diverge :=
  let old := d.serial.reverse ++ List.replicate 16 { join := 0, resume := 0, maskN := 0, ran := 0, slot := 0, second := false }
  { d with slots := Vector.ofFn fun n => readSlot d.slots[n] (cut bs (64 * n.val) 64),
           serial := ((indexed (old.take (Nat.min 16 (leAt bs 0x380 1)))).map fun e => readSerial e.2 (cut bs (0x200 + 24 * e.1) 24)).reverse }

/-- A side-log entry, whose pages are asked for again as it replays. -/
def readLog (e : StoreEntry) (bs : List Byte) : StoreEntry :=
  let kind := leAt bs 0 1
  let ty := leAt bs 2 1
  let lane (i : Nat) : LaneAcc :=
    { lane := i, va := w64 (leAt bs (64 + 8 * i) 8), pa := 0, data := w64 (leAt bs (576 + 8 * i) 8), expect := 0, took := none, hi := none }
  { e with scalar := kind == 0, kind := if kind == 2 then .vred else if kind == 3 then .vrdx else if kind == 4 then .vatom else .plain,
           width := leAt bs 1 1, ty := (Ty.ofCode (ty % 16)).getD .b32, op := if kind == 4 then ty / 16 % 8 else ty / 16 % 4,
           rm := if kind == 4 then e.rm else ty / 64, p := if kind == 3 then leAt bs 3 1 else e.p, word := leAt bs 4 4,
           lanes := (lanesOf (w64 (leAt bs 8 8))).map lane, waits := [] }

/-- A side-log entry that the image holds and the crew did not. -/
def blankEntry : StoreEntry :=
  { stamp := 0, scalar := true, kind := .plain, space := .global, width := 4, ty := .b32, op := 0, rm := 0, p := 0, lanes := [], port := none, word := 0,
    slot := 0, block := 0, waits := [], sent := none, wrote := [] }

/-- The special registers. -/
def readSpecials (c : Crew) (bs : List Byte) : Crew :=
  let w (n : Nat) : W64 := w64 (leAt bs (8 * n) 8)
  { c with astat := w 0, skew := w 1, tscr := wordsAt (bs.drop 16) 2, tcause := w 4, tspc := w 5, tlpc := w 6, texec := w 7, tfmask := w 8, tinfo := w 9,
           taddr := w 10, tvec := w 11, tsplit := wordsAt (bs.drop 96) 8, tword := wordsAt (bs.drop 160) 2 }

/-- The header: handler mode, the tag of a SYSC that is outstanding, the fence flag, SPC. -/
def readHeader (c : Crew) (bs : List Byte) : Crew :=
  let fl := leAt bs 1 1
  let asked (a : Await) : Await := match a with | .sysc _ v => if fl / 2 % 2 == 1 then .sysc (leAt bs 16 8) v else .none | a => a
  let c := { c with spc := leAt bs 4 4, fenceFlag := fl / 4 % 2 == 1, await := asked c.await, frozen := c.frozen.map fun (f : Frozen) => { f with await := asked f.await } }
  if fl % 2 == 1 then { c with handler := c.frozen.isSome } else { c with handler := false, frozen := none }

/-- The vector registers of a crew, fast ones first. -/
def readVectors (c : Crew) (bs : List Byte) : Crew :=
  (indexed (List.range c.fast ++ (List.range c.slow).map (192 + ·))).foldl (fun c e =>
    { c with v := kset c.v e.2 (lanesFn fun i => w32 (leAt bs (256 * e.1 + 4 * i) 4)) }) c

/-- The parts of a full image that a light one leaves zero. -/
def readStreams (c : Crew) (bs : List Byte) : Crew :=
  let queue := match c.frozen with | some f => f.laneQ | none => c.laneQ
  let queue := readQueue c queue (leAt bs 8 1) (cut bs 0x6C0 512)
  let slot := readQueue c (c.laneQ.take 1) (c.laneQ.take 1).length (cut bs 0x8C0 128)
  let c := { c with div := fromImage divergeBytes readDiverge c.div (cut bs 0xA00 1024) }
  match c.frozen with
  | some f => { c with laneQ := slot, frozen := some { f with laneQ := queue, div := fromImage divergeBytes readDiverge f.div (cut bs 0xE00 1024) } }
  | none => { c with laneQ := queue }

/-- A crew from its image. -/
def readCrew (c : Crew) (bs : List Byte) : Crew :=
  let words (v : List W64) : List Byte := v.flatMap fun (x : W64) => leBytes 8 x.toNat
  let light := c.st == .yielded
  let c := fromImage (crewHeader light) readHeader c (cut bs 0 64)
  let c := { c with s := (wordsAt (cut bs 0x40 512) 64).set 0 0, p := (wordsAt (cut bs 0x240 128) 16).set 0 allLanes, t := wordsAt (cut bs 0x2C0 128) 16 }
  let c := fromImage (fun c => padBytes 256 (words (crewSpecials c))) readSpecials c (cut bs 0x340 256)
  let counter (i : Nat) (k : Counter) : Counter :=
    let k := fromImage counterBytes readCounter k (cut bs (0x440 + 16 * i) 16)
    { k with armed := fromImage (fun a => padBytes 64 (a.flatMap armedBytes)) readArmed k.armed (cut bs (0x4C0 + 64 * i) 64) }
  let c := { c with cc := Vector.ofFn fun i => counter i.val c.cc[i] }
  let c := if light then c else readStreams c bs
  let c := fromImage vectorBytes readVectors c (cut bs 0x1200 (256 * (c.fast + c.slow)))
  let log := (c.sideLog ++ List.replicate 64 blankEntry).take (leAt bs 9 1)
  { c with sideLog := fromImages 1088 logBytes readLog log (bs.drop (0x1200 + 256 * (c.fast + c.slow))) }

/-! ## Core images (R331, R332) -/

/-- A barrier. -/
def readBarrier (b : Barrier) (bs : List Byte) : Barrier :=
  { b with expected := leAt bs 0 2, count := leAt bs 2 2, par := leAt bs 4 1 % 2 == 1, abnd := leAt bs 5 1 % 2 == 1 }

/-- A queue. -/
def readQueueSt (_ : QueueSt) (bs : List Byte) : QueueSt :=
  { ring := leAt bs 0 4, depth := leAt bs 4 2, count := leAt bs 6 2, head := leAt bs 8 2, allow := leAt bs 10 2, init := leAt bs 12 1 % 2 == 1 }

/-- A sum in the form of R76. -/
def readSum (x : Nat) : Dyadic := { neg := x / 2 ^ 43 % 2 == 1, mag := x % 2 ^ 31, exp := (BitVec.ofNat 11 (x / 2 ^ 32)).toInt }

/-- A cell-slot. -/
def readCell (kind : SlotKind) (c : Cell) (bs : List Byte) : Cell :=
  match kind with
  | .empty => Cell.zero
  | .integer => { c with sum := w32 (leAt bs 0 4) }
  | .floating =>
    let x := leAt bs 0 8
    let bit (n : Nat) : Bool := x / 2 ^ n % 2 == 1
    { c with lv3 := readSum x, lv2 := readSum (leAt bs 8 8), lv1 := readSum (leAt bs 16 8), n1 := leAt bs 24 1, n2 := leAt bs 25 1,
             nan := bit 44, pinf := bit 45, ninf := bit 46, ufl := bit 47 }

/-- The cells of a slot. -/
def readCells (sl : MxSlot) (bs : List Byte) : MxSlot :=
  let one (i : Nat) : Option (Nat × Cell) :=
    let c := fromImage (cellBytes sl) (readCell sl.kind) (kgetD sl.cells i Cell.zero) (cut bs (32 * i) 32)
    if c == Cell.zero then none else some (i, c)
  { sl with cells := (List.range 4096).filterMap one }

/-- A slot's status. -/
def readStatus (sl : MxSlot) (bs : List Byte) : MxSlot :=
  let kind := leAt bs 24 1
  { sl with counts := Vector.ofFn fun i => leAt bs (4 * i.val) 4, shifts := Vector.ofFn fun i => leAt bs (16 + 2 * i.val) 2,
            kind := if kind == 1 then .floating else if kind == 2 then .integer else .empty, fields := BitVec.ofNat 31 (leAt bs 25 4) }

/-- An entry of an atomic buffer. Its crew is the one of its index, and its address has the physical address of its page. -/
def readBuf (crews : List Crew) (leaf : Nat → Option Nat) (e : Nat × BufEntry) (bs : List Byte) : Nat × BufEntry :=
  let b := leAt bs 10 1
  let va := leAt bs 1 8
  let u := match crews.find? (·.index == leAt bs 9 1) with | some c => c.uid | none => e.2.crew
  (leAt bs 0 1 % 4, { e.2 with crew := u, va := w64 va, pa := (leaf va).getD e.2.pa, ty := (Ty.ofCode (b % 16)).getD .f32, op := b / 16 % 4, rm := b / 64,
                               value := w32 (leAt bs 11 8) })

/-- A granule. -/
def readGran (g : Granule) (bs : List Byte) : Granule :=
  { g with st := match leAt bs 0 1 with | 1 => .clean | 2 => .dirty | _ => .empty, marks := BitVec.ofNat 8 (leAt bs 1 1) }

/-- The offsets of the parts of a core image, and its end. -/
def partOffsets (k : KernelRec) (i entries : Nat) : List Nat :=
  let sizes := [k.scratchG * 4096, k.tileG * 64 * 256, 8 * (barrierIds k i).length, 16 * k.queues, if k.matrix then 2 ^ 20 else 0, 512, 32 * entries,
                2 * (k.scratchG * 16)]
  (sizes.foldl (fun (r : List Nat × Nat) n => (r.1 ++ [r.2], r.2 + roundUp n 4096)) ([], 0)).1

/-- The part of a core's state that its image holds, from the image at physical address `pa`: the team with its barriers, queues and granules, and the
core. The bytes of a poisoned sector come back with an error (R372). -/
def readCore (s : State) (dev : Nat) (leaf : Nat → Option Nat) (k : KernelRec) (crews : List Crew) (t : Team) (i : Nat) (co : CoreSt) (pa : Nat) : Team × CoreSt :=
  let es := coreEntries co
  let offs := partOffsets k i es.length
  let at_ (n : Nat) : Nat := pa + offs.getD n 0
  let bytes (n len : Nat) : List Byte := mpBlock s dev (at_ n) len
  let bad (n len : Nat) : List Nat := (List.range len).filter fun j => match homeKey dev (at_ n + j) with | some key => deliversBad s (key / 32) | none => false
  let scr := t.scratch0.getD i 0
  let tile := t.tile0.getD i 0 * 256
  let ids := barrierIds k i
  let bars := fromImages 8 barrierBytes readBarrier (ids.map (t.barrier i)) (bytes 2 (8 * ids.length))
  let qs := fromImages 16 queueBytes readQueueSt ((List.range k.queues).map (t.queue i)) (bytes 3 (16 * k.queues))
  let gs := fromImages 2 granBytes readGran ((List.range (k.scratchG * 16)).map fun n => kgetD t.granules (65536 * i + n) Granule.empty)
    (bytes 7 (2 * (k.scratchG * 16)))
  let put {α : Type} [DecidableEq α] (key : Nat → Nat) (old : Nat → α) (m : KMap α) (xs : List (Nat × α)) : KMap α :=
    xs.foldl (fun m x => if x.2 == old x.1 then m else kset m (key x.1) x.2) m
  let t' := { t with barriers := put (fun id => 512 * i + id) (t.barrier i) t.barriers (ids.zip bars),
                     queues := put (fun n => queueKey i n) (t.queue i) t.queues (indexed qs),
                     granules := put (fun n => 65536 * i + n) (fun n => kgetD t.granules (65536 * i + n) Granule.empty) t.granules (indexed gs) }
  let slot (n : Nat) (sl : MxSlot) : MxSlot :=
    let sl := fromImage statusBytes readStatus sl (cut (bytes 5 512) (64 * n) 64)
    fromImage slotBytes readCells sl (mpBlock s dev (at_ 4 + 2 ^ 17 * n) (2 ^ 17))
  let quad (q : Nat) (d : Quad) : Quad := { d with slots := Vector.ofFn fun n => slot (2 * q + n.val) d.slots[n] }
  let es := fromImages 32 (fun e => bufBytes e.1 (entryIndex crews e.2) e.2) (readBuf crews leaf) es (bytes 6 (32 * es.length))
  (t', { co with
    scratch := fromImage (fun m => cellsRead m scr (k.scratchG * 4096)) (fun m bs => cellsWrite m scr bs) co.scratch (bytes 0 (k.scratchG * 4096)),
    tiles := fromImage (fun m => cellsRead m tile (k.tileG * 64 * 256)) (fun m bs => cellsWrite m tile bs) co.tiles (bytes 1 (k.tileG * 64 * 256)),
    scrPoison := dedup (co.scrPoison ++ (bad 0 (k.scratchG * 4096)).map (scr + ·)),
    tilePoison := dedup (co.tilePoison ++ (bad 1 (k.tileG * 64 * 256)).map (tile + ·)),
    quads := if k.matrix then Vector.ofFn fun q => quad q.val co.quads[q] else co.quads,
    bufs := Vector.ofFn fun b => (es.filter (·.1 == b.val)).map (·.2) })

/-! ## The team image (R330) -/

/-- A saved team as the memory processor reads it back from its image: the offsets of its parts are those that the image's header holds. -/
def readImage (s : State) (l : Launch) (t : Team) (crews : List Crew) (cores : List CoreSt) : State × Team × List Crew × List CoreSt :=
  let dev := l.dev.val
  let s := mpTouch s dev t.image (imageSize l)
  let at_ (off : Nat) : Nat := t.image + leNat (mpRead s dev (t.image + off) 8)
  let leaf (va : Nat) : Option Nat := match ctxOf s l.ctx with
    | some x => (leafAt x.ptes va).map fun e => leafPa e.2.2 e.2.1 va
    | none => none
  let read (r : Team × List CoreSt) (e : Nat × CoreSt) : Team × List CoreSt :=
    let (t, co) := readCore s dev leaf l.kernel crews r.1 e.1 e.2 (at_ (0x18 + 8 * e.1))
    (t, r.2 ++ [co])
  let (t', cores) := (indexed cores).foldl read (t, [])
  let crew (c : Crew) : Crew :=
    let len := 0x1200 + 256 * (c.fast + c.slow) + 1088 * 64
    readCrew c (mpBlock s dev (at_ (0x38 + 8 * c.index)) len)
  (s, t', crews.map crew, cores)

end Sys2Proof.Machine
end

