-- ==== Sys2Proof/Machine/Distributor.lean ====
section
/-!
DEFINITION. The distributor (R347 to R350): what a core has free, eligible clusters, the choice of a cluster, placing a team, restoring a saved
one (R329), and raising PREQ (R325, R350).
-/

namespace Sys2Proof.Machine

/-! ## What a core holds (R348) -/

/-- What stands on a core, the team `but` left out. An ended crew has given its slot and granules back (R242). -/
def coreUse (s : State) (die core : Nat) (but : Option Nat) : CoreUse :=
  let team (u : CoreUse) (t : Team) : CoreUse :=
    if t.die != die || some t.uid == but then u
    else match launchOf s t.launch with
      | none => u
      | some l => (indexed t.cores).foldl (fun u e =>
          if e.2 == core then u.addTeam l.kernel e.1 (t.scratch0.getD e.1 0 / 4096) (t.tile0.getD e.1 0 / 64) else u) u
  let crew (u : CoreUse) (c : Crew) : CoreUse :=
    if c.die != die || c.core != core || some c.team == but || c.st == .ended then u else u.addCrew c.slot (c.fast / 8) (c.slow / 8)
  (s.crews.map (·.2)).foldl crew ((s.teams.map (·.2)).foldl team CoreUse.none)

/-! ## Capacity (R349) -/

/-- Further shares that a core takes, one after another (R349); energy bounds them by 16. -/
def shareCount (k : KernelRec) (i : Nat) : Nat → CoreUse → Nat
  | 0, _ => 0
  | n + 1, u => match fitShare u k i with | some (v, _) => shareCount k i n v + 1 | none => 0

/-- capacity(c) of R349. -/
def capacity (k : KernelRec) (u : CoreUse) : Nat := ((listMin ((List.range k.shape).map fun i => shareCount k i 16 u))).getD 0

/-- The shares of a team on a cluster, if it is eligible (R348). -/
def fitCluster (s : State) (k : KernelRec) (but : Option Nat) (cl : Nat × List Nat) : Option (List Share) :=
  (indexed cl.2).mapM fun e => (fitShare (coreUse s cl.1 e.2 but) k e.1).map (·.2)

/-! ## Choosing a cluster (R349, R368) -/

/-- Teams of a launch that wait for a cluster. -/
def Launch.unplaced (l : Launch) : Nat := l.back.length + (l.record.grid - l.next)

/-- The next team to place: what came back first, then the next index. -/
def Launch.nextTeam (l : Launch) : Option Unplaced :=
  match l.back with
  | u :: _ => some u
  | [] => if l.next < l.record.grid then some { index := l.next, saved := none, run := .original, avoid := [] } else none

/-- places of R349. -/
def placesOf (s : State) (l : Launch) : Nat :=
  let one (die c : Nat) : Nat :=
    if inCoreset l.record l.dev.val die c && coreUsable s die c then capacity l.kernel (coreUse s die c none) else 0
  ((List.range 2).flatMap fun d => (List.range 40).map (one d)).foldl (· + ·) 0 / l.kernel.shape

/-- The most heavily loaded core of a cluster, in resident teams. -/
def clusterLoad (s : State) (cl : Nat × List Nat) : Nat := (cl.2.map fun c => (coreUse s cl.1 c none).teams).foldl Nat.max 0

/-- The clusters that the next team of a launch may take, before the choice: a replay stays off the cores of earlier runs, and prefers the
other die (R368). -/
def openClusters (s : State) (l : Launch) (u : Unplaced) (but : Option Nat) : List (Nat × List Nat) :=
  let all := (candidates s l.record l.dev.val l.kernel.shape).filter fun cl => (fitCluster s l.kernel but cl).isSome
  let apart := all.filter fun cl => cl.2.all fun c => !u.avoid.contains (cl.1, c)
  if u.run == .replay && l.dev.val == 0 then
    let other := apart.filter fun cl => u.avoid.all fun a => a.1 != cl.1
    if other.isEmpty then apart else other
  else apart

/-- The cluster that the next team takes (R349): packed, freed clusters first by age, or spread. -/
def chooseCluster (s : State) (l : Launch) (u : Unplaced) : Option (Nat × List Nat) :=
  let open_ := openClusters s l u none
  if placesOf s l ≤ l.unplaced then
    let freed := ((sortBy (·.1) (devOf s l.dev.val).freed).map (·.2)).filter open_.contains
    (freed ++ open_).head?
  else (sortBy (clusterLoad s) open_).head?

/-! ## Placing (R349, R366, R78, R116) -/

/-- A crew as it is created (R78, R85): SPC at the kernel's entry. -/
def newCrew (k : KernelRec) (uid team index role die core slot : Nat) : Crew :=
  { Crew.reset with
    uid := uid, team := team, index := index, die := die, core := core, slot := slot, role := role, spc := k.entry,
    fast := 8 * k.fastG.getD (roleKind role) 0, slow := 8 * k.slowG.getD (roleKind role) 0 }

/-- A team as it is placed. -/
def newTeam (l : Launch) (u : Unplaced) (uid age die : Nat) (cores : List Nat) (shares : List Share) : Team :=
  { uid := uid, avoid := u.avoid, launch := l.uid, index := u.index, age := age, die := die, cores := cores, scratch0 := shares.map Share.scr,
    tile0 := shares.map Share.tile, st := .resident, barriers := [], barReqs := [], barSeen := [], barSent := [], queues := [], granules := [], lost := [],
    halted := false, failure := none, reqReason := 0, drained := false, image := 0, run := u.run, sigSum := 0, sigCount := 0,
    shadows := [], shadowMem := [], shadowBad := [] }

/-- The allocation of an audited team starts zeroed (R366). -/
def zeroShare (s : State) (k : KernelRec) (die core : Nat) (sh : Share) : State :=
  modCore s die core fun co =>
    { co with
      scratch := cellsClear co.scratch sh.scr (k.scratchG * 4096), tiles := cellsClear co.tiles (sh.tile * 256) (k.tileG * 64 * 256),
      scrPoison := co.scrPoison.filter fun p => p < sh.scr || sh.scr + k.scratchG * 4096 ≤ p,
      tilePoison := co.tilePoison.filter fun p => p < sh.tile * 256 || (sh.tile + k.tileG * 64) * 256 ≤ p }

/-- The slot that the shares give a crew. -/
def slotOf (shares : List Share) (i : Nat) : Nat := (((shares.flatMap Share.slots).find? (·.1 == i)).map (·.2)).getD 0

/-- Creates the crews of a new team. -/
def createCrews (s : State) (k : KernelRec) (team die : Nat) (cores : List Nat) (shares : List Share) : State :=
  (indexed k.roles).foldl (fun s r =>
    let uid := s.nextUid
    let c := newCrew k uid team r.1 r.2 die (cores.getD (roleCore r.2) 0) (slotOf shares r.1)
    { putCrew s uid c with nextUid := uid + 1 }) s

/-- A core with a team's storage, matrix state and atomic buffers restored (R329); buffered entries follow their crew to its new scheduler,
`sched`. -/
def restoreCore (s : State) (k : KernelRec) (die core : Nat) (sh : Share) (old : CoreSt) (scr0 tile0 : Nat) (sched : Nat → Nat) : State :=
  let back := old.bufs.toList.flatten
  let s := zeroShare s k die core sh
  modCore s die core fun co =>
    { co with
      scratch := cellsWrite co.scratch sh.scr (cellsRead old.scratch scr0 (k.scratchG * 4096)),
      tiles := cellsWrite co.tiles (sh.tile * 256) (cellsRead old.tiles (tile0 * 256) (k.tileG * 64 * 256)),
      scrPoison := co.scrPoison ++ (old.scrPoison.filter fun p => scr0 ≤ p && p < scr0 + k.scratchG * 4096).map fun p => p - scr0 + sh.scr,
      tilePoison := co.tilePoison ++
        (old.tilePoison.filter fun p => tile0 * 256 ≤ p && p < (tile0 + k.tileG * 64) * 256).map fun p => p - tile0 * 256 + sh.tile * 256,
      quads := if k.matrix then old.quads else co.quads,
      bufs := Vector.ofFn fun i => co.bufs[i] ++ back.filter fun e => sched e.crew == i.val }

/-- A crew as it resumes (R329, R333): its fragments keep their order and are younger than every live one; every word that held issues
again; its log replays at once, a page not yet answered being asked for again, a refusal already given standing. -/
def resumeCrew (s : State) (die : Nat) (cores : List Nat) (shares : List Share) (c : Crew) : Crew :=
  let young (f : Frag) : Frag := { f with stamp := s.nextStamp + f.stamp, held := [] }
  let slot (sl : SplitSlot) : SplitSlot := { sl with frag := sl.frag.map young }
  let div (d : Diverge) : Diverge := { d with slots := d.slots.map slot }
  let asked (e : StoreEntry) : StoreEntry := { e with waits := e.waits.filter fun w => w.answer == some false }
  { c with
    sideLog := c.sideLog.map asked,
    die := die, core := cores.getD c.coreIdx 0, slot := slotOf shares c.index, st := if c.st == .yielded || c.st == .stopped then .running else c.st,
    reqLeft := 0, div := div c.div, frozen := c.frozen.map fun f => { f with div := div f.div }, held := [] }

/-- A saved team stands again on a cluster (R329), as its image holds it: side logs replay at once, PREQ reads 0. -/
def restoreTeam (s : State) (l : Launch) (old : Team) (crews : List Crew) (cores : List CoreSt) (die : Nat) (cl : List Nat) (shares : List Share) :
    State :=
  let (s, old, crews, cores) := readImage s l old crews cores
  let t : Team :=
    { old with die := die, cores := cl, age := s.nextAge, scratch0 := shares.map Share.scr, tile0 := shares.map Share.tile, st := .resident,
               reqReason := 0 }
  let s := putTeam s t.uid t
  let sched (u : Nat) : Nat := match crews.find? (·.uid == u) with | some c => slotOf shares c.index / 12 | none => 0
  let s := (indexed cl).foldl (fun s e =>
    match cores[e.1]?, shares[e.1]? with
    | some co, some sh => restoreCore s l.kernel die e.2 sh co (old.scratch0.getD e.1 0) (old.tile0.getD e.1 0) sched
    | _, _ => s) s
  let stamps (c : Crew) : List Nat := (c.div.frags ++ (match c.frozen with | some f => f.div.frags | none => [])).map (·.2.stamp)
  let top := (crews.flatMap stamps).foldl Nat.max 0
  let s1 := crews.foldl (fun s2 c => putCrew s2 c.uid (resumeCrew s die cl shares c)) s
  { s1 with nextStamp := s1.nextStamp + top + 1 }

/-- The work lists start empty for a launch that uses them (R353). -/
def startLists (s : State) (l : Launch) : State :=
  if l.record.wlcap == 0 then s
  else modCtx s l.ctx fun c =>
    if c.wlLaunch == some l.uid then c
    else { c with wlCap := l.record.wlcap, wlBase := l.record.wlbase, lists := [], wlLaunch := some l.uid }

/-- The place of an image in a context's save region is free again. -/
def freeImage (s : State) (ctx image : Nat) : State :=
  modCtx s ctx fun c => { c with images := c.images.filter fun e => c.saveBase + e.1 != image }

/-- Places the next team of a launch on a cluster. -/
def placeTeam (s : State) (l : Launch) (u : Unplaced) (cl : Nat × List Nat) (shares : List Share) : State :=
  let l' := if l.back.isEmpty then { l with next := l.next + 1 } else { l with back := l.back.drop 1 }
  let s := startLists (putLaunch s l.uid l') l
  let s := match u.saved.bind (kget s.saved) with
    | some (t, crews, cores) =>
      let s := { restoreTeam s l t crews cores cl.1 cl.2 shares with saved := kdel s.saved t.uid }
      freeImage s l.ctx t.image
    | none =>
      let uid := s.nextUid
      let s := putTeam { s with nextUid := uid + 1 } uid (newTeam l u uid s.nextAge cl.1 cl.2 shares)
      let s := if l.kernel.audit then
          (cl.2.zip shares).foldl (fun s (e : Nat × Share) => zeroShare s l.kernel cl.1 e.1 e.2) s
        else s
      createCrews s l.kernel uid cl.1 cl.2 shares
  { s with nextAge := s.nextAge + 1 }

/-! ## Pre-emption (R325, R350) -/

/-- The priority of a launch: that of its queue. -/
def launchPrio (s : State) (l : Launch) : Nat := match queueOf s l.dev.val l.queue with | some q => q.prio | none => 0

/-- A team of the device may be asked to save itself: it is resident, and no save of it is asked for. -/
def Team.askable (t : Team) : Bool := t.st == .resident && t.reqReason == 0

/-- A save that the distributor has asked for on a device and that is not over (R350). -/
def saveUnderWay (s : State) (dev : Nat) : Bool :=
  (s.teams.map (·.2)).any fun t => t.reqReason == 1 && (t.st == .resident || t.st == .saving) &&
    (match launchOf s t.launch with | some l => l.dev.val == dev | none => false)

/-- The place of a team image in the context's save region (R389): first fit at multiples of 4 KiB. -/
def imagePlace (s : State) (l : Launch) : Option Nat :=
  match ctxOf s l.ctx with
  | none => none
  | some c => (firstFit (c.images.map fun (e : Nat × Nat) => (e.1 / 4096, e.2 / 4096)) (c.saveSize / 4096) (imageSize l / 4096)).map (· * 4096)

/-- REQ rises in every crew of a team (R325): each LEFT counts down from PDEAD in the cycles of its crew's core (R328). The place of its image is held from then on; a save whose image
does not fit is not begun (R389). -/
def raiseReq (s : State) (team reason : Nat) : State :=
  match teamOf s team with
  | none => s
  | some t => match launchOf s t.launch with
    | none => s
    | some l => match ctxOf s l.ctx, imagePlace s l with
      | some c, some place =>
        let s := modCtx s l.ctx fun c => { c with images := c.images ++ [(place, imageSize l)] }
        let s := putTeam s team { t with reqReason := reason, image := c.saveBase + place }
        (teamCrews s team).foldl (fun s k => putCrew s k.uid { k with reqLeft := c.pdead }) s
      | _, _ => s

/-- The save that makes room for a launch (R350): the youngest team of the lowest priority below the launch's whose removal leaves an
eligible cluster; its image must fit the save region (R389). -/
def preempt (s : State) (l : Launch) (u : Unplaced) : State :=
  if saveUnderWay s l.dev.val then s
  else
    let victim (t : Team) : Option (Nat × Nat) :=
      match launchOf s t.launch with
      | none => none
      | some k =>
        if t.askable && k.dev == l.dev && launchPrio s k < launchPrio s l && (imagePlace s k).isSome && !(openClusters s l u (some t.uid)).isEmpty
        then some (launchPrio s k, t.uid) else none
    let vs := (s.teams.map (·.2)).filterMap fun t => (victim t).map fun v => (v.1, t.age, t.uid)
    match listMin (vs.map (·.1)) with
    | none => s
    | some low => match (sortBy (fun v => v.2.1) (vs.filter (·.1 == low))).getLast? with
      | some (_, _, uid) => raiseReq s uid 1
      | none => s

/-! ## A step (R347) -/

/-- A launch that the distributor may place: it has unplaced teams, is not held for a gang, and no earlier launch of its context with work
lists is open when it uses them. -/
def placeable (s : State) (l : Launch) : Bool :=
  0 < l.unplaced && !l.armed && !l.aborted && !l.complete && !(match ctxOf s l.ctx with | some c => c.dying | none => true) &&
    (l.record.wlcap == 0 || (s.launches.map (·.2)).all fun e =>
      e.ctx != l.ctx || e.record.wlcap == 0 || l.order ≤ e.order || e.complete)

/-- The unplaced teams of one launch in turn; `fuel` bounds how many the device can hold. -/
def placeTeams (uid : Nat) : Nat → State → State
  | 0, s => s
  | fuel + 1, s =>
    match launchOf s uid with
    | none => s
    | some l => match l.nextTeam with
      | none => s
      | some u => match chooseCluster s l u with
        | none => preempt s l u
        | some cl => match fitCluster s l.kernel none cl with
          | some shares => placeTeams uid fuel (placeTeam s l u cl shares)
          | none => s

/-- The launches of a device in the order of R347: by falling priority, then acceptance. -/
def launchOrder (s : State) (dev : Nat) : List Nat :=
  let ls := (s.launches.map (·.2)).filter fun l => l.dev.val == dev && placeable s l
  (sortBy (fun l => (7 - launchPrio s l) * 2 ^ 64 + l.order) ls).map (·.uid)

/-- The step of a device's distributor is due: an event has asked for it, and that event's tick is over. -/
def stepDue (s : State) (dev : Nat) : Bool :=
  match (devOf s dev).placing with | some t => t < s.reftime | none => false

/-- What a step does. -/
def distribute (s : State) (dev : Nat) : State :=
  let s := (launchOrder s dev).foldl (fun s uid => placeTeams uid 1300 s) s
  modDev s dev fun d => { d with placing := none, freed := [] }

/-- DISTRIBUTOR_STEP (R347): the events of one REFTIME tick share it, so it runs once their tick is over (log 3). -/
def execDistributorStep (dev : Fin 3) (s : State) : Result := if stepDue s dev.val then .next (distribute s dev.val) else stall s

/-- The steps that are due run before anything else does, but for that of `but`, whose turn it is. -/
def dueSteps (s : State) (but : Option Nat) : State :=
  (List.range 3).foldl (fun s d => if (s.fatal.isNone || !s.stopped.getLsbD (devDie d)) && stepDue s d && but != some d then distribute s d else s) s

end Sys2Proof.Machine
end

