-- ==== Sys2Proof/Machine/Fencing.lean ====
section
/-!
DEFINITION. What is lost when a router drops the link of a neighbour (R361), and when the last link of a core is dropped (R287).
-/

namespace Sys2Proof.Machine

/-! ## What the fenced core held (R287, R361) -/

/-- A discarded write (kind 6, code 3). -/
def lostWrite (s : State) (team die : Nat) (va : Nat) : State := journalTeam s team 6 3 die va

/-- One lane of a store of a lost crew: whether its packet had left the core when the port has taken it is open (log 10). -/
def settleLane (s : State) (c : Crew) (e : StoreEntry) (l : LaneAcc) : State :=
  if e.port.isSome then
    let (s, n) := takeFree s
    if n % 2 == 1 then performEntry s c e l else lostWrite s c.team c.die l.va.toNat
  else lostWrite s c.team c.die l.va.toNat

/-- A crew of the fenced core is lost (R287): its writes are settled, and it counts as halted. -/
def loseCrew (s : State) (c : Crew) : State :=
  let s := c.storeQ.foldl (fun s e => e.lanes.foldl (fun s l => settleLane s c e l) s) s
  let s := c.sideLog.foldl (fun s e => e.lanes.foldl (fun s l => lostWrite s c.team c.die l.va.toNat) s) s
  let st := if c.alive then CrewSt.halted 0 else c.st
  modCrew s c.uid fun c =>
    { c with st := st, cc := Vector.replicate 8 Counter.reset, firing := [], loads := [], storeQ := [], sideLog := [], discard := none,
             trapping := none, mma := none, held := [], await := .none, reply := [] }

/-- A write-back of a granule of the fenced core (R361): one that is under way may have left it; the marked sectors are lost. -/
def loseGranule (s : State) (team : Nat) (l : Launch) (k : Nat) (g : Granule) : State :=
  match teamOf s team, regionAt l (granCore k) (granOff k) with
  | some t, some r =>
    let va := granGlobal t r (granOff k)
    let lose (m : BitVec 8) (s : State) : State :=
      ((List.range 8).filter m.getLsbD).foldl (fun s i => journalTeam s team 6 2 t.die (va + w64 (32 * i)).toNat) s
    if g.st == .writing then
      let (s, n) := takeFree s
      match n % 2 == 1, mapGranule s t l k va .store 0x22 with
      | true, (s, .ok pa) => lose g.marks ((wbSectors g).foldl (fun s i => writeSector s t l g va pa i) s)
      | _, _ => lose (g.marks ||| g.wb) s
    else lose g.marks s
  | _, _ => s

/-- The granules of a team on the fenced core, by their team core index, are lost (R287). -/
def loseGranules (s : State) (t : Team) (l : Launch) (idx : Nat) : State :=
  let mine := t.granules.filter fun g => granCore g.1 == idx
  let s := mine.foldl (fun s g => loseGranule s t.uid l g.1 g.2) s
  modTeam s t.uid fun t => { t with granules := t.granules.filter fun g => granCore g.1 != idx }

/-- The team's core indices on a core are lost. -/
def Team.losing (t : Team) (core : Nat) : Team :=
  { t with lost := dedup (((indexed t.cores).filter fun (e : Nat × Nat) => e.2 == core).map (fun (e : Nat × Nat) => e.1) ++ t.lost) }

/-- A team of the fenced core fails (R287, R342): its crews there are lost, its barriers abandoned, and its share stays lost while it runs. -/
def loseShare (s : State) (core : Nat) (t : Team) : State :=
  let lost := (teamCrews s t.uid).filter (·.core == core)
  let slot := (listMin ((lost.filter Crew.alive).map (·.slot))).getD ((listMin (lost.map (·.slot))).getD 0)
  let s := lost.foldl loseCrew s
  let s := match launchOf s t.launch, (indexed t.cores).find? (·.2 == core) with
    | some l, some e => loseGranules s t l e.1
    | _, _ => s
  endTeamIf (modTeam s t.uid fun t => (t.losing core).abandon.fail s.reftime 2 core slot) t.uid

/-- The engines of the fenced core stop: copies, matrix queues and buffered contributions are gone, the latter journalled. -/
def loseEngines (s : State) (die core : Nat) : State :=
  let co := coreAt s die core
  let s := co.bufs.toList.flatten.foldl (fun s e => match crewOf s e.crew with | some c => lostWrite s c.team die e.va.toNat | none => s) s
  modCore s die core fun co => { co with copyQ := [], quads := Vector.replicate 4 Quad.reset, bufs := Vector.replicate 4 [], tcache := [] }

/-! ## Traffic of the mesh (R361): a router that drops a link settles what it has forwarded into the core, and what of the core's own has not left it.
Which of the requests under way those are is open (log 10). -/

/-- A free choice among several requests (log 10). -/
def chosen {α : Type} (s : State) (xs : List α) : State × List α :=
  xs.foldl (fun r x =>
    let (s, n) := takeFree r.1
    (s, if n % 2 == 1 then r.2 ++ [x] else r.2)) (s, [])

/-- A request of a die to a physical address travels over the mesh of `die`: it is made there, or homed there. -/
def overMesh (die dev from_ pa : Nat) : Bool := from_ == die || match homeKey dev pa with | some k => keyDie k == die | none => false

/-- A crew's access travels over the mesh of a die: to another core of its team, or to memory. -/
def travels (s : State) (die : Nat) (c : Crew) (space : Space) (pa : Nat) : Bool :=
  match space with
  | .scratch idx => c.die == die && (match teamOf s c.team with | some t => t.coreOf idx != c.core | none => false)
  | _ => overMesh die (crewDev s c) c.die pa

/-- Lanes of a load are answered poisoned. -/
def transitLoad (die : Nat) (s : State) (u i : Nat) : State :=
  match crewOf s u with
  | none => s
  | some c => match c.loads[i]? with
    | none => s
    | some p => match chosen s (p.lanes.filter fun l => travels s die c p.space l.pa && loadReady s c p l) with
      | (s, []) => s
      | (s, l :: ls) =>
        haltCrew (modCrew s u fun c => dropLanes c i (maskOf fun n => (l :: ls).any (·.lane == n))) u 1 (datumAddr p l)

/-- Lanes of a store are discarded. -/
def transitStore (die : Nat) (s : State) (u i : Nat) : State :=
  match crewOf s u with
  | none => s
  | some c => match c.storeQ[i]? with
    | none => s
    | some e =>
      let sent := (e.space != .global || e.port.isSome) && storeReady s c e
      let (s, lost) := chosen s (if sent then e.lanes.filter fun l => travels s die c e.space l.pa else [])
      if lost.isEmpty then s
      else
        let s := lost.foldl (fun s l => lostWrite s c.team c.die l.va.toNat) s
        modCrew s u fun c => dropStore c i (maskOf fun n => lost.any (·.lane == n)) e.wrote

/-- The accesses of a crew; `own` marks one of the core whose link is dropped, whose loads end with it. -/
def transitCrew (die : Nat) (own : Bool) (s : State) (c : Crew) : State :=
  let s := (List.range c.storeQ.length).reverse.foldl (fun s i => transitStore die s c.uid i) s
  if own then s else (List.range c.loads.length).reverse.foldl (fun s i => transitLoad die s c.uid i) s

/-- Elements of a copy: accesses to memory, and writes at the ports of other cores. -/
def transitCopy (die : Nat) (s : State) (at_ core n : Nat) : State :=
  match (coreAt s at_ core).copyQ[n]? with
  | none => s
  | some k => match crewOf s k.crew with
    | none => s
    | some c =>
      let far (e : Nat × Nat) : Bool := match copyPage s at_ core n k c (k.desc.gAt e.2) (if k.out then .store else .load) with
        | (_, .ok pa) => overMesh die (crewDev s c) at_ pa
        | _ => false
      let port (e : Nat × Nat) : Bool := at_ == die && !k.out && e.1 != c.coreIdx && !k.doneEl.contains e && (kget k.data e.2).isSome
      if !k.ordered s then s
      else
        let (s, lost) := chosen s ((k.elements c.coreIdx).filter fun e => k.pending e && far e)
        let s := lost.foldl (fun s e => loseElement s at_ core n k e 3 (k.desc.gAt e.2).toNat) s
        let (s, shut) := chosen s ((k.elements c.coreIdx).filter port)
        shut.foldl (fun s e => modCopy (lostWrite s c.team c.die (2 ^ 22 * e.1 + k.desc.sAt e.2)) at_ core n fun k => { k with doneEl := e :: k.doneEl }) s

/-- Drains of buffered contributions. -/
def transitDrains (die : Nat) (s : State) (at_ core : Nat) : State :=
  let mine (e : BufEntry) : Bool := match crewOf s e.crew with
    | some c => overMesh die (crewDev s c) at_ e.pa && drainReady s at_ core [e]
    | none => false
  let (s, lost) := chosen s ((coreAt s at_ core).bufs.toList.flatten.filter mine)
  let s := lost.foldl (fun s e => match crewOf s e.crew with | some c => lostWrite s c.team at_ e.va.toNat | none => s) s
  if lost.isEmpty then s else modCore s at_ core fun co => { co with bufs := co.bufs.map fun b => b.filter fun e => !lost.contains e }

/-- A fill or a write-back of a granule. -/
def transitGranule (die : Nat) (s : State) (team : Nat) (l : Launch) (k : Nat) : State :=
  match teamOf s team, regionAt l (granCore k) (granOff k) with
  | some t, some r =>
    let g := kgetD t.granules k Granule.empty
    let va := granGlobal t r (granOff k)
    let fill := g.st == .filling
    let near : Bool := match mapGranule s t l k va (if fill then .load else .store) (if fill then 0x21 else 0x22) with
      | (_, .ok pa) => overMesh die l.dev.val t.die pa
      | _ => false
    if !(fill || g.st == .writing) || !near then s
    else match chosen s [()] with
      | (s, []) => s
      | (s, _) => if fill then poisonFill s t k else dropWriteBack s t k g 3 va.toNat
  | _, _ => s

/-- A router of a die has dropped the link of the core `suspect`, if a logical one stands there: the traffic that it holds is settled. -/
def settleLink (s : State) (die : Nat) (suspect : Option Nat) : State :=
  let s := (s.crews.map (·.2)).foldl (fun s c => transitCrew die (c.die == die && some c.core == suspect) s c) s
  let one (s : State) (e : Nat × CoreSt) : State :=
    let s := (List.range e.2.copyQ.length).foldl (fun s n => transitCopy die s (e.1 / 64) (e.1 % 64) n) s
    if e.2.bufs.toList.all List.isEmpty then s else transitDrains die s (e.1 / 64) (e.1 % 64)
  let s := s.cores.foldl one s
  (s.teams.map (·.2)).foldl (fun s t => match launchOf s t.launch with
    | some l => (t.granules.map (·.1)).foldl (fun s k => transitGranule die s t.uid l k) s
    | none => s) s

/-! ## The last link (R287) -/

/-- A logical core whose last link is dropped is fenced with all it held. -/
def fenceCore (s : State) (die core : Nat) : State :=
  if (coreAt s die core).fenced then s
  else
    let s := modCore s die core fun co => { co with fenced := true }
    let teams := (s.teams.map (·.2)).filter fun t => t.die == die && t.cores.contains core
    loseEngines (teams.foldl (fun s t => loseShare s core t) s) die core

end Sys2Proof.Machine
end

