-- ==== Sys2Proof/Machine/Routers.lean ====
section
/-!
DEFINITION. The routers of a die (R356 to R360): beats, judging a neighbour, accusations and the majority test. Readmission and the order of
a self-test once a core holds no team (R364, R371).
-/

namespace Sys2Proof.Machine

/-! ## Positions (R271, R272, R356) -/

/-- Physical cores of a die, the two reserve cores included. -/
def positions : Nat := 42

/-- The neighbours of a position, one column or one row away on a grid of six columns, in ascending order. -/
def neighbours (p : Nat) : List Nat :=
  (List.range positions).filter fun q =>
    (q / 6 == p / 6 && (q + 1 == p || p + 1 == q)) || q + 6 == p || p + 6 == q

/-- A physical core. -/
def physOf (s : State) (die pos : Nat) : PhysCore := kgetD (dieOf s die).phys pos (PhysCore.reset (40 ≤ pos))
/-- Changes a physical core. -/
def modPhys (s : State) (die pos : Nat) (f : PhysCore → PhysCore) : State :=
  let x := f (physOf s die pos)
  modDie s die fun d => { d with phys := kset d.phys pos x }

/-- The logical core that stands at a position, if any (R272). -/
def logicalAt (s : State) (die pos : Nat) : Option Nat := (List.range 40).find? fun c => (coreAt s die c).phys == pos

/-- The current fence table marks a position. -/
def marked (s : State) (die pos : Nat) : Bool := (dieOf s die).table.getLsbD pos

/-- The live neighbours of a position (R359). -/
def liveNeighbours (s : State) (die pos : Nat) : List Nat := (neighbours pos).filter fun q => !marked s die q

/-- What the router of `pos` keeps of `nb`. -/
def nbOf (s : State) (die pos nb : Nat) : Neighbour := kgetD (physOf s die pos).nbs nb Neighbour.reset
/-- Changes it. -/
def modNb (s : State) (die pos nb : Nat) (f : Neighbour → Neighbour) : State :=
  let x := f (nbOf s die pos nb)
  modPhys s die pos fun p => { p with nbs := kset p.nbs nb x }

/-- The die runs. -/
def dieRuns (s : State) (die : Nat) : Bool := let d := dieOf s die; d.powered && !d.inReset

/-- Two positions of a die are neighbours. -/
def adjacent (p q : Nat) : Bool := (neighbours p).contains q

/-- Sends a message. -/
def sendMsg (s : State) (dest kind : Nat) (m : Message) : State := { s with sent := s.sent ++ [{ dest := dest, msg := m, kind := kind }] }

/-- The messages that a router and the memory processor send, by their number in `Sent`. -/
def sentBeat : Nat := 0
def sentAccuse : Nat := 1
def sentWithdraw : Nat := 2
def sentReadmit : Nat := 3
def sentRetire : Nat := 4

/-! ## Beats (R356) -/

/-- Bits [31:0] of a beat. -/
def beatHead (seq pos gen : Nat) : Nat := seq % 2 ^ 16 + pos * 2 ^ 16 + gen % 256 * 2 ^ 22

/-- DIGEST: CRC-32 of the head's four bytes and of the table's eight. -/
def beatDigest (head : Nat) (table : BitVec 42) : Nat := crc32 (leBytes 4 head ++ leBytes 8 table.toNat)

/-- A beat of a position. -/
def beatBits (s : State) (die pos : Nat) : W64 :=
  let d := dieOf s die
  let h := beatHead (physOf s die pos).seq pos d.gen
  w64 (h + beatDigest h d.table * 2 ^ 32)

/-- BEAT_SEND (R356): at tick 256 w + 4 p, once. -/
def execBeatSend (die : Fin 2) (pos : Nat) (s : State) : Result :=
  let now := s.reftime
  if positions ≤ pos || !dieRuns s die.val || now % 256 != 4 * pos || (physOf s die.val pos).beatAt == some now then stall s
  else
    let bits := beatBits s die.val pos
    let s := (neighbours pos).foldl (fun s q => sendMsg s q sentBeat (.beat die q pos bits)) s
    .next (modPhys s die.val pos fun p => { p with seq := (p.seq + 1) % 2 ^ 16, beatAt := some now })

/-- The table that the GEN of a beat names: the current one or the one before. -/
def namedTable (d : DieSt) (gen : Nat) : Option (BitVec 42) :=
  if gen == d.gen % 256 then some d.table else if 0 < d.gen && gen == (d.gen - 1) % 256 then some d.prev else none

/-- The DIGEST of a beat does not match the table that its GEN names. -/
def beatMismatch (d : DieSt) (b : W64) : Bool :=
  match namedTable d (bitsOf b 29 22) with | some t => bitsOf b 63 32 != beatDigest (bitsOf b 31 0) t | none => false

/-- A beat from `nb` is well formed (R356, R357); whether its SEQ is new is judged apart. -/
def beatGood (d : DieSt) (nb : Nat) (b : W64) : Bool :=
  bitsOf b 21 16 == nb && bitsOf b 31 30 == 0 && (namedTable d (bitsOf b 29 22)).isSome && !beatMismatch d b

/-! ## Accusing (R358 to R360) -/

/-- The neighbours of `suspect` whose accusations the router of `pos` holds, its own included: one lapses 1,024 ticks after
its last renewal (R358). -/
def accusers (s : State) (die pos suspect : Nat) : List Nat :=
  let n := nbOf s die pos suspect
  let held (q : Nat) : Bool := match kget n.votes q with | some t => s.reftime < t + 1024 | none => false
  (liveNeighbours s die suspect).filter fun q => held q || (q == pos && n.st == .accusing)

/-- The majority test (R359). -/
def majority (s : State) (die pos suspect : Nat) : Bool :=
  let held := (accusers s die pos suspect).length
  2 ≤ held && (liveNeighbours s die suspect).length < 2 * held

/-- The accusations that a fenced core's router has sent lapse (R358). -/
def lapseVotes (s : State) (die pos : Nat) : State :=
  let forget (s : State) (t : Nat) : State :=
    (neighbours t).foldl (fun s r => if r == pos then s else modNb s die r t fun n => { n with votes := kdel n.votes pos }) s
  (neighbours pos).foldl forget s

/-- A router has dropped the link of `suspect` (R360, R361): the traffic that it holds is settled, and a core whose live neighbours have all dropped it is
fenced with all it held. -/
def linkDropped (s : State) (die suspect : Nat) : State :=
  let s := settleLink s die (logicalAt s die suspect)
  let cut := (liveNeighbours s die suspect).all fun q => let n := nbOf s die q suspect; n.st == .fenced || n.st == .retired
  match logicalAt s die suspect with
  | some c => if cut then fenceCore s die c else s
  | none => s

/-- The router of `pos` applies the test: it drops the link and reports, or, as the lone live neighbour, sends one ALERT (R359, R378). -/
def applyTest (s : State) (die pos suspect : Nat) : State :=
  let n := nbOf s die pos suspect
  if (n.st == .trusted || n.st == .accusing) && majority s die pos suspect then
    let held := accusers s die pos suspect
    linkDropped (lapseVotes (modNb s die pos suspect fun n => { n with st := .fenced, report := true, voters := held }) die suspect) die suspect
  else if n.st == .accusing && !n.alert && liveNeighbours s die suspect == [pos] then
    let s := modNb { s with alerts := s.alerts ++ [(die, pos, suspect)] } die pos suspect fun n => { n with alert := true }
    journalEvent s (dieDev s.mode die) 19 0 die (suspect + 2 ^ 8 * pos)
  else s

/-- Sends ACCUSE or WITHDRAW of `suspect` to its other live neighbours (R358). -/
def sendVotes (s : State) (die : Fin 2) (pos suspect kind : Nat) : State :=
  ((liveNeighbours s die.val suspect).filter (· != pos)).foldl (fun s q => sendMsg s q kind (.vote die q pos suspect)) s

/-- The router of `pos` accuses (R360): reason 1 silent, 2 babbling, 3 injection. -/
def accuse (s : State) (die : Fin 2) (pos suspect reason : Nat) : State :=
  let s := modNb s die.val pos suspect fun n => { n with st := .accusing, reason := reason, good := 0, alert := false }
  applyTest (sendVotes s die pos suspect sentAccuse) die.val pos suspect

/-- The end of the window that a router has judged last: at first the start of the first whole window (R357; log 73). -/
def windowBase (s : State) (die : Nat) (n : Neighbour) : Nat := n.judged.getD (roundUp (dieOf s die).start 256)

/-- BEAT_RECEIVE (R357, R360): a third beat of the window or a DIGEST mismatch is babbling. A window is judged before a beat of a later one is received,
so each count is that of one window. -/
def execBeatReceive (s : State) : Result :=
  match s.message with
  | .beat die pos nb bits =>
    let d := dieOf s die.val
    let n := nbOf s die.val pos nb
    if !adjacent pos nb || !dieRuns s die.val then stall s
    else if n.st == .fenced || n.st == .retired || s.reftime < windowBase s die.val n then .next s
    else if windowBase s die.val n + 256 ≤ s.reftime then stall s
    else
      let seq := bitsOf bits 15 0
      let valid := beatGood d nb bits && n.seq != some seq
      let s := modNb s die.val pos nb fun n =>
        { n with beats := n.beats + 1, valid := if valid then n.valid + 1 else n.valid, seq := if valid then some seq else n.seq }
      if n.st == .trusted && (3 ≤ n.beats + 1 || beatMismatch d bits) then .next (accuse s die pos nb 2) else .next s
  | _ => stall s

/-- A window ends for a trusted neighbour (R360). -/
def endTrusted (s : State) (die : Fin 2) (pos nb : Nat) (valid above : Bool) : State :=
  let n := nbOf s die.val pos nb
  let miss := if valid then 0 else n.miss + 1
  let bab := if above then n.bab + 1 else 0
  let s := modNb s die.val pos nb fun n => { n with miss := miss, bab := bab }
  if 4 ≤ miss then accuse s die pos nb 1 else if 3 ≤ bab then accuse s die pos nb 3 else s

/-- A window ends for an accused neighbour (R358, R360): four good ones in a row end the judgement, else the accusation is renewed. -/
def endAccusing (s : State) (die : Fin 2) (pos nb : Nat) (good : Bool) : State :=
  let n := nbOf s die.val pos nb
  let run := if good then n.good + 1 else 0
  if 4 ≤ run then
    sendVotes (modNb s die.val pos nb fun n => { n with st := .trusted, miss := 0, bab := 0, good := 0, alert := false, reason := 0 }) die pos nb sentWithdraw
  else applyTest (sendVotes (modNb s die.val pos nb fun n => { n with good := run }) die pos nb sentAccuse) die.val pos nb

/-- BEAT_WINDOW_END (R357, R360): the next window that has ended is judged; `flits` is what S originated on the link in it. -/
def execBeatWindowEnd (die : Fin 2) (pos nb flits : Nat) (s : State) : Result :=
  let n := nbOf s die.val pos nb
  let end_ := windowBase s die.val n + 256
  if !adjacent pos nb || !dieRuns s die.val || s.reftime < end_ then stall s
  else
    let above := (dieOf s die.val).injb < flits
    let s := modNb s die.val pos nb fun n => { n with beats := 0, valid := 0, judged := some end_ }
    match n.st with
    | .trusted => .next (endTrusted s die pos nb (0 < n.valid) above)
    | .accusing => .next (endAccusing s die pos nb (n.valid == 1 && !above))
    | .fenced => .next s
    | .retired => .next s

/-! ## Received accusations (R358, R360) -/

/-- A vote concerns a router that judges a common neighbour of a live accuser. -/
def voteFits (s : State) (die pos nb suspect : Nat) : Bool :=
  dieRuns s die && adjacent pos suspect && adjacent nb suspect && pos != nb && !marked s die nb

/-- A router's votes against a suspect change while it is TRUSTED or ACCUSING. -/
def changeVotes (s : State) (die pos suspect : Nat) (f : KMap Nat → KMap Nat) : State :=
  let n := nbOf s die pos suspect
  if n.st == .trusted || n.st == .accusing then applyTest (modNb s die pos suspect fun n => { n with votes := f n.votes }) die pos suspect else s

/-- ACCUSE (R358): the sender joins VOTES, and the majority test is applied. -/
def execAccuseMsg (s : State) : Result :=
  match s.message with
  | .vote die pos nb suspect =>
    if voteFits s die.val pos nb suspect then .next (changeVotes s die.val pos suspect fun v => kset v nb s.reftime) else stall s
  | _ => stall s

/-- WITHDRAW (R358). -/
def execWithdrawMsg (s : State) : Result :=
  match s.message with
  | .vote die pos nb suspect =>
    if voteFits s die.val pos nb suspect then .next (changeVotes s die.val pos suspect fun v => kdel v nb) else stall s
  | _ => stall s

/-- ACCUSATION_LAPSE (R358): 1,024 ticks after its last renewal. -/
def execAccusationLapse (die : Fin 2) (pos from_ suspect : Nat) (s : State) : Result :=
  match kget (nbOf s die.val pos suspect).votes from_ with
  | none => stall s
  | some t => if t + 1024 ≤ s.reftime then .next (changeVotes s die.val pos suspect fun v => kdel v from_) else stall s

/-- READMIT (R360, R364): the memory processor sends it once the fence table no longer marks the core. -/
def execReadmitLink (s : State) : Result :=
  match s.message with
  | .verdict die pos suspect =>
    if !adjacent pos suspect || marked s die.val suspect then stall s
    else if (nbOf s die.val pos suspect).st == .fenced then
      .next (modNb s die.val pos suspect fun n =>
        { n with st := .trusted, votes := [], miss := 0, bab := 0, good := 0, alert := false, beats := 0, valid := 0, reason := 0,
                 report := false, voters := [], judged := some (s.reftime / 256 * 256) })
    else .next s
  | _ => stall s

/-- RETIRE (R360, R365): sent of a core that is retired. -/
def execRetireLink (s : State) : Result :=
  match s.message with
  | .verdict die pos suspect =>
    if !adjacent pos suspect || !(physOf s die.val suspect).retired then stall s
    else if (nbOf s die.val pos suspect).st == .fenced then .next (modNb s die.val pos suspect fun n => { n with st := .retired })
    else .next s
  | _ => stall s

/-! ## The fence table (R356, R360) -/

/-- The memory processor raises the table: the bit of a position, the generation, the table before. Routers whose neighbour is marked drop
its link (R360), and the accusations that it sent lapse (R358). -/
def markTable (s : State) (die pos : Nat) : State :=
  let s := modDie s die fun d => { d with prev := d.table, table := d.table ||| (1#42 <<< pos), gen := d.gen + 1 }
  let drop (s : State) (q : Nat) : State :=
    modNb s die q pos fun n => { n with st := (match n.st with | .retired => .retired | _ => .fenced), report := false }
  linkDropped (lapseVotes ((neighbours pos).foldl drop s) die pos) die pos

/-- The bit of a position is cleared. -/
def clearTable (s : State) (die pos : Nat) : State :=
  modDie s die fun d => { d with prev := d.table, table := d.table &&& ~~~ (1#42 <<< pos), gen := d.gen + 1 }

/-- The memory processor's word to the neighbours of a core. -/
def tellNeighbours (s : State) (die : Fin 2) (pos kind : Nat) : State :=
  (neighbours pos).foldl (fun s q => sendMsg s q kind (.verdict die q pos)) s

/-! ## Cores that hold no team (R364, R371) -/

/-- The core holds no team. -/
def coreEmpty (s : State) (die core : Nat) : Bool := (s.teams.map (·.2)).all fun t => t.die != die || !t.cores.contains core

/-- A logical core as self-test leaves it: every slot and store cleared (R362); CYCLES and the comparators stay. -/
def freshCore (co : CoreSt) (phys : Nat) : CoreSt := { CoreSt.reset phys with cycles := co.cycles, bpc := co.bpc }

/-- Readmission in the order of R364. -/
def readmit (s : State) (die : Fin 2) (pos : Nat) : State :=
  let s := modPhys s die.val pos fun p => { p with readmit := false }
  let s := match logicalAt s die.val pos with
    | some c => modCore s die.val c fun co => freshCore co pos
    | none => s
  let s := tellNeighbours (clearTable s die.val pos) die pos sentReadmit
  let s := journalEvent s (dieDev s.mode die.val) 17 0 die.val pos
  callDistributor s (dieDev s.mode die.val)

/-- What waits for a core to hold no team: its readmission, and the self-test that an audit verdict asks for. -/
def emptyCore (s : State) (die : Fin 2) (core : Nat) : State :=
  let pos := (coreAt s die.val core).phys
  let p := physOf s die.val pos
  if !coreEmpty s die.val core then s
  else if p.readmit then readmit s die pos
  else if p.mustTest && p.bistAt.isNone then modPhys s die.val pos fun p => { p with bistAt := some s.reftime }
  else s

/-- The cores of a list that now hold no team. -/
def emptyCores (s : State) (die : Nat) (cores : List Nat) : State := cores.foldl (fun s c => emptyCore s (Fin.ofNat 2 die) c) s

end Sys2Proof.Machine
end

