-- ==== Sys2Proof/Machine/Saves.lean ====
section
/-!
DEFINITION. Saving teams (R325, R328), retiring them (R351, R352) and the audit of a retired team (R366 to R371).
-/

namespace Sys2Proof.Machine

/-! ## Requests (R325) -/

/-- SOFTWARE_SAVE_REQUEST (R325): REASON 2 context switch, 3 debugger stop, 4 team moved; a save whose image does not fit is not begun
(R389). -/
def execSoftwareSaveRequest (team : Nat) (reason : Fin 8) (s : State) : Result :=
  match teamOf s team with
  | none => stall s
  | some t => match launchOf s t.launch with
    | none => stall s
    | some l =>
      if t.askable && 2 ≤ reason.val && reason.val ≤ 4 && (imagePlace s l).isSome then .next (raiseReq s team reason.val) else stall s

/-! ## Stopping (R328, step 2) -/

/-- A fragment that waits at VSYNC goes back to its word (R164). -/
def Diverge.withdrawAll (d : Diverge) : Diverge :=
  let one (sl : SplitSlot) : SplitSlot := { sl with frag := sl.frag.map Frag.withdraw }
  { d with slots := d.slots.map one }

/-- A crew as the forced save stops it: its VSYNC arrivals withdrawn, a waiting MXMMA saved at its word (R267). -/
def Crew.halfStop (c : Crew) : Crew := { c with div := c.div.withdrawAll, mma := none }

/-- The team is being stopped: no further word issues but those of open windows. -/
def stopTeam (s : State) (team : Nat) : State :=
  let s := modTeam s team fun t => { t with st := .saving }
  (teamCrews s team).foldl (fun s c => putCrew s c.uid c.halfStop) s

/-- Every crew of the team that still runs has yielded. -/
def allYielded (s : State) (team : Nat) : Bool := (teamCrews s team).all fun c => !c.alive || c.st == .yielded

/-- PDEAD cycles of a crew's core have passed since REQ rose, and the crew has not yielded (R328; log 93). -/
def Crew.overdue (c : Crew) : Bool := c.alive && c.st != .yielded && c.reqLeft == 0

/-- PDEAD_EXPIRY (R328): step 2 begins for the crews that have not yielded. -/
def execPdeadExpiry (team : Nat) (s : State) : Result :=
  match teamOf s team with
  | none => stall s
  | some t => if t.st == .resident && t.reqReason != 0 && (teamCrews s team).any Crew.overdue then .next (stopTeam s team) else stall s

/-! ## Steps 3 to 6 -/

/-- Every engine command accepted from a crew has completed (R351, R328): batches, copies, MX entries, fabric operations. -/
def commandsDone (s : State) (c : Crew) : Bool :=
  let co := coreAt s c.die c.core
  c.cc.toList.all (fun k => k.batches.all fun b => b.pending.isEmpty) && co.copyQ.all (fun k => k.crew != c.uid) &&
    co.quads.toList.all (fun q => q.queue.all fun e => e.crew != c.uid) &&
    (fabricOf s (crewDev s c)).out.all fun o => o.crew != c.uid

/-- A crew stands as step 2 leaves it: its issued words complete, no open window, no trap on its way, no reply outstanding, its store queue
empty. -/
def Crew.settled (c : Crew) : Bool :=
  c.loads.isEmpty && c.trapping.isNone && c.div.frags.all (fun f => f.2.win.isNone) && c.storeQ.isEmpty &&
    c.reply.all fun b => b.waits && b.par.isSome

/-- The region granules are at rest (R328, step 4). -/
def granulesRest (t : Team) : Bool := t.granules.all fun g => g.2.st != .filling && g.2.st != .writing

/-- A crew as it is saved. -/
def Crew.saved (c : Crew) : Crew :=
  let c := { c with div := c.div.stop, held := [], mma := none }
  if c.st == .running then { c with st := .stopped } else c

/-- The part of a core that a team's image holds: the core, with the buffer entries of the team only. -/
def savedCore (s : State) (t : Team) (core : Nat) : CoreSt :=
  let co := coreAt s t.die core
  let mine (e : BufEntry) : Bool := match crewOf s e.crew with | some c => c.team == t.uid | none => false
  { co with bufs := co.bufs.map fun b => b.filter mine }

/-- A core without a team's buffer entries and matrix state, what its crews have read early, and the words that their engines have overwritten. -/
def clearCore (s : State) (t : Team) (k : KernelRec) (core : Nat) : State :=
  let own (u : Nat) : Bool := match crewOf s u with | some c => c.team == t.uid | none => false
  let mine (e : BufEntry) : Bool := own e.crew
  modCore s t.die core fun co =>
    { co with bufs := co.bufs.map (fun b => b.filter fun e => !mine e), early := co.early.filter (fun e => !own e.crew),
              old := co.old.filter (fun o => !own o.crew), quads := if k.matrix then Vector.replicate 4 Quad.reset else co.quads }

/-- Removes a team and its crews from their cores. -/
def dropTeam (s : State) (team : Nat) : State :=
  { s with teams := kdel s.teams team, crews := s.crews.filter fun e => e.2.team != team }

/-- The team may be saved now (R328, steps 2 to 4). -/
def saveReady (s : State) (t : Team) : Bool :=
  t.reqReason != 0 && (t.st == .saving || (t.st == .resident && allYielded s t.uid)) &&
    (teamCrews s t.uid).all (fun c => c.settled && commandsDone s c) && granulesRest t && t.barReqs.isEmpty

/-- Writes the image and takes the team off its cores (R328, steps 5 and 6; R329). -/
def saveTeam (s : State) (t : Team) (l : Launch) : State :=
  let crews := (teamCrews s t.uid).map Crew.saved
  let s1 := crews.foldl (fun s c => putCrew s c.uid c) s
  let t := { t with st := .saved }
  let cores := t.cores.map (savedCore s1 t)
  let s2 := mpWrite s1 l.dev.val t.image (teamImage t l crews cores)
  let s2 := journalTeam s2 t.uid 7 t.reqReason t.die t.image
  let s2 := t.cores.foldl (fun s core => clearCore s t l.kernel core) s2
  let s2 := { dropTeam s2 t.uid with saved := kset s2.saved t.uid (t, crews, cores) }
  let back : Unplaced := { index := t.index, saved := some t.uid, run := t.run, avoid := t.avoid }
  emptyCores (callDistributor (modLaunch s2 l.uid fun l => { l with back := back :: l.back }) l.dev.val) t.die t.cores

/-- TEAM_SAVE (R328). -/
def execTeamSave (team : Nat) (s : State) : Result :=
  match teamOf s team with
  | none => stall s
  | some t => match launchOf s t.launch with
    | none => stall s
    | some l => if saveReady s t then .next (saveTeam s t l) else stall s

/-! ## Audits (R366 to R371) -/

/-- A team is selected for audit (R366). -/
def selected (l : Launch) (index : Nat) : Bool :=
  l.kernel.audit && 4 ≤ l.record.auditk && srMix l.record.auditSeed (w64 index) % 2 ^ l.record.auditk == 0

/-- A run of an index that has finished. -/
def runOf (l : Launch) (index : Nat) (r : RunKind) : Option AuditRun := l.audits.find? fun a => a.index == index && a.run == r

/-- Equal signatures. -/
def sameRun (a b : AuditRun) : Bool := a.sum == b.sum && a.count == b.count

/-- The lowest logical core of a run. -/
def AuditRun.low (a : AuditRun) : Nat := (listMin a.cores).getD 0

/-- The verdict's entry (R378, kind 20). -/
def verdict (s : State) (l : Launch) (code : Nat) (a b : AuditRun) (c : Option AuditRun) : State :=
  let low := a.low + 2 ^ 8 * b.low + 2 ^ 16 * (match c with | some c => c.low | none => 0)
  let dies := a.die + 2 * b.die + 4 * (match c with | some c => c.die | none => 0)
  journalEvent s l.dev.val 20 code (devDie l.dev.val) (low + 2 ^ 22 * dies)

/-- The cores of a faulty run take self-test when they next hold no team (R371). -/
def mustTest (s : State) (r : AuditRun) : State :=
  r.cores.foldl (fun s c =>
    let pos := (coreAt s r.die c).phys
    emptyCore (modPhys s r.die pos fun p => { p with mustTest := true }) (Fin.ofNat 2 r.die) c) s

/-- The original has failed by the verdict (R371): its entry with code 5, unless it had one, and it counts. -/
def auditFail (s : State) (l : Launch) (a : AuditRun) : State :=
  if a.failed then s
  else
    let e : JEntry := { kind := 4, code := 5, queue := l.queue, die := a.die, index := a.index, digest := noDigest, detail := a.low }
    modLaunch (journal s l.dev.val e) l.uid fun l => { l with failed := l.failed + 1 }

/-- The audit of an index is over: its runs are forgotten. -/
def endAudit (s : State) (uid index : Nat) : State := modLaunch s uid fun l => { l with audits := l.audits.filter (·.index != index) }

/-- Another run of an index goes to the front of the unplaced teams (R368). -/
def rerun (s : State) (uid index : Nat) (r : RunKind) (avoid : List (Nat × Nat)) : State :=
  modLaunch s uid fun l => { l with back := { index := index, saved := none, run := r, avoid := avoid } :: l.back, extra := l.extra + 1 }

/-- The cores of a run. -/
def AuditRun.places (a : AuditRun) : List (Nat × Nat) := a.cores.map fun c => (a.die, c)

/-- What a retired run of a selected team leads to (R368, R371). -/
def auditStep (s : State) (uid : Nat) (r : AuditRun) : State :=
  match launchOf s uid with
  | none => s
  | some l0 =>
    let s := putLaunch s uid { l0 with audits := l0.audits ++ [r] }
    match r.run with
    | .original => rerun s uid r.index .replay r.places
    | .replay => match runOf l0 r.index .original with
      | none => s
      | some a =>
        if sameRun a r then endAudit (verdict s l0 0 a r none) uid r.index
        else rerun s uid r.index .third (a.places ++ r.places)
    | .third => match runOf l0 r.index .original, runOf l0 r.index .replay with
      | some a, some b =>
        let s :=
          if sameRun b r then mustTest (auditFail (verdict s l0 1 a b (some r)) l0 a) a
          else if sameRun a r then mustTest (verdict s l0 2 a b (some r)) b
          else auditFail (verdict s l0 3 a b (some r)) l0 a
        endAudit s uid r.index
      | _, _ => s

/-! ## Retirement (R351, R352) -/

/-- The buffers of a team's cores are drained (R200). -/
def drainTeam (s : State) (t : Team) : Option State :=
  t.cores.foldl (fun (r : Option State) core => r.bind fun s => drainBuffers s t.die core fun _ => true) (some s)

/-- The write-backs of a team's end (R283): every dirty granule is triggered. -/
def flushTeam (s : State) (t : Team) : State := (dirtyGranules t).foldl (fun s k => triggerGranule s t.uid none k) s

/-- The stores of a team's crews are performed. -/
def teamStored (s : State) (team : Nat) : Bool := (teamCrews s team).all fun c => c.storeQ.isEmpty && commandsDone s c

/-- The side logs of a team's crews have replayed (R319). -/
def teamReplayed (s : State) (team : Nat) : Bool := (teamCrews s team).all fun c => c.sideLog.isEmpty

/-- The team-failed entry (R342, kind 4). -/
def teamFailed (s : State) (t : Team) (f : TeamFail) : State :=
  let detail := if f.code == 5 || f.code == 6 then (listMin t.cores).getD 0 else f.core + 2 ^ 8 * f.slot
  journalTeam s t.uid 4 f.code t.die detail

/-- The team's entry is written and everything it holds is freed in one step (R351). DESIGN CHOICE (log 88): a replay or a third run that has failed itself has its
own team-failed entry and counts, whatever the verdict on its index is. -/
def retireTeam (s : State) (t : Team) (l : Launch) : State :=
  let s := match t.failure with | some f => teamFailed s t f | none => s
  let run : AuditRun :=
    { index := t.index, run := t.run, sum := t.sigSum, count := t.sigCount, die := t.die, cores := t.cores, failed := t.failure.isSome }
  let s := t.cores.foldl (fun s core => clearCore s t l.kernel core) s
  let s := dropTeam s t.uid
  let s := if t.reqReason == 0 then s else freeImage s l.ctx t.image
  let s := modLaunch s l.uid fun l => { l with retired := l.retired + 1, failed := l.failed + flag t.failure.isSome }
  let s := modDev s l.dev.val fun d => { d with freed := d.freed ++ [(t.age, t.die, t.cores)] }
  let s := if selected l t.index && !l.aborted then auditStep s l.uid run else s
  emptyCores (callDistributor (completeLaunch s l.uid) l.dev.val) t.die t.cores

/-- TEAM_RETIRE (R351): the commands of its crews, its buffers, its write-backs and its side logs in turn; then it retires. -/
def execTeamRetire (team : Nat) (s : State) : Result :=
  match teamOf s team with
  | none => stall s
  | some t => match launchOf s t.launch with
    | none => stall s
    | some l =>
      if t.st != .ended || !(teamCrews s team).all (commandsDone s) then stall s
      else match drainTeam s t with
        | none => stall s
        | some s =>
          if !teamStored s team then stall s
          else
            let s := flushTeam s t
            match teamOf s team with
            | none => stall s
            | some t =>
              if (dirtyGranules t).isEmpty && granulesRest t && teamReplayed s team then .next (retireTeam s t l) else stall s

end Sys2Proof.Machine
end

