-- ==== Sys2Proof/Machine/CoreFaults.lean ====
section
/-!
DEFINITION. The memory processor deals with a fenced core (R360): it is tested (R362), and readmitted or substituted (R363 to R365).
-/

namespace Sys2Proof.Machine

/-! ## Fencing (R360 to R362) -/

/-- The router whose FENCE report on a neighbour reaches the memory processor first (R360). -/
def reporter (s : State) (die pos : Nat) : Option Nat := (neighbours pos).find? fun q => (nbOf s die q pos).report

/-- The voters of a fence: the accusers that the reporting router held. -/
def fenceVoters (s : State) (die pos : Nat) : List Nat := match reporter s die pos with | some q => (nbOf s die q pos).voters | none => []

/-- The reason of a fence (R378): that of the first voter that has one. -/
def fenceReason (s : State) (die pos : Nat) : Nat :=
  (((fenceVoters s die pos).map fun q => (nbOf s die q pos).reason).find? (· != 0)).getD 1

/-- The voters of a fence, as a mask over the neighbours in ascending order (R378; log 21). -/
def voterMask (s : State) (die pos : Nat) : Nat :=
  bitsFn (fun i => match (neighbours pos)[i]? with | some q => (fenceVoters s die pos).contains q | none => false) 8

/-- FENCE_REPORT (R360): the first report sets the bit, raises the generation and orders the self-test (R362). -/
def execFenceReport (die : Fin 2) (suspect : Nat) (s : State) : Result :=
  if positions ≤ suspect || marked s die.val suspect || (reporter s die.val suspect).isNone then stall s
  else
    let now := s.reftime
    let s := journalEvent s (dieDev s.mode die.val) 16 (fenceReason s die.val suspect) die.val (suspect + 2 ^ 8 * voterMask s die.val suspect)
    .next (modPhys (markTable s die.val suspect) die.val suspect fun p =>
      { p with prevFence := p.lastFence, lastFence := some now, bistAt := some now, readmit := false })

/-! ## Classification (R362 to R365) -/

/-- An earlier fence of the core lies less than ten minutes before the last (R363). -/
def PhysCore.again (p : PhysCore) : Bool :=
  match p.lastFence, p.prevFence with
  | some b, some a => b - a < 60000000000
  | _, _ => false

/-- A core is retired: its bit stays set, and its neighbours receive RETIRE (R365). -/
def retirePos (s : State) (die : Fin 2) (pos : Nat) : State :=
  let s := if marked s die.val pos then s else markTable s die.val pos
  let s := modPhys s die.val pos fun p => { p with retired := true, bistAt := none, readmit := false, mustTest := false, reserveFor := none }
  tellNeighbours s die pos sentRetire

/-- The free reserve at the lower position (R365). -/
def freeReserve (s : State) (die : Nat) : Option Nat :=
  [40, 41].find? fun q => let p := physOf s die q; !p.inUse && !p.retired && !marked s die q && p.bistAt.isNone

/-- The next reserve takes self-test for a logical core; with none left the core stays fenced (R365, R378). -/
def tryReserve (s : State) (die : Fin 2) (core : Nat) : State :=
  match freeReserve s die.val with
  | some q => modPhys s die.val q fun p => { p with bistAt := some s.reftime, reserveFor := some core }
  | none => journalEvent s (dieDev s.mode die.val) 18 1 die.val (coreAt s die.val core).phys

/-- A lasting fault (R365): the core is retired, and a reserve takes its logical number, if it has one. -/
def substitute (s : State) (die : Fin 2) (pos : Nat) : State :=
  match logicalAt s die.val pos with
  | none => retirePos s die pos
  | some c => tryReserve (retirePos (modCore s die.val c fun co => { co with fenced := true }) die pos) die c

/-- A reserve has passed (R365, steps 4 and 5): the new map, the journal, a distributor step. -/
def takeOver (s : State) (die : Fin 2) (pos core : Nat) : State :=
  let old := (coreAt s die.val core).phys
  let s := modCore s die.val core fun co => freshCore co pos
  let s := modPhys s die.val pos fun p => { p with bistAt := none, reserveFor := none, inUse := true }
  let s := journalEvent s (dieDev s.mode die.val) 18 0 die.val (old + 2 ^ 8 * pos)
  callDistributor s (dieDev s.mode die.val)

/-- The end of a self-test (R362 to R365, R371). -/
def endTest (s : State) (die : Fin 2) (pos : Nat) (ok : Bool) : State :=
  let p := physOf s die.val pos
  match p.reserveFor with
  | some c => if ok && !marked s die.val pos then takeOver s die pos c else tryReserve (retirePos s die pos) die c
  | none =>
    let s := modPhys s die.val pos fun p => { p with bistAt := none, mustTest := false }
    if !marked s die.val pos then
      let s := match logicalAt s die.val pos with | some c => modCore s die.val c fun co => freshCore co pos | none => s
      if ok then callDistributor s (dieDev s.mode die.val) else substitute s die pos
    else if ok && !p.again then
      let s := modPhys s die.val pos fun p => { p with readmit := true }
      match logicalAt s die.val pos with
      | some c => emptyCore s die c
      | none => readmit s die pos
    else substitute s die pos

/-- BIST_RESULT (R362, R363): a wrong tag counts as a fail, and so does a result that has not arrived 1,000,000 ticks after the order. -/
def execBistResult (die : Fin 2) (pos : Nat) (pass tagOk : Bool) (_failures : W64) (s : State) : Result :=
  match (physOf s die.val pos).bistAt with
  | none => stall s
  | some t => .next (endTest s die pos (pass && tagOk && s.reftime < t + 1000000))

/-- BIST_TIMEOUT (R362): 1,000,000 ticks after the order. -/
def execBistTimeout (die : Fin 2) (pos : Nat) (s : State) : Result :=
  match (physOf s die.val pos).bistAt with
  | none => stall s
  | some t => if t + 1000000 ≤ s.reftime then .next (endTest s die pos false) else stall s

end Sys2Proof.Machine
end

