-- ==== Sys2Proof/Machine/Counters.lean ====
section
/-!
DEFINITION. Completion counters (R189 to R191, R220 to R225) and END (R242).
-/

namespace Sys2Proof.Machine

/-- done_ge (R189). -/
def Counter.doneGe (k : Counter) (n : W32) : Bool := 0 ≤ (k.done - n).toInt

/-- outstanding_lt (R189). -/
def Counter.outstandingLt (k : Counter) (n : W32) : Bool := (k.issued - k.done).ult n

/-- A counter of a crew. -/
def Crew.counter (c : Crew) (n : Nat) : Counter := vget c.cc n Counter.reset

/-- A counter whose oldest carried failure has been raised (R220). -/
def Counter.uncarry (k : Counter) : Counter := { k with carried := k.carried.drop 1 }

/-! ## Armed operations (R191, R225) -/

/-- What a fired operation did. -/
inductive Fired where
  | did (s : State)
  | wait (s : State)

/-- A fired operation that would trap is discarded, and the crew takes a trap that no word raised (R191); it waits while another trap of the crew
waits. -/
def firedTrap (s : State) (u cause arg : Nat) (addr : W64) : Fired :=
  if trapWaits s u then .wait s else .did (raise s u (wordlessTrap true cause 0x10 arg addr))

/-- A fired arrival (R191, R225, R286). -/
def fireArrive (s : State) (u : Nat) (c : Crew) (a : Armed) : Fired :=
  match teamOf s c.team, crewLaunch s c with
  | some t, some l =>
    let id := a.operand.toNat
    let m : RelMark := { crew := u, stamp := a.order, synced := a.synced }
    match barPlace l a.operand with
    | .bad => firedTrap s u 0x0E (id % 2 ^ 32) 0
    | place =>
      if place == .leader && c.coreIdx != 0 then
        if leaderLost s t then .did s
        else
          let q : BarReq := { tag := s.nextTag, crew := u, core := c.coreIdx, id := id, op := .armed, mark := m, word := 0, spc := c.spc }
          .did (putTeam { s with nextTag := s.nextTag + 1 } c.team { t with barReqs := t.barReqs ++ [q] })
      else if (barrierAt s t (hostCore place c.coreIdx) id).refuses then firedTrap s u 0x0E (id % 2 ^ 32) 0
      else .did (putTeam s c.team (t.arriveAt s (hostCore place c.coreIdx) id m))
  | _, _ => .did s

/-- The toucher of a fired operation. -/
def Armed.toucher (a : Armed) (u : Nat) : Toucher := .word u 65 0 a.order

/-- A fired push (R191): it waits for an allowance that no crew blocked before it takes (R196). -/
def firePush (s : State) (u : Nat) (c : Crew) (a : Armed) : Fired :=
  match teamOf s c.team, crewLaunch s c with
  | some t, some l =>
    let n := bitsOf a.operand 37 32
    let q := t.queue c.coreIdx n
    if l.kernel.queues ≤ n then firedTrap s u 0x0D n 0
    else if q.init && queueAhead s c true n < q.allow then
      if !released c a.synced a.order 0 then .wait s
      else match touchRange s c.team (a.toucher u) c.coreIdx q.tail 4 with
      | .wait s => .wait s
      | .fail s cause addr => firedTrap s u cause 0 addr
      | .go s => .did (pushHandle s c.team c.coreIdx n q (a.operand.truncate 32))
    else if t.halted || !q.init then firedTrap s u 0x0D n 0
    else .wait s
  | _, _ => .did s

/-- A fired copy (R191, R225): the descriptor is read now, after every access that the ARMC is ordered after. -/
def fireCopy (s : State) (u : Nat) (c : Crew) (kind : Nat) (a : Armed) : Fired :=
  match acceptCopy s u c (a.toucher u) kind (bitsOf a.operand 21 0) 0 a.order a.synced (faultWord false a.word) with
  | .wait s => .wait s
  | .trap s cause _ addr => firedTrap s u cause 0 addr
  | .poisoned s addr => .did (haltCrew s u 1 addr)
  | .ok s => .did s

/-- One operation fires. -/
def fireOne (s : State) (u : Nat) (a : Armed) : Fired :=
  match crewOf s u with
  | none => .did s
  | some c =>
    if !c.alive then .did s
    else match a.kind with
      | .copy kind => fireCopy s u c kind a
      | .arrive => fireArrive s u c a
      | .push => firePush s u c a

/-- Fired operations take effect in their order; behind one that waits, every later one waits (R191). `fuel` bounds their number. -/
def fireAll : Nat → State → Nat → State
  | 0, s, _ => s
  | fuel + 1, s, u =>
    match crewOf s u with
    | none => s
    | some c => match c.firing with
      | [] => s
      | (_, a) :: rest => match fireOne s u a with
        | .wait s => s
        | .did s => fireAll fuel (modCrew s u fun c => if c.alive then { c with firing := rest } else c) u

/-- The operations of a counter that DONE now satisfies, in firing order: by n - DONE before the step, then by arming (R191). -/
def satisfied (k : Counter) (before : W32) : List Armed :=
  sortBy (fun a => (a.threshold - before).toNat * 2 ^ 64 + a.order) (k.armed.filter fun a => k.doneGe a.threshold)

/-- The operations that DONE satisfies leave the counter and fire. -/
def fireCounter (s : State) (u n : Nat) (before : W32) : State :=
  match crewOf s u with
  | none => s
  | some c =>
    let k := c.counter n
    let now := satisfied k before
    let c := c.modCC n fun k => { k with armed := k.armed.filter fun a => !k.doneGe a.threshold }
    fireAll 64 (putCrew s u { c with firing := c.firing ++ now.map fun a => (n, a) }) u

/-- ARMED_PUSH_RETRY (R191): the crew's oldest waiting operation is tried again, and those behind it follow. -/
def execArmedPushRetry (crew : Nat) (s : State) : Result :=
  match crewOf s crew with
  | none => stall s
  | some c => if c.firing.isEmpty then stall s else .next (fireAll 64 s crew)

/-- What ARMC checks in its operand (R225): cause, detail, argument, TADDR. -/
def armCheck (l : Launch) (kind : Nat) (x : W64) : Option (Nat × Nat × Nat × W64) :=
  match kind with
  | 0 =>
    if x.toNat % 64 != 0 then some (0x0A, 0, 0, x)
    else if bitsOf x 63 22 != 0 || scratchSize l < x.toNat + 64 then some (0x0C, 1, 0, x)
    else none
  | 1 => if barPlace l x == .bad then some (0x0E, 0, x.toNat % 2 ^ 32, 0) else none
  | _ => if l.kernel.queues ≤ bitsOf x 37 32 || bitsOf x 63 38 != 0 then some (0x0D, 0, bitsOf x 37 32, 0) else none

/-- The kind of operation that ARMC names (R225). -/
def armKind (w : Fin 4) (k : Fin 4) : ArmKind := if k.val == 0 then .copy w.val else if k.val == 1 then .arrive else .push

/-- Operations that a counter holds: armed ones, and fired pushes that wait (R191). -/
def Crew.armedCount (c : Crew) (n : Nat) : Nat := (c.counter n).armed.length + (c.firing.filter fun e => e.1 == n && e.2.kind == .push).length

/-- ARMC (R225): all ones when the counter already holds four; an operation whose threshold is already met fires at once. -/
def execArmc (d a b : SReg) (w : Fin 4) (k : Fin 4) (n : Fin 8) (s : State) : Result :=
  withScalar s [d, a, b] fun u c =>
    match crewLaunch s c with
    | none => .fault .noStream
    | some l => match armCheck l k.val (c.rs b) with
      | some (cause, detail, arg, addr) => raiseScalar s u cause detail arg addr
      | none =>
        if c.acquiring then stall s
        else if 4 ≤ c.armedCount n.val then .next (putCrew s u (c.ws d allLanes).next)
        else
          let (s, stamp) := takeStamp s
          let op : Armed := { threshold := (c.rs a).truncate 32, kind := armKind w k, operand := c.rs b, order := stamp, synced := c.synced,
                              word := c.spc }
          let c := (c.modCC n.val fun q => { q with armed := q.armed ++ [op] }).ws d 0
          .next (fireCounter (putCrew s u c.next) u n.val (c.counter n.val).done)

/-! ## Completion (R189, R190) -/

/-- The oldest batches of a counter that are closed and have no command left. -/
def Counter.ripe (k : Counter) : List Batch := k.batches.takeWhile fun b => b.closed && b.pending.isEmpty

/-- The counter after its ripe batches have completed: DONE rises by their number in one step. -/
def Counter.complete (k : Counter) : Counter :=
  { k with batches := k.batches.drop k.ripe.length, done := k.done + w32 k.ripe.length, carried := k.carried ++ k.ripe.filterMap (·.failure) }

/-- A crew that CYIELD has parked returns when its condition holds (R224). -/
def Crew.wake (c : Crew) : Crew :=
  match c.st with
  | .parkedOn n v t => if (c.counter n.val).doneGe v then { c.goto t with st := .running } else c
  | _ => c

/-- The completion of a counter's ripe batches brings the crew back from CYIELD; it has then observed them (R223, R224). -/
def Crew.wakes (c : Crew) (n : Nat) : Bool := (match c.st with | .parkedOn _ _ _ => true | _ => false) && (c.modCC n Counter.complete).wake.st == .running

/-- BATCH_COMPLETE (R189). -/
def execBatchComplete (crew : Nat) (cc : Fin 8) (s : State) : Result :=
  match crewOf s crew with
  | none => stall s
  | some c =>
    let k := c.counter cc.val
    if k.ripe.isEmpty then stall s
    else
      let (s, c) := if c.wakes cc.val then (acquire (observeOld s crew none) crew, c.observed) else (s, c)
      .next (fireCounter (putCrew s crew (c.modCC cc.val Counter.complete).wake) crew cc.val k.done)

/-! ## Words on counters -/

/-- BATCH (R221): each fragment that executes it closes one batch. -/
def execBatch (w : LaneWord) (s : State) : Result :=
  laneWord s (.batch w) (fun _ fr => fr.exec) fun s x => x.finish s (x.c.modCC (fnBits w.fn 2 0) Counter.close)

/-- LWAITC (R222): it then raises the oldest failure that its counter carries (R220). -/
def execLwaitc (w : LaneWord) (s : State) : Result :=
  laneWord s (.lwaitc w) (fun _ fr => fr.exec) fun s x =>
    let n := fnBits w.fn 2 0
    let k := x.c.counter n
    let v := x.literal w
    if !(if fnBits w.fn 3 3 == 0 then k.doneGe v else k.outstandingLt v) then stall s
    else match k.carried with
      | f :: _ => x.raise (modCrew s x.u fun c => c.modCC n Counter.uncarry) f.cause f.detail 0 allLanes f.addr
      | [] => x.finish (acquire (observeOld s x.u (some (x.blk.ord, x.fr.owned))) x.u) x.c.observed

/-- WAITC (R223). -/
def execWaitc (a : SReg) (n : Fin 8) (s : State) : Result :=
  withScalar s [a] fun u c =>
    let k := c.counter n.val
    if !k.doneGe ((c.rs a).truncate 32) then stall s
    else match k.carried with
      | f :: _ => raiseScalar (putCrew s u (c.modCC n.val Counter.uncarry)) u f.cause f.detail 0 f.addr
      | [] => .next (putCrew (acquire (observeOld s u none) u) u c.observed.next)

/-- CYIELD (R224): the target is checked first; the crew is parked until DONE reaches the value. -/
def execCyield (n : Fin 8) (a : SReg) (i : Imm13) (s : State) : Result :=
  withScalar s [a] fun u c =>
    let t : Int := c.spc + i.toInt
    if t < 0 || scodeSize s c ≤ t then raiseScalar s u 0x01 3 0 0
    else match c.synced? with
      | none => stall s
      | some c =>
        let v : W32 := (c.rs a).truncate 32
        if (c.counter n.val).doneGe v then .next (putCrew (acquire (observeOld s u none) u) u (c.observed.goto t.toNat))
        else .next (putCrew s u { c with st := .parkedOn n v t.toNat })

/-- YIELD (R106, R241): ranked last for 64 cycles, under `.prog on`. -/
def execYield (s : State) : Result :=
  withScalar s [] fun u c =>
    .next (putCrew s u (if crewProg s c then { c with fair := { c.fair with demote := 66 } } else c).next)

/-! ## END (R242) -/

/-- Every open batch of the crew is closed, as BATCH closes one. -/
def Crew.closeAll (c : Crew) : Crew :=
  { c with cc := c.cc.map fun k => match k.batches.getLast? with | some b => if b.closed then k else k.close | none => k }

/-- Every batch of the crew has completed. -/
def Crew.allDone (c : Crew) : Bool := c.cc.toList.all fun k => k.done == k.issued

/-- The crew as END leaves it. -/
def Crew.finishEnd (c : Crew) : Crew :=
  { c with st := .ended, cc := c.cc.map Counter.disarm, firing := [], holds := [], handler := false, frozen := none, held := [], await := .none }

/-- The buffers of the cores of a team are drained when its last crew ends or halts (R200). -/
def teamOver (s : State) (t : Nat) : Bool := (teamCrews s t).all fun c => !c.alive

/-- END (R242): the open batches are closed once, then their completion is awaited. In handler mode the frozen queue and divergence state are
discarded, and the journal names it. -/
def execEndCrew (s : State) : Result :=
  withSync s [] fun u c =>
    let c := if c.await == .ending then c else c.closeAll
    if !c.allDone || !c.loads.isEmpty || !c.reply.isEmpty then stall (putCrew s u { c with await := .ending })
    else
      let s := putCrew s u c.finishEnd
      let s := if c.handler then journalTeam s c.team 5 4 c.die 0 else s
      .next (endTeamIf s c.team)

/-! ## The schedulers' steps (R105, R106) -/

/-- A candidate's record in a crew: the scalar stream, or the fragment of a slot. -/
def Crew.fairOf (c : Crew) : Option (Fin 8) → Option Fair
  | none => some c.fair
  | some n => (c.div.frag n.val).map (·.fair)

/-- A candidate's record is changed. -/
def Crew.putFair (c : Crew) (f : Fair) : Option (Fin 8) → Crew
  | none => { c with fair := f }
  | some n => { c with div := c.div.modFrag n.val fun g => { g with fair := f } }

/-- FAIRT of a crew (R116). -/
def fairtOf (s : State) (c : Crew) : Nat := match ctxOf s (crewCtx s c) with | some x => x.fairt | none => 2048

/-- FAIRT_URGENT (R105). -/
def execFairtUrgent (crew : Nat) (slot : Option (Fin 8)) (s : State) : Result :=
  match crewOf s crew with
  | none => stall s
  | some c => match c.fairOf slot with
    | none => stall s
    | some f =>
      if crewProg s c && fairtOf s c ≤ f.count && !f.urgent then .next (putCrew s crew (c.putFair { f with urgent := true } slot)) else stall s

/-- YIELD_DEMOTION_END (R106): the 64 cycles have run out. -/
def execYieldDemotionEnd (crew : Nat) (slot : Option (Fin 8)) (s : State) : Result :=
  match crewOf s crew with
  | none => stall s
  | some c => match c.fairOf slot with
    | none => stall s
    | some f => if f.demote == 1 then .next (putCrew s crew (c.putFair { f with demote := 0 } slot)) else stall s

end Sys2Proof.Machine
end

