-- ==== Sys2Proof/Machine/Exchange.lean ====
section
/-!
DEFINITION. The exchange lane words (R159 to R165).
-/

namespace Sys2Proof.Machine

/-! ## VSHFL and VVOTE -/

/-- The source lane of lane `i` under VSHFL's mode (R159). -/
def shuffleFrom (mode i : Nat) (b : W32) : Int :=
  match mode with
  | 0 => (bitsOf b 5 0 : Nat)
  | 1 => (i : Int) - b.toNat
  | 2 => (i : Int) + b.toNat
  | _ => (i ^^^ bitsOf b 5 0 : Nat)

/-- VSHFL (R159): a source lane outside L gives the receiving lane's C. -/
def execVshfl (w : LaneWord) (s : State) : Result :=
  laneVec s (.vshfl w) w fun x i =>
    let j := shuffleFrom (fnBits w.fn 1 0) i (x.src w w.b i)
    (if 0 ≤ j && j ≤ 63 && x.lset.getLsbD j.toNat then x.src w w.a j.toNat else x.src w w.c i, 0)

/-- VVOTE's answer over L (R160). -/
def vote (mode : Nat) (vals : List W32) : Bool :=
  match mode with
  | 0 => vals.any (· != 0)
  | 1 => vals.all (· != 0)
  | _ => match vals with | [] => true | v :: vs => vs.all (· == v)

/-- VVOTE (R160). -/
def execVvote (w : LaneWord) (s : State) : Result :=
  lanePred s (.vvote w) w fun x _ => vote (fnBits w.fn 1 0) ((lanesOf x.lset).map fun j => x.src w w.a j)

/-! ## VFOLD and VSCAN -/

/-- The bits that a word reads of a value, as its type requires (R146). -/
def lowTy (t : Ty) (x : W32) : W32 := w32 (x.toNat % 2 ^ bitsTy t)

/-- One operation of VFOLD and VSCAN with its flags (R161). -/
def foldOp (w : LaneWord) (ftz : Bool) (x y : W32) : W32 × Nat :=
  let op := fnBits w.fn 3 0
  if w.ty.isFloat then
    let f := fmtOf w.ty
    match op with
    | 0 => laneRes (f.add (plainRnd (fnBits w.fn 6 4) ftz) (f.read ftz x.toNat) (f.read ftz y.toNat))
    | 1 => (w32 (f.minMax ftz false x.toNat y.toNat), 0)
    | _ => (w32 (f.minMax ftz true x.toNat y.toNat), 0)
  else
    (match op with
     | 0 => x + y
     | 1 => minInt (isSigned w) x y
     | 2 => maxInt (isSigned w) x y
     | 3 => x &&& y
     | 4 => x ||| y
     | _ => x ^^^ y, 0)

/-- One level of VFOLD's tree, an absent operand passing the other on (R161). -/
def foldLevel (op : W32 → W32 → W32 × Nat) : List (Option W32) → List (Option W32) × Nat
  | some x :: some y :: rest =>
    let (v, fl) := op x y
    let (vs, fls) := foldLevel op rest
    (some v :: vs, orFlags fl fls)
  | x :: y :: rest =>
    let (vs, fls) := foldLevel op rest
    (x.or y :: vs, fls)
  | _ => ([], 0)

/-- `n` levels of the tree: what stands at its root. -/
def foldTree (op : W32 → W32 → W32 × Nat) : Nat → List (Option W32) → W32 × Nat
  | 0, xs => ((xs.headD none).getD 0, 0)
  | n + 1, xs =>
    let (ys, fl) := foldLevel op xs
    let (v, fls) := foldTree op n ys
    (v, orFlags fl fls)

/-- VFOLD (R161). -/
def execVfold (w : LaneWord) (s : State) : Result :=
  laneWord s (.vfold w) (guarded w) fun s x =>
    let leaves := (List.range 64).map fun i => if x.lset.getLsbD i then some (lowTy w.ty (x.src w w.a i)) else none
    let (v, fl) := foldTree (foldOp w x.c.ftz) 6 leaves
    x.writeVec s w (lanesFn fun _ => v) fl

/-- VSCAN from an accumulator on (R162): each lane with the accumulator before and after it, and the flags. -/
def scanFrom (op : W32 → W32 → W32 × Nat) (acc : W32) : List (Nat × W32) → List (Nat × W32 × W32) × Nat
  | [] => ([], 0)
  | (i, v) :: rest =>
    let (a, fl) := op acc v
    let (rs, fls) := scanFrom op a rest
    ((i, acc, a) :: rs, orFlags fl fls)

/-- VSCAN (R162). -/
def execVscan (w : LaneWord) (s : State) : Result :=
  laneWord s (.vscan w) (guarded w) fun s x =>
    let excl := w.fn.getLsbD 7
    match (lanesOf x.lset).map fun i => (i, lowTy w.ty (x.src w w.a i)) with
    | [] => x.finish s x.c
    | (i0, v0) :: rest =>
      let (rs, fl) := scanFrom (foldOp w x.c.ftz) v0 rest
      let first := if excl then lowTy w.ty (x.src w w.c i0) else v0
      let d := lanesFn fun i =>
        if i == i0 then first
        else match rs.find? (·.1 == i) with
          | some (_, before, after) => if excl then before else after
          | none => 0
      x.writeVec s w d fl

/-! ## VSYNC -/

/-- VSYNC (R163, R164): the lanes of L arrive with their masks, and the fragment waits until their sets are complete. -/
def execVsync (w : LaneWord) (s : State) : Result :=
  laneWord s (.vsync w) (guarded w) fun s x =>
    let arrivals := (lanesOf x.lset).map fun i => (i, x.src w w.b i ++ x.src w w.a i)
    let fr := { x.fr with st := .atVsync, arrivals := arrivals, vlanes := x.lset }
    .next (vsyncCheck (x.finishAt s x.c fr x.fr.lpc) x.u (some x.slot))

end Sys2Proof.Machine
end

