-- ==== Sys2Proof/Machine/Divergence.lean ====
section
/-!
DEFINITION. Predicates (R166, R167), the lane mask (R168, R169), divergence (R98 to R102, R170 to R172) and the other flow words of lane
code (R173, R174).
-/

namespace Sys2Proof.Machine

/-! ## Predicates -/

/-- PLOG (R166): the truth table in fn[7:0]. -/
def execPlog (w : LaneWord) (s : State) : Result :=
  lanePred s (.plog w) w fun x i =>
    let bit (o : Src) (n : Nat) : Nat := if (x.c.rp (predSrc o)).getLsbD i then n else 0
    w.fn.getLsbD (bit w.a 4 + bit w.b 2 + bit w.c 1)

/-- PSET (R167): from a snapshot register or a literal, bit i; else whether A is nonzero. -/
def execPset (w : LaneWord) (s : State) : Result :=
  lanePred s (.pset w) w fun x i =>
    match w.a with
    | .snap n => x.blk.snap[n.val].getLsbD i
    | .imm => (w.imm.signExtend 64).getLsbD i
    | o => x.src w o i != 0

/-- EXECRD (R168). -/
def execExecrd (w : LaneWord) (s : State) : Result :=
  laneVec s (.execrd w) w fun x _ => (if w.fn.getLsbD 0 then (x.fr.exec >>> 32).truncate 32 else x.fr.exec.truncate 32, 0)

/-! ## Divergence -/

/-- The word completes with the divergence state of `c`; the check of R164 follows. -/
def LaneCx.diverge (x : LaneCx) (s : State) (c : Crew) : Result :=
  .next (vsyncCheck (settleTrap (putCrew s x.u c) x.u) x.u none)

/-- The word completes with its fragment as `fr` at index `i`; R102 if no lane is left. -/
def LaneCx.flow (x : LaneCx) (s : State) (fr : Frag) (i : Nat) : Result :=
  let c := { x.c with div := x.c.div.setFrag x.slot (some (x.frNext fr i)) }
  x.diverge s (if fr.exec == 0 then zeroExec s c x.slot else c)

/-- EXECWR (R169): G over all 64 lanes, then R102 for an EXEC of zero. -/
def execExecwr (w : LaneWord) (s : State) : Result :=
  laneWord s (.execwr w) (fun c _ => guardMask c w.pg w.pn) fun s x =>
    let ex := ((x.fr.exec &&& ~~~ x.lset) ||| (x.c.rp (predSrc w.a) &&& x.lset)) &&& x.fr.owned
    x.flow s { x.fr with exec := ex } (x.fr.lpc + 1)

/-- An index reached by a displacement of 16 bits, if it lies in `.lcode` (R170). -/
def LaneCx.laneTarget (x : LaneCx) (s : State) (disp : Nat) : Option Nat :=
  let t : Int := x.fr.lpc + (BitVec.ofNat 16 disp).toInt
  if 0 ≤ t && t < lcodeSize s x.c then some t.toNat else none

/-- The split of R99: slot `g` takes the lanes of `T` at `target`. -/
def LaneCx.split (x : LaneCx) (s : State) (g : Nat) (t : W64) (target join : Nat) : Result :=
  let (s, stamp) := takeStamp s
  let e : JoinEntry := { join := join, id := 2 * x.slot + flag (x.c.div.gen x.slot) }
  let fr := x.frNext { x.fr with owned := x.fr.owned &&& ~~~ t, exec := x.fr.exec &&& ~~~ t, stack := e :: x.fr.stack } (x.fr.lpc + 1)
  let d := (x.c.div.flip x.slot).setFrag x.slot (some fr.cut)
  x.diverge s { x.c with div := d.setFrag g (some (newFrag t target stamp (e :: x.fr.stack))) }

/-- The serialised form of R101, step 1 and 2. A seventeenth entry raises ILLEGAL, detail 4. -/
def LaneCx.serialise (x : LaneCx) (s : State) (t : W64) (target join : Nat) : Result :=
  if 16 ≤ x.c.div.serial.length then x.raise s 0x01 4 0 allLanes 0
  else
    let e : SerialEntry := { join := join, resume := x.fr.lpc + 1, maskN := x.fr.exec &&& ~~~ t, ran := x.fr.exec, slot := x.slot,
                             second := false }
    let fr := x.frNext { x.fr with exec := t } target
    let d := x.c.div.setFrag x.slot (some fr)
    x.diverge s { x.c with div := { d with serial := e :: d.serial } }

/-- BRL (R99, R170). -/
def execBrl (w : LaneWord) (s : State) : Result :=
  laneWord s (.brl w) (fun _ fr => fr.exec) fun s x =>
    match x.laneTarget s (bitsOf w.imm 31 16), x.laneTarget s (bitsOf w.imm 15 0) with
    | some join, some target =>
      let t := x.fr.exec &&& guardMask x.c w.pg w.pn
      if t == 0 then x.flow s x.fr (x.fr.lpc + 1)
      else if t == x.fr.exec then x.flow s x.fr target
      else match x.c.div.freeSlot with
        | some g =>
          if 4 ≤ x.fr.stack.length || (x.c.div.serialOf x.slot).isSome then x.serialise s t target join else x.split s g t target join
        | none => x.serialise s t target join
    | _, _ => x.raise s 0x01 3 0 allLanes 0

/-- JOIN (R100, R101 steps 3 and 4). -/
def execJoinWord (w : LaneWord) (s : State) : Result :=
  laneWord s (.joinWord w) (fun _ fr => fr.exec) fun s x =>
    let j := x.fr.lpc
    let d := x.c.div
    match d.serialOf x.slot with
    | some e =>
      if e.join != j then x.flow s x.fr (j + 1)
      else if !e.second then
        let c := { x.c with div := { d with serial := modSerial x.slot (fun e => { e with second := true }) d.serial } }
        { x with c := c }.flow s { x.fr with exec := e.maskN &&& x.fr.owned } e.resume
      else
        let d := { d with serial := popSerial x.slot d.serial }
        let ex := match d.serialOf x.slot with | none => x.fr.owned | some _ => e.ran &&& x.fr.owned
        { x with c := { x.c with div := d } }.flow s { x.fr with exec := ex } (j + 1)
    | none => match x.fr.stack with
      | [] => x.flow s x.fr (j + 1)
      | e :: _ =>
        if e.join != j then x.flow s x.fr (j + 1)
        else
          let d := d.setFrag x.slot (some { x.frNext x.fr j with st := .parked }.cut)
          x.diverge s { x.c with div := (d.fuseAll (isJoin s x.c)).tidy }

/-- LEND (R102, R172): the fragment ends; with a serial entry, only the lanes of its running arm. -/
def execLend (w : LaneWord) (s : State) : Result :=
  laneWord s (.lend w) (fun _ fr => fr.exec) fun s x =>
    match x.c.div.serialOf x.slot with
    | some _ => x.flow s { x.fr with owned := x.fr.owned &&& ~~~ x.fr.exec, exec := 0 } (x.fr.lpc + 1)
    | none => x.diverge s { x.c with div := ((x.c.div.setFrag x.slot none).fuseAll (isJoin s x.c)).tidy }

/-! ## The other flow words -/

/-- LYIELD (R106, R173): under `.prog on` the fragment ranks last for 64 cycles. -/
def execLyield (w : LaneWord) (s : State) : Result :=
  laneWord s (.lyield w) (fun _ fr => fr.exec) fun s x =>
    let fr := if crewProg s x.c then { x.fr with fair := { x.fr.fair with demote := 66 } } else x.fr
    .next (x.finishAt s x.c fr (x.fr.lpc + 1))

/-- LNOP (R173). -/
def execLnop (w : LaneWord) (s : State) : Result := laneWord s (.lnop w) (fun _ fr => fr.exec) fun s x => x.finish s x.c

/-- LTRAP (R174): SWTRAP in the lanes of L. -/
def execLtrap (w : LaneWord) (s : State) : Result :=
  laneWord s (.ltrap w) (guarded w) fun s x => x.raise s 0x05 0 (bitsOf w.imm 18 0) x.lset 0

end Sys2Proof.Machine
end

