-- ==== Sys2Proof/Machine/FabricUnit.lean ====
section
/-!
DEFINITION. The fabric unit of a device: planes and ports (R396, R399), sessions (R394), operations sent, failed and completed (R403, R418,
R419, R426), keep-alives and agreement on the plane map (R415 to R417, R425).
-/

namespace Sys2Proof.Machine

/-! ## Addresses and planes (R396, R399) -/

/-- hash6 (R399). -/
def hash6 (a : Nat) : Nat := (List.range 8).foldl (fun h i => h ^^^ (a % 2 ^ 52 / 2 ^ (8 + 6 * i) % 64)) 0

/-- The physical address, or the window and offset, of a fabric address. -/
def faPa (fa : W64) : Nat := bitsOf fa 51 0
/-- The peer that a fabric address names. -/
def faPeer (fa : W64) : Nat := bitsOf fa 61 52
/-- The fabric address of a window's line. -/
def lineFa (peer wid offset : Nat) : W64 := w64 (peer * 2 ^ 52 + wid * 2 ^ 44 + offset)

/-- The plane of a fabric address under the present map. -/
def planeOf (f : FabricSt) (fa : W64) : Nat := (vget f.map (hash6 (faPa fa)) 0).val

/-- A port of a unit. -/
def FabricSt.port (f : FabricSt) (p : Nat) : PortSt := vget f.ports p PortSt.reset
/-- The live ports of a plane, ascending. -/
def livePorts (f : FabricSt) (plane : Nat) : List Nat := [3 * plane, 3 * plane + 1, 3 * plane + 2].filter fun p => (f.port p).live
/-- The port to a peer in a plane (R396). -/
def portFor (f : FabricSt) (plane peer : Nat) : Option Nat := (livePorts f plane)[peer % (livePorts f plane).length]?
/-- The plane is live at the device (R415). -/
def planeUp (f : FabricSt) (k : Nat) : Bool := !f.dead.getLsbD k && !(livePorts f k).isEmpty
/-- Some plane is live. -/
def anyPlane (f : FabricSt) : Bool := (List.range 8).any (planeUp f)
/-- Some entry of the map names the plane. -/
def mapUses (m : Vector (Fin 8) 64) (k : Nat) : Bool := m.toList.any fun p => p.val == k
/-- The members of the domain that the device still counts, itself left out. -/
def peersOf (f : FabricSt) : List Nat := f.members.filter fun m => m != f.devid && !f.lost.contains m
/-- Nothing reaches the peer (R418). -/
def hopeless (f : FabricSt) (peer : Nat) : Bool := f.lost.contains peer || !anyPlane f

/-- The port to a peer in a plane holds a session: only then does the plane carry traffic to that peer and from it (R394, R396). -/
def portOpen (f : FabricSt) (plane peer : Nat) : Bool := match portFor f plane peer with | some p => (f.port p).keyed | none => false

/-- The numbers in `Sent` of the fabric's messages. -/
def sentData : Nat := 16
def sentAnswer : Nat := 17
def sentKeep : Nat := 18
def sentReport : Nat := 19
def sentPropose : Nat := 20
def sentAck : Nat := 21
def sentCommit : Nat := 22
def sentAbort : Nat := 23

/-- The device as `Message` names it. -/
def devFin (dev : Nat) : Fin 3 := Fin.ofNat 3 dev

/-! ## Operations outstanding (R403, R419) -/

/-- Changes an outstanding operation. -/
def modOut (s : State) (dev seq : Nat) (g : RemoteOut → RemoteOut) : State :=
  let one (o : RemoteOut) : RemoteOut := if o.seq == seq then g o else o
  modFabric s dev fun f => { f with out := f.out.map one }

/-- The bytes at the target that an operation names. -/
def RemoteOut.bytes (o : RemoteOut) : Nat := if o.line.isSome then 128 else widthOf o.op.ty

/-- An earlier operation of the same crew to overlapping bytes is outstanding: it is performed first, whatever ports and planes the two take (R404, R419;
log 20). -/
def sendsBehind (f : FabricSt) (o : RemoteOut) : Bool :=
  (f.out.takeWhile (·.seq != o.seq)).any fun e => e.crew == o.crew && overlaps e.fa.toNat e.bytes o.fa.toNat o.bytes

/-- Sends an operation, or sends it again, unless its entry is blocked, its port holds no session, an earlier one goes first or nothing reaches the peer
(R396, R404, R416, R418). -/
def sendOut (s : State) (dev : Nat) (o : RemoteOut) : State :=
  let f := fabricOf s dev
  let k := planeOf f o.fa
  match portFor f k (faPeer o.fa) with
  | none => s
  | some p =>
    if f.blocked.getLsbD k || !(f.port p).keyed || sendsBehind f o || hopeless f (faPeer o.fa) then s
    else
      let m : Message := match o.line with
        | some l => .collLine (devFin dev) { l with plane := k, port := p }
        | none => .remoteOp (devFin dev) { o.op with plane := k, port := p }
      let s := modOut s dev o.seq fun o => { o with plane := k, port := p, sent := true, sentAt := s.reftime, mark := false }
      sendMsg s (faPeer o.fa) sentData m

/-- The failure of a command with its lowest address (R403, R220). -/
def mergeFails (fs : List Failure) (x : Failure) : List Failure :=
  match fs.find? (·.cmd == x.cmd) with
  | some y => if y.addr.toNat ≤ x.addr.toNat then fs else fs.map fun z => if z.cmd == x.cmd then x else z
  | none => fs ++ [x]

/-- The operations that wait are sent in their order (R419). -/
def resend (s : State) (dev : Nat) : State := ((fabricOf s dev).out.filter (!·.sent)).foldl (fun s o => sendOut s dev o) s

/-- An operation ends, and those that waited behind it are sent; with its last one its command completes (R403). -/
def endOut (s : State) (dev : Nat) (o : RemoteOut) : State :=
  let s := resend (modFabric s dev fun f => { f with out := f.out.filter (·.seq != o.seq) }) dev
  let f := fabricOf s dev
  if f.out.any (·.cmd == o.cmd) then s
  else finishCommand (modFabric s dev fun f => { f with fails := f.fails.filter (·.cmd != o.cmd) }) o.crew o.cmd (f.fails.find? (·.cmd == o.cmd))

/-- An RGET lane is written in vd (R402, R403, R146). -/
def writeGet (s : State) (o : RemoteOut) (x : W32) : State :=
  if o.op.kind != .rget || o.line.isSome then s
  else
    let v := (extendValue (extendOf o.op.ty) (widthOf o.op.ty) x.toNat).truncate 32
    o.op.lanes.foldl (fun s l => modCrew s o.crew fun c => (c.engineWrote [o.reg]).wv o.reg (1#64 <<< l.lane) (lanesFn fun _ => v)) s

/-- A lane fails (R403, R423): it is journalled, an RGET lane writes 0, and the batch will carry the failure. -/
def failOut (s : State) (dev : Nat) (o : RemoteOut) (timeout : Bool) : State :=
  let s := journalEvent s dev 34 (if timeout then 2 else 1) (devDie dev) o.fa.toNat
  let x : Failure := { cmd := o.cmd, cause := 0x0C, detail := if timeout then 0x13 else 0x12, addr := o.fa }
  let s := modFabric s dev fun f => { f with fails := mergeFails f.fails x }
  endOut (writeGet s o 0) dev o

/-- Every operation towards a peer that nothing reaches fails, as by time-out (R418). -/
def failHopeless (s : State) (dev : Nat) : State :=
  let f := fabricOf s dev
  (f.out.filter fun o => hopeless f (faPeer o.fa)).foldl (fun s o => failOut s dev o true) s

/-- Operations that a condition selects are to be sent again (R419). -/
def unsend (s : State) (dev : Nat) (which : RemoteOut → Bool) : State :=
  let one (o : RemoteOut) : RemoteOut := if which o then { o with sent := false, mark := false } else o
  modFabric s dev fun f => { f with out := f.out.map one }

/-- A command of operations is accepted (R400): it joins the counter's batch, and what can be sent is sent. -/
def acceptOps (s : State) (dev u cc : Nat) (ops : List (Nat → Nat → RemoteOut)) : State :=
  let (s, id) := takeCmd s
  let s := modCrew s u fun c => c.modCC cc fun k => k.join id
  let s := if ops.isEmpty then finishCommand s u id none else s
  let first := (fabricOf s dev).nextSeq
  let outs := (indexed ops).map fun (e : Nat × (Nat → Nat → RemoteOut)) => e.2 id ((first + e.1) % 2 ^ 32)
  let s := modFabric s dev fun f => { f with out := f.out ++ outs, nextSeq := (first + ops.length) % 2 ^ 32 }
  failHopeless (outs.foldl (fun s o => sendOut s dev o) s) dev

/-- REMOTE_TIMEOUT (R403, R415): RTMO ticks without an answer while the operation's plane stays live. One behind an earlier operation to its bytes counts from
its own sending (log 20). -/
def execRemoteTimeout (dev : Fin 3) (seq : Nat) (s : State) : Result :=
  let f := fabricOf s dev.val
  match f.out.find? (·.seq == seq) with
  | none => stall s
  | some o =>
    let k := if o.sent then o.plane else planeOf f o.fa
    if o.mark || !planeUp f k || f.blocked.getLsbD k || (!o.sent && sendsBehind f o) || s.reftime < o.sentAt + f.rtmo then stall s else .next (failOut s dev.val o true)

/-! ## Sessions and ports (R394, R396) -/

/-- Changes a port. -/
def modPort (s : State) (dev p : Nat) (g : PortSt → PortSt) : State := modFabric s dev fun f => { f with ports := vmod f.ports p g }

/-- The journal's entry of a session (R423). -/
def sessionEntry (s : State) (dev p peer : Nat) (ok : Bool) : State :=
  journalEvent s dev 40 (if ok then 0 else 1) (devDie dev) (p + 2 ^ 16 * (peer % 1024))

/-- A port is lost (R396): what is outstanding on it is sent again through the plane's other ports. -/
def dropPort (s : State) (dev p : Nat) : State :=
  let s := modPort s dev p fun q => { q with live := false, keyed := false }
  resend (unsend s dev fun o => o.sent && o.port == p && !o.mark) dev

/-- LINK_SESSION (R394): the exchange of a port that a peer starts; keys come from outside the model (log 12). -/
def execLinkSession (dev : Fin 3) (port : Fin 24) (peer : Nat) (ok : Bool) (s : State) : Result :=
  if !((fabricOf s dev.val).port port.val).live then stall s
  else
    let s := sessionEntry s dev.val port.val peer ok
    let s := modPort s dev.val port.val fun q => { q with keyed := ok, peer := peer, since := s.reftime }
    .next (if ok then resend s dev.val else s)

/-- SESSION_REKEY: the exchange is repeated after 2^40 bytes, which the model does not count, or 24 hours; a failed one takes the port
down. -/
def execSessionRekey (dev : Fin 3) (port : Fin 24) (ok : Bool) (s : State) : Result :=
  let q := (fabricOf s dev.val).port port.val
  if !q.live || !q.keyed then stall s
  else
    let s := sessionEntry s dev.val port.val q.peer ok
    .next (if ok then modPort s dev.val port.val fun q => { q with since := s.reftime } else dropPort s dev.val port.val)

/-- PORT_LOSS (R396, R425). -/
def execPortLoss (dev : Fin 3) (port : Fin 24) (s : State) : Result :=
  if ((fabricOf s dev.val).port port.val).live then .next (dropPort s dev.val port.val) else stall s

/-! ## Keep-alives (R415) -/

/-- The key of a peer on a plane. -/
def heardKey (peer plane : Nat) : Nat := 8 * peer + plane

/-- The peer's keep-alives are still answered on some live plane. -/
def answered (f : FabricSt) (now peer : Nat) : Bool :=
  (List.range 8).any fun k => planeUp f k && now < kgetD f.heard (heardKey peer k) 0 + f.ptmo

/-- The coordinator as the device sees it (R415, R416). -/
def coordinator (f : FabricSt) (now : Nat) : Nat :=
  (listMin (f.members.filter fun m => f.floor ≤ m && !f.lost.contains m && (m == f.devid || answered f now m))).getD f.devid

/-- KEEPALIVE_SEND (R415): every PTMO / 10 ticks, to every peer, on a plane found dead too while it has a port. -/
def execKeepaliveSend (dev : Fin 3) (plane : Fin 8) (s : State) : Result :=
  let f := fabricOf s dev.val
  let now := s.reftime
  if !f.configured || (livePorts f plane.val).isEmpty || now < vget f.kept plane.val 0 + f.ptmo / 10 then stall s
  else
    let s := (peersOf f).foldl (fun s m => sendMsg s m sentKeep (.keepalive dev plane f.devid false)) s
    .next (modFabric s dev.val fun f => { f with kept := vset f.kept plane.val now })

/-- KEEPALIVE_RECEIVE (R415): a plane that is answered again is live again. -/
def execKeepaliveReceive (s : State) : Result :=
  match s.message with
  | .keepalive dev plane peer ans =>
    let f := fabricOf s dev.val
    if !f.configured || (livePorts f plane.val).isEmpty then stall s
    else if ans then .next (modFabric s dev.val fun f =>
        { f with heard := kset f.heard (heardKey peer plane.val) s.reftime, dead := f.dead &&& ~~~(1#8 <<< plane.val) })
    else .next (sendMsg s peer sentKeep (.keepalive dev plane f.devid true))
  | _ => stall s

/-! ## Agreement (R416, R417, R425) -/

/-- new_map (R417) over the live planes. -/
def newMap (old : Vector (Fin 8) 64) (d : BitVec 8) (live : List (Fin 8)) : Vector (Fin 8) 64 :=
  if live.isEmpty then old
  else
    let turn (e : Nat) : Nat := ((List.range e).filter fun i => d.getLsbD (vget old i 0).val).length
    Vector.ofFn fun e => if d.getLsbD old[e].val then live.getD (turn e.val % live.length) 0 else old[e]

/-- The lowest plane of a set. -/
def lowPlane (d : BitVec 8) : Nat := (((List.range 8).find? fun k => d.getLsbD k)).getD 0

/-- A device enters PREPARED for a generation (R416, R423, R425). -/
def prepare (s : State) (dev g : Nat) (d : BitVec 8) : State :=
  let mark (o : RemoteOut) : RemoteOut := if o.sent && d.getLsbD o.plane then { o with mark := true } else o
  let s := modFabric s dev fun f =>
    { f with agree := .prepared, propGen := g, propDead := d, blocked := f.blocked ||| d, out := f.out.map mark, since := s.reftime }
  journalEvent s dev 32 (lowPlane d) (devDie dev) g

/-- The dead planes that the new map still uses stay blocked. -/
def staleDead (f : FabricSt) : BitVec 8 := BitVec.ofNat 8 (bitsFn (fun k => f.dead.getLsbD k && mapUses f.map k) 8)

/-- A device installs the generation it is prepared for: a map over the planes that are live at it (R415) outside D, reissue, unblock (R416, R417, R419). -/
def install (s : State) (dev : Nat) : State :=
  let f := fabricOf s dev
  let live := ((List.range 8).filter fun k => planeUp f k && !f.propDead.getLsbD k).map fun k => Fin.ofNat 8 k
  let s := modFabric s dev fun f => { f with map := newMap f.map f.propDead live, gen := f.propGen, leads := false, floor := 0, agree := .normal }
  let s := modFabric s dev fun f =>
    { f with blocked := staleDead f, agree := if staleDead f == 0 then .normal else .blocked, since := s.reftime }
  let s := journalEvent s dev 33 0 (devDie dev) (f.propGen + 2 ^ 32 * f.propDead.toNat)
  failHopeless (resend (unsend s dev fun o => o.mark) dev) dev

/-- The coordinator commits: members without ACK are lost (R416, R418). -/
def commitPlan (s : State) (dev : Nat) : State :=
  let f := fabricOf s dev
  let quiet := (peersOf f).filter fun m => !f.acks.contains m
  let s := modFabric s dev fun f => { f with lost := f.lost ++ quiet }
  let s := (peersOf (fabricOf s dev)).foldl (fun s m => sendMsg s m sentCommit (.generation (devFin dev) f.devid f.propGen)) s
  install s dev

/-- The coordinator commits once every member has acknowledged. -/
def commitIf (s : State) (dev : Nat) : State :=
  let f := fabricOf s dev
  if f.leads && (peersOf f).all f.acks.contains then commitPlan s dev else s

/-- The coordinator proposes a set of dead planes, and prepares itself (R416, R425). -/
def propose (s : State) (dev : Nat) (d : BitVec 8) : State :=
  let f := fabricOf s dev
  let s := (peersOf f).foldl (fun s m => sendMsg s m sentPropose (.propose (devFin dev) f.devid (f.gen + 1) d)) s
  let s := modFabric s dev fun f => { f with leads := true, acks := [f.devid], propAt := s.reftime }
  commitIf (prepare s dev (f.gen + 1) d) dev

/-- A REPORT at the coordinator (R416, R425): one of a plane already in D, or no longer used, is discarded. -/
def actOnReport (s : State) (dev plane : Nat) : State :=
  let f := fabricOf s dev
  let d : BitVec 8 := if f.leads then f.propDead else 0
  if d.getLsbD plane || !mapUses f.map plane then s else propose s dev (d ||| (1#8 <<< plane))

/-- A REPORT goes to the coordinator, which may be the device itself. -/
def reportPlane (s : State) (dev plane : Nat) : State :=
  let f := fabricOf s dev
  let c := coordinator f s.reftime
  if c == f.devid then actOnReport s dev plane
  else sendMsg s c sentReport (.report (devFin dev) f.devid (Fin.ofNat 8 plane))

/-- The planes of a set are reported in turn. -/
def reportPlanes (s : State) (dev : Nat) (d : BitVec 8) : State :=
  ((List.range 8).filter fun k => d.getLsbD k).foldl (fun s k => reportPlane s dev k) s

/-- A plane is found dead (R415, R416, R418). -/
def killPlane (s : State) (dev k : Nat) : State :=
  let s := modFabric s dev fun f =>
    { f with dead := f.dead ||| (1#8 <<< k), blocked := f.blocked ||| (1#8 <<< k), agree := if f.agree == .normal then .blocked else f.agree,
             since := if f.agree == .normal then s.reftime else f.since }
  failHopeless (reportPlane s dev k) dev

/-- A device goes on to agreement on the planes that stay blocked. -/
def reportStale (s : State) (dev : Nat) : State := reportPlanes s dev (fabricOf s dev).blocked

/-- After a step that installed a map, a device goes on to agreement on what stays blocked; `gen` is the generation before it. -/
def settleAgree (s : State) (dev gen : Nat) : State := if (fabricOf s dev).gen == gen then s else reportStale s dev

/-- The ticks of a plane's last answer. -/
def lastHeard (f : FabricSt) (plane : Nat) : Nat := ((peersOf f).map fun m => kgetD f.heard (heardKey m plane) 0).foldl Nat.max 0

/-- PLANE_DEAD (R415): all three ports lost, or PTMO ticks without an answer. -/
def execPlaneDead (dev : Fin 3) (plane : Fin 8) (s : State) : Result :=
  let f := fabricOf s dev.val
  let silent := !(peersOf f).isEmpty && lastHeard f plane.val + f.ptmo ≤ s.reftime
  if !f.configured || f.dead.getLsbD plane.val || !((livePorts f plane.val).isEmpty || silent) then stall s
  else .next (settleAgree (killPlane s dev.val plane.val) dev.val f.gen)

/-- A message of agreement reaches a configured device. -/
def onFabric (s : State) (dev : Fin 3) (g : FabricSt → Result) : Result :=
  if (fabricOf s dev.val).configured then g (fabricOf s dev.val) else stall s

/-- REPORT (R416): the coordinator acts on it, any other member forwards it. -/
def execReportMsg (s : State) : Result :=
  match s.message with
  | .report dev peer plane => onFabric s dev fun f =>
    let c := coordinator f s.reftime
    if c == f.devid then .next (settleAgree (actOnReport s dev.val plane.val) dev.val f.gen) else .next (sendMsg s c sentReport (.report dev peer plane))
  | _ => stall s

/-- PROPOSE (R416): of the generation after the present one. -/
def execProposeMsg (s : State) : Result :=
  match s.message with
  | .propose dev peer g d => onFabric s dev fun f =>
    if g != f.gen + 1 || d == 0 then .next s
    else
      let s := modFabric s dev.val fun f => { f with leads := false }
      .next (sendMsg (prepare s dev.val g d) peer sentAck (.generation dev f.devid g))
  | _ => stall s

/-- ACK (R416). -/
def execAckMsg (s : State) : Result :=
  match s.message with
  | .generation dev peer g => onFabric s dev fun f =>
    if !f.leads || g != f.propGen then .next s
    else
      .next (settleAgree (commitIf (modFabric s dev.val fun f => { f with acks := peer :: f.acks.filter (· != peer) }) dev.val) dev.val f.gen)
  | _ => stall s

/-- COMMIT (R416). -/
def execCommitMsg (s : State) : Result :=
  match s.message with
  | .generation dev _ g => onFabric s dev fun f =>
    if f.agree != .prepared || g != f.propGen || g != f.gen + 1 then .next s else .next (reportStale (install s dev.val) dev.val)
  | _ => stall s

/-- PROPOSE_TIMEOUT (R416): 10 × PTMO after PROPOSE. -/
def execProposeTimeout (dev : Fin 3) (s : State) : Result :=
  let f := fabricOf s dev.val
  if !f.leads || s.reftime < f.propAt + 10 * f.ptmo then stall s else .next (reportStale (commitPlan s dev.val) dev.val)

/-- COMMIT_TIMEOUT (R416): 20 × PTMO without COMMIT; the next lowest live member coordinates. -/
def execCommitTimeout (dev : Fin 3) (s : State) : Result :=
  let f := fabricOf s dev.val
  let now := s.reftime
  if !f.configured || f.leads || f.agree == .normal || now < f.since + 20 * f.ptmo then stall s
  else
    let s := modFabric s dev.val fun f => { f with floor := coordinator f now + 1, since := now }
    let g := fabricOf s dev.val
    if coordinator g now == g.devid then .next (settleAgree (propose s dev.val g.blocked) dev.val f.gen) else .next (reportPlanes s dev.val g.blocked)

/-! ## FABRIC_CONFIG (R397, R398) -/

/-- The range of R292 that holds an address, HBM4E and the second tier alone. -/
def rangeOf (dev pa : Nat) : Option Nat :=
  let inside (lo hi : Nat) : Bool := lo ≤ pa && pa < hi
  if dev == 0 then (if pa < 0xC000000000 then some 0 else if inside 0x20000000000 0x40000000000 then some 1 else none)
  else if pa < 0x6000000000 then some 0
  else if inside 0x8000000000 0xE000000000 then some 1
  else if inside 0x20000000000 0x30000000000 then some 2
  else if inside 0x30000000000 0x40000000000 then some 3
  else none

/-- An entry of the export table (R398). -/
def exportEntry (b : List Byte) : PeerWindow :=
  let fl := leAt b 0x10 1
  { base := leAt b 0 8, size := leAt b 8 8, valid := fl % 2 == 1, read := fl / 2 % 2 == 1, write := fl / 4 % 2 == 1 }

/-- It obeys R398. -/
def exportOk (dev : Nat) (b : List Byte) : Bool :=
  let e := exportEntry b
  leAt b 0x10 1 < 8 && leAt b 0x11 15 == 0 &&
    (!e.valid || (e.base % 4096 == 0 && e.size % 4096 == 0 && (rangeOf dev e.base).isSome &&
      (e.size == 0 || rangeOf dev (e.base + e.size - 1) == rangeOf dev e.base)))

/-- The bits of a bitmap. -/
def bitmapOf (b : List Byte) : List Nat := (List.range (8 * b.length)).filter fun n => (b.getD (n / 8) 0).getLsbD (n % 8)

/-- What the operands of FABRIC_CONFIG name. -/
structure FabricOps where
  devid   : Nat
  members : List Nat
  map     : List Nat
  gen     : Nat
  exports : List (List Byte)
  rtmo    : Nat
  ptmo    : Nat

/-- The stretch of the map of R292 that an address lies in: HBM4E (of the own die and of the other one in split mode), the second tier, or host memory. -/
def mapPart (dev pa : Nat) : Nat := if isHost pa then 3 else if 2 ^ 41 ≤ pa then 2 else if dev != 0 && 2 ^ 39 ≤ pa then 1 else 0

/-- Every byte of `[pa, pa + n)` lies in a range of R292. -/
def inMap (dev pa n : Nat) : Bool :=
  (homeKey dev pa).isSome && (n == 0 || ((homeKey dev (pa + n - 1)).isSome && mapPart dev pa == mapPart dev (pa + n - 1)))

/-- The structures that the request names (R397, R429): MEMBERS, MAP and EXPORT, with their lengths; none where one lies outside the memory map or off its
alignment. -/
def fabricStructs (r : Request) : Option (List (Nat × Nat)) :=
  let dev := r.fn.val
  let at_ (n : Nat) : Nat := (r.op n).toNat
  if !inMap dev (at_ 1) 128 || !inMap dev (at_ 2) 64 || at_ 4 % 64 != 0 || (at_ 4 != 0 && !inMap dev (at_ 4) 512) then none
  else some ([(at_ 1, 128), (at_ 2, 64)] ++ if at_ 4 == 0 then [] else [(at_ 4, 512)])

/-- What the operands name, read once. -/
def fabricOps (s : State) (r : Request) : FabricOps :=
  let dev := r.fn.val
  let at_ (n : Nat) : Nat := (r.op n).toNat
  let table := if at_ 4 == 0 then [] else (List.range 16).map fun i => mpRead s dev (at_ 4 + 32 * i) 32
  { devid := at_ 0, members := bitmapOf (mpRead s dev (at_ 1) 128), map := (mpRead s dev (at_ 2) 64).map (·.toNat),
    gen := at_ 3, exports := table, rtmo := at_ 5, ptmo := at_ 6 }

/-- The limits of R397. -/
def fabricOpsOk (f : FabricSt) (dev : Nat) (o : FabricOps) : Bool :=
  o.devid ≤ 1023 && o.members.contains o.devid && o.map.all (fun p => p < 8 && !(livePorts f p).isEmpty) && 1 ≤ o.gen && o.gen < 2 ^ 32 &&
    100000 ≤ o.rtmo && o.rtmo ≤ 2 ^ 40 && 10000 ≤ o.ptmo && o.ptmo ≤ 10000000 && o.exports.all (exportOk dev)

/-- A remote operation or a window of the device is outstanding (R397). -/
def fabricBusy (f : FabricSt) : Bool := !f.out.isEmpty || f.wins.any fun w => w.2.st == .opened

/-- The unit as configured: planes without a live port are dead, every peer has just been heard. -/
def FabricSt.configure (f : FabricSt) (o : FabricOps) (now : Nat) : FabricSt :=
  let down : BitVec 8 := BitVec.ofNat 8 (bitsFn (fun k => (livePorts f k).isEmpty) 8)
  let heard := (o.members.flatMap fun m => (List.range 8).map fun k => (heardKey m k, now))
  { f with
    configured := true, devid := o.devid, members := o.members, map := Vector.ofFn fun e => Fin.ofNat 8 (o.map.getD e.val 0), gen := o.gen,
    windows := o.exports.map exportEntry, rtmo := o.rtmo, ptmo := o.ptmo, dead := down, agree := .normal, propGen := 0,
    propDead := 0, blocked := 0, leads := false, acks := [], floor := 0, lost := [], heard := heard, kept := Vector.replicate 8 now }

end Sys2Proof.Machine
end

