-- ==== Sys2Proof/Machine/Fences.lean ====
section
/-!
DEFINITION. FENCE, CFENCE and RFLUSH (R234 to R237).
-/

namespace Sys2Proof.Machine

/-- FENCE or RFLUSH goes on with the write-back of region granules (R235, R237, R283). Once all are written the word ends by `k`, or
raises PAGE or PERM, detail 3, for a write-back that failed (R284). -/
def flushOn (s : State) (u : Nat) (c : Crew) (todo writing : List Nat) (k : State → Crew → Result) : Result :=
  let (s, todo, writing) := flushGranules s c.team u todo writing
  if !todo.isEmpty || !writing.isEmpty then stall (putCrew s u { c with await := .flush todo writing })
  else match teamOf s c.team with
    | none => .fault .noStream
    | some t =>
      let (t, low) := takeFails t u
      let s := putTeam s c.team t
      match low with
      | some (cause, va) => raiseScalar (putCrew s u { c with await := .none }) u cause 3 0 va
      | none => k s c

/-- The word ends. -/
def endFence (u : Nat) (s : State) (c : Crew) : Result := .next (putCrew s u c.next)

/-- The write-back of every dirty granule of the crew's team begins; a failure that an earlier word of the crew left is not its own. -/
def startFlush (s : State) (u : Nat) (c : Crew) (k : State → Crew → Result) : Result :=
  match teamOf s c.team with
  | none => .fault .noStream
  | some t => flushOn (putTeam s c.team (takeFails t u).1) u c (dirtyGranules t) [] k

/-- The mark that a FENCE with release leaves (R235). -/
def Crew.markFence (c : Crew) (stamp scope : Nat) : Crew :=
  { c with fences := c.openFences ++ [{ stamp := stamp, synced := c.synced, blocks := c.nextBlock, scope := scope }] }

/-- A no-return VATOM that the FENCE orders before it has not been performed (R235). -/
def atomOpen (s : State) (c : Crew) : Bool :=
  (c.storeQ ++ c.sideLog).any fun e => e.kind == .vatom && e.ordered c.synced && e.stamp < s.nextStamp

/-- FENCE's own waits (R235): the side log is empty; an acquire has its loads and atomics, a full fence all that is ordered before it. Before a write-back,
the scratchpad stores that are ordered before it have reached their ports (R283). A constant read is in no order (R300). -/
def fenceWaits (s : State) (c : Crew) (kind scope : Nat) : Bool :=
  !c.sideLog.isEmpty ||
    (kind != 0 && (atomOpen s c || c.loads.any fun l => (l.scalar || l.block ≤ c.synced) && l.space != .constant)) ||
    (kind == 2 && !released c c.synced s.nextStamp scope) || (2 ≤ scope && !c.scratchClear)

/-- FENCE once it waits for nothing of the lane stream. -/
def fenceBody (kind scope : Nat) (s : State) (u : Nat) (c : Crew) : Result :=
  let fin (s : State) (c : Crew) : Result :=
    if kind == 0 then
      let (s, stamp) := takeStamp s
      endFence u s (c.markFence stamp scope)
    else endFence u (acquire s u) c
  match c.await with
  | .flush todo writing => flushOn s u c todo writing fin
  | _ =>
    if fenceWaits s c kind scope then stall s
    else match drainBuffers s c.die c.core fun _ => true with
      | none => stall s
      | some s => if 2 ≤ scope then startFlush s u c fin else fin s c

/-- FENCE (R234, R235). In split mode package scope is performed as system scope. -/
def execFenceWord (w : Bool) (k : Fin 4) (sc : Fin 8) (s : State) : Result :=
  let scope := splitScope (s.mode == 2) 3 sc.val
  if w then withSync s [] (fenceBody k.val scope s) else withScalar s [] (fenceBody k.val scope s)

/-- CFENCE (R236, R300). -/
def execCfence (s : State) : Result :=
  withScalar s [] fun u c =>
    if !c.storeQ.isEmpty || !c.sideLog.isEmpty then stall s else .next (putCrew s u { c with cfence := c.cfence + 1 }.next)

/-- RFLUSH (R237). -/
def execRflush (s : State) : Result :=
  withSync s [] fun u c => match c.await with
    | .flush todo writing => flushOn s u c todo writing (endFence u)
    | _ =>
      if !c.scratchClear then stall s
      else match drainBuffers s c.die c.core fun _ => true with
        | none => stall s
        | some s => startFlush s u c (endFence u)

end Sys2Proof.Machine
end

