-- ==== Sys2Proof/Machine/ScalarSys.lean ====
section
/-!
DEFINITION. The scalar words of special registers, lane blocks, traps and pre-emption (R32, R115 to R117, R139 to R144, R326, R327,
R334, R335), and the words that have no instruction (R29).
-/

namespace Sys2Proof.Machine

/-! ## Special registers (R116) -/

/-- PREQ of a crew (R325). -/
def preqOf (s : State) (c : Crew) : Nat :=
  match teamOf s c.team with
  | none => 0
  | some t => if t.reqReason == 0 then 0 else 1 + 2 * (t.reqReason % 8) + 2 ^ 32 * Nat.min c.reqLeft 0xFFFFFFFF

/-- FEAT0 to FEAT7 (R31). -/
def featOf (n : Nat) : W64 := if n == 0 then 0xFFFFFFFFFFFFFFFF#64 else if n == 1 then 0x00000000FFFFFFFF#64 else 0

/-- A special register as SRD reads it (R116). -/
def readSpecial (s : State) (c : Crew) (x : Nat) : W64 :=
  let team (f : Team → Nat) : W64 := match teamOf s c.team with | some t => w64 (f t) | none => 0
  let launch (f : Launch → Nat) : W64 := match crewLaunch s c with | some l => w64 (f l) | none => 0
  let ctx (f : Context → Nat) : W64 := match ctxOf s (crewCtx s c) with | some k => w64 (f k) | none => 0
  let co := coreAt s c.die c.core
  if x == 0x00 then w64 c.index
  else if x == 0x01 then team Team.index
  else if x == 0x02 then launch fun l => l.kernel.crews + 65536 * l.kernel.shape
  else if x == 0x03 then launch fun l => l.record.grid
  else if x == 0x04 then w64 c.role
  else if x == 0x05 then w64 (c.core + 256 * co.phys)
  else if x == 0x06 then w64 c.die
  else if x == 0x07 then w64 s.reftime
  else if x == 0x08 then co.cycles
  else if x == 0x09 then c.astat
  else if x == 0x0A then ctx Context.fairt
  else if x == 0x0B then w64 (preqOf s c)
  else if x == 0x0C then ctx Context.pdead
  else if x == 0x0D then c.skew
  else if 0x10 ≤ x && x ≤ 0x17 then featOf (x - 0x10)
  else if x == 0x18 || x == 0x19 then vget c.tscr (x - 0x18) 0
  else if x == 0x1A then launch fun l => l.record.dataVa.toNat
  else if x == 0x1B then launch fun l => l.record.constVa.toNat
  else if x == 0x1C || x == 0x1D then vget c.tword (x - 0x1C) 0
  else if x == 0x20 then c.tcause
  else if x == 0x21 then c.tspc
  else if x == 0x22 then c.tlpc
  else if x == 0x23 then c.texec
  else if x == 0x24 then c.tfmask
  else if x == 0x25 then c.tinfo
  else if x == 0x26 then c.taddr
  else if x == 0x27 then c.tvec
  else if 0x28 ≤ x && x ≤ 0x2F then vget c.tsplit (x - 0x28) 0
  else if 0x30 ≤ x && x ≤ 0x37 then (vget c.cc (x - 0x30) Counter.reset).done.zeroExtend 64
  else if 0x38 ≤ x && x ≤ 0x3F then (vget c.cc (x - 0x38) Counter.reset).issued.zeroExtend 64
  else if 0x40 ≤ x && x ≤ 0x4F then vget c.t (x - 0x40) 0
  else 0

/-- TLPC holds a 22-bit index or all ones in its low half (R111, R116). -/
def tlpcValue (v : W64) : W64 := if bitsOf v 31 0 == 0xFFFFFFFF then noLpc else w64 (bitsOf v 21 0)

/-- A special register as SWR writes it (R116, R140): reserved bits stay 0, and a register that is RO does not change. DESIGN CHOICE (log 71):
what SWR writes to a trap register outside handler mode stands, and reads back, until the next trap writes the register. -/
def Crew.writeSpecial (c : Crew) (x : Nat) (v : W64) : Crew :=
  if x == 0x09 then c.writeAstat v
  else if x == 0x0D then { c with skew := w64 (bitsOf v 49 0) }
  else if x == 0x18 || x == 0x19 then { c with tscr := vset c.tscr (x - 0x18) v }
  else if x == 0x21 then { c with tspc := w64 (bitsOf v 21 0) }
  else if x == 0x22 then { c with tlpc := tlpcValue v }
  else if x == 0x23 then { c with texec := v }
  else if x == 0x25 then { c with tinfo := (c.tinfo &&& ~~~ 1#64) ||| (v &&& 1#64) }
  else if x == 0x27 then { c with tvec := v &&& 0x80000000003FFFFF#64 }
  else if 0x28 ≤ x && x ≤ 0x2F then { c with tsplit := vset c.tsplit (x - 0x28) v }
  else if 0x40 ≤ x && x ≤ 0x4F then { c with t := vset c.t (x - 0x40) (w64 (bitsOf v 47 0)) }
  else c

/-- The registers whose SRD waits as LSYNC (R67). -/
def srdWaits (x : Nat) : Bool := x == 0x09
/-- The registers whose SWR waits as LSYNC (R67, R83). -/
def swrWaits (x : Nat) : Bool := x == 0x09 || x == 0x0D || (0x40 ≤ x && x ≤ 0x4F)

/-- SRD (R139). -/
def execSrd (d : SReg) (x : Fin 256) (s : State) : Result :=
  if !specialListed x.val then onScalar s fun u _ => raiseScalar s u 0x02 0 0 0
  else if srdWaits x.val then withSync s [d] fun u c => .next (putCrew s u (c.ws d (readSpecial s c x.val)).next)
  else withScalar s [d] fun u c => .next (putCrew s u (c.ws d (readSpecial s c x.val)).next)

/-- SWR (R140). -/
def execSwr (a : SReg) (x : Fin 256) (s : State) : Result :=
  if !specialListed x.val then onScalar s fun u _ => raiseScalar s u 0x02 0 0 0
  else if swrWaits x.val then withSync s [a] fun u c => .next (putCrew s u (c.writeSpecial x.val (c.rs a)).next)
  else withScalar s [a] fun u c => .next (putCrew s u (c.writeSpecial x.val (c.rs a)).next)

/-! ## Lane blocks (R80, R81, R141, R142) -/

/-- A block starts: one fragment of all 64 lanes in slot 0; the slots keep their generation bits (R81, R98). -/
def Crew.startBlock (c : Crew) (start stamp : Nat) : Crew :=
  let slot (n : Nat) (sl : SplitSlot) : SplitSlot :=
    { sl with frag := if n == 0 then some (newFrag allLanes start stamp []) else none }
  { c with div := { slots := Vector.ofFn fun n => slot n.val c.div.slots[n], serial := [], started := true } }

/-- The blocks that the crew's lane queue may hold: four, or the handler's one (R80, R112). -/
def Crew.queueDepth (c : Crew) : Nat := if c.handler then 1 else 4

/-- s1 to s15 (R80). -/
def Crew.snapshot (c : Crew) : Vector W64 15 := Vector.ofFn fun n => c.s[n.val + 1]

/-- The block that an LRUN enqueues. -/
def Crew.newBlock (c : Crew) (start stamp : Nat) : Block :=
  { ord := c.nextBlock, stamp := stamp, start := start, snap := c.snapshot, skew := c.skew, tiles := c.t, cfence := c.cfence }

/-- The reply to a BARA will write a register of the lane window (R80: the snapshot shows every earlier write). -/
def Crew.windowReply (c : Crew) : Bool :=
  c.reply.any fun b => 1 ≤ b.reg.val && b.reg.val ≤ 15

/-- A scalar load that a block waits for (R80, R84): one from the constant path is in no order with lane accesses (R300), and counts only where it will
write a register of the lane window. -/
def Crew.windowLoad (c : Crew) : Bool := c.loads.any fun l => l.scalar && (l.space != .constant || (1 ≤ l.reg && l.reg ≤ 15))

/-- LRUN and LRUNR once their waits are over: ILLEGAL, detail 3, outside `.lcode`; a wait for room; the block joins the queue and
starts when it is alone there (R80, R81, R141). -/
def enqueueBlock (s : State) (u : Nat) (c : Crew) (start : Nat) : Result :=
  if lcodeSize s c ≤ start then raiseScalar s u 0x01 3 0 0
  else if c.queueDepth ≤ c.laneQ.length || c.windowLoad || c.windowReply then stall s
  else
    let (s, stamp) := takeStamp s
    let (s, age) := takeStamp s
    let idle := c.laneQ.isEmpty
    let c := { c with laneQ := c.laneQ ++ [c.newBlock start stamp], nextBlock := c.nextBlock + 1 }
    .next (putCrew s u (if idle then c.startBlock start age else c).next)

/-- LRUN (R141). -/
def execLrun (l : Bool) (i : BitVec 22) (s : State) : Result :=
  if l then withSync s [] fun u c => enqueueBlock s u c i.toNat else withScalar s [] fun u c => enqueueBlock s u c i.toNat

/-- LRUNR (R141): the start index is all 64 bits of s[a]. -/
def execLrunr (l : Bool) (a : SReg) (s : State) : Result :=
  if l then withSync s [a] fun u c => enqueueBlock s u c (c.rs a).toNat
  else withScalar s [a] fun u c => enqueueBlock s u c (c.rs a).toNat

/-- LSYNC (R142). -/
def execLsync (s : State) : Result := withSync s [] fun u c => .next (putCrew s u c.next)

/-- SGETP (R143). -/
def execSgetp (d : SReg) (p : Fin 16) (s : State) : Result := withSync s [d] fun u c => .next (putCrew s u (c.ws d (c.rp p.val)).next)

/-- SGETV (R144): a register outside the allocation raises RESFIELD before any wait. -/
def execSgetv (d a : SReg) (v : Fin 256) (s : State) : Result :=
  onScalar s fun u c =>
    if !c.owns v.val then raiseScalar s u 0x02 0 0 0
    else withSync s [d, a] fun u c => .next (putCrew s u (c.ws d ((laneGet (c.rv v.val) (bitsOf (c.rs a) 5 0)).zeroExtend 64)).next)

/-- A running block has no fragment left, and the data of its loads has returned: it completes (R81). -/
def Crew.blockOver (c : Crew) : Bool :=
  !c.laneQ.isEmpty && c.div.started && c.div.frags.isEmpty && c.loads.all (·.scalar) && c.trapping.isNone

/-- LANE_BLOCK_COMPLETE (R81): the next block of the queue starts. -/
def execLaneBlockComplete (crew : Nat) (s : State) : Result :=
  match crewOf s crew with
  | none => stall s
  | some c =>
    if !c.blockOver then stall s
    else
      let rest := c.laneQ.drop 1
      let c := { c with laneQ := rest, div := { c.div with serial := [], started := false } }
      match rest with
      | [] => .next (putCrew s crew c)
      | b :: _ =>
        let (s, age) := takeStamp s
        .next (putCrew s crew (c.startBlock b.start age))

/-! ## Pre-emption (R325 to R327) -/

/-- PCHK (R326). -/
def execPchk (d : SReg) (s : State) : Result := withScalar s [d] fun u c => .next (putCrew s u (c.ws d (w64 (preqOf s c))).next)

/-- PYIELD (R327): no effect without a request or in handler mode; else the crew saves itself, its light image standing in the
model's saved team, and leaves its scheduler. -/
def execPyield (s : State) : Result :=
  withScalar s [] fun u c =>
    if preqOf s c == 0 || c.handler then .next (putCrew s u c.next)
    else match c.synced? with
      | none => stall s
      | some c => if !c.loads.isEmpty || !c.reply.isEmpty then stall s else .next (putCrew s u { c.next with st := .yielded })

/-! ## Traps (R115, R334, R335) -/

/-- TRAP (R334). -/
def execTrap (code : BitVec 19) (s : State) : Result := withScalar s [] fun u _ => raiseScalar s u 0x05 0 code.toNat 0

/-- BKPT (R334). -/
def execBkpt (code : BitVec 19) (s : State) : Result := withScalar s [] fun u _ => raiseScalar s u 0x06 0 code.toNat 0

/-- RTE (R115): PRIV outside handler mode; waits until the handler's block has completed. -/
def execRte (s : State) : Result :=
  withScalar s [] fun u c =>
    match c.handler, c.frozen with
    | true, some fr => if !c.laneQ.isEmpty || !c.reply.isEmpty then stall s else .next (returnFromTrap s u c fr)
    | _, _ => raiseScalar s u 0x04 0 0 0

/-- The 128 bytes of a service-queue entry (R335). -/
def serviceBytes (s : State) (c : Crew) (tag code : Nat) : List Byte :=
  leBytes 2 (crewCtx s c) ++ leBytes 1 c.slot ++ leBytes 1 c.core ++ leBytes 1 c.die ++ leBytes 3 0 ++ leBytes 8 tag ++ leBytes 4 code ++
    leBytes 4 0 ++ ((List.range 8).flatMap fun i => leBytes 8 (vget c.s (i + 1) 0).toNat) ++ leBytes 8 s.reftime ++ leBytes 32 0

/-- SYSC (R335): it posts its request once and then waits for the answer with its tag (log 24). -/
def execSysc (d : SReg) (code : BitVec 19) (s : State) : Result :=
  withScalar s [d, 1, 2, 3, 4, 5, 6, 7, 8] fun u c =>
    match c.await with
    | .sysc _ (some v) => .next (putCrew s u (c.ws d v).next)
    | .sysc _ none => stall s
    | _ => match ctxOf s (crewCtx s c) with
      | none => raiseScalar s u 0x04 2 0 0
      | some x => match x.serviceQ with
        | none => raiseScalar s u 0x04 2 0 0
        | some cb =>
          if ringFree s x.dev.val cb == 0 then stall s
          else
            let tag := s.nextTag
            let s := ringPut s x.dev.val cb 128 (serviceBytes s c tag code.toNat)
            .next (putCrew { s with nextTag := tag + 1 } u { c with await := .sysc tag none })

/-! ## Words without an instruction of their own (R29, R32) -/

/-- The binding of a feature bit (R41). -/
def bindingOf (s : State) (c : Crew) (bit : Nat) : Option Nat :=
  match crewLaunch s c with
  | some l => (l.bindings.find? fun b => b.1 == bit).map (·.2)
  | none => none

/-- GATED_SCALAR_OPCODE (R29, R32): EMUL to the bound entry, or ILLEGAL, detail 2. -/
def execGatedScalarOpcode (g : Fin 16) (_x : BitVec 25) (s : State) : Result :=
  withScalar s [] fun u c =>
    let word := match s.cur with | some k => k.word | none => 0
    match bindingOf s c (96 + g.val) with
    | some e => .next (raise s u (scalarTrap word 0x03 0 (96 + g.val) 0 (some e)))
    | none => raiseScalar s u 0x01 2 0 0

/-- GATED_LANE_OPCODE (R29, R32). -/
def execGatedLaneOpcode (g : Fin 32) (_x : BitVec 88) (s : State) : Result :=
  onLane s fun x =>
    match bindingOf s x.c (112 + g.val) with
    | some e => x.raiseWith s 0x03 0 (112 + g.val) allLanes 0 (some e)
    | none => x.raise s 0x01 2 0 allLanes 0

/-- Cause and detail of a word that R29 rejects. -/
def rejectCause : Reject → Nat × Nat
  | .opcode => (0x01, 0)
  | .function => (0x01, 1)
  | .field => (0x02, 0)

/-- UNDECODABLE_WORD (R29). -/
def execUndecodableWord (lane : Bool) (_w : BitVec 96) (reason : Reject) (s : State) : Result :=
  if lane then onLane s fun x => x.raise s (rejectCause reason).1 (rejectCause reason).2 0 allLanes 0
  else onScalar s fun u _ => raiseScalar s u (rejectCause reason).1 (rejectCause reason).2 0 0

end Sys2Proof.Machine
end

