-- ==== Sys2Proof/Machine/Remote.lean ====
section
/-!
DEFINITION. Remote words (R399 to R404), FENCEP (R405), COLL (R409, R410), and what a target does with a remote operation (R402, R419).
-/

namespace Sys2Proof.Machine

/-! ## Checks (R401) -/

/-- The lanes of a list that fail a test: their mask and the lowest of their addresses. -/
def faFail (fas : List (Nat × W64)) (bad : W64 → Bool) : Option (W64 × W64) :=
  let fs := fas.filter fun e => bad e.2
  match listMin (fs.map (·.2.toNat)) with
  | some lo => some (maskOf fun i => fs.any (·.1 == i), w64 lo)
  | none => none

/-- The checks of R401 in order: cause, detail, TFMASK, TADDR. -/
def faCheck (f : FabricSt) (width : Nat) (fas : List (Nat × W64)) : Option (Nat × Nat × W64 × W64) :=
  let tag (cause detail : Nat) (r : Option (W64 × W64)) : Option (Nat × Nat × W64 × W64) := r.map fun e => (cause, detail, e.1, e.2)
  (tag 0x0C 6 (faFail fas fun a => bitsOf a 63 62 != 0 || !f.members.contains (faPeer a))).or
    ((tag 0x0C 7 (faFail fas fun a => faPeer a == f.devid)).or
      ((tag 0x0A 0 (faFail fas fun a => a.toNat % width != 0)).or (tag 0x0C 6 (faFail fas fun _ => !f.configured))))

/-- What a remote word waits for before the unit accepts it: an acquire, and the releases of earlier FENCEs (R138, R235). -/
def LaneCx.remoteWaits (x : LaneCx) : Bool := x.c.laneAcquiring || !x.c.fencesClear false 0 x.blk.ord

/-- The word is accepted, and the fragment goes on. -/
def LaneCx.sendOps (x : LaneCx) (s : State) (dev cc : Nat) (ops : List (Nat → Nat → RemoteOut)) : Result :=
  let s := acceptOps (putCrew s x.u x.c) dev x.u cc ops
  match crewOf s x.u with
  | some c => x.finish s c
  | none => .fault .noStream

/-! ## RPUT, RGET, RRED (R400) -/

/-- The operation of one lane. -/
def laneOp (s : State) (u reg dev : Nat) (kind : RemoteKind) (w : LaneWord) (lane : Nat) (fa : W64) (data : W32) (cmd seq : Nat) : RemoteOut :=
  { seq := seq, cmd := cmd, crew := u, reg := reg, fa := fa, plane := 0, port := 0, sent := false, sentAt := s.reftime, mark := false,
    op := { src := (fabricOf s dev).devid, seq := seq, kind := kind, ty := w.ty, op := if kind == .rred then fnBits w.fn 7 6 else 0,
            rtz := kind == .rred && w.fn.getLsbD 8, lanes := [{ lane := lane, pa := faPa fa, data := data }], plane := 0, port := 0 },
    line := none }

/-- CC of a remote word. -/
def ccOf (w : LaneWord) : Nat := fnBits w.fn 5 3

/-- A remote word (R400, R401): operands are captured at acceptance. -/
def remoteWord (i : Instr) (w : LaneWord) (kind : RemoteKind) (s : State) : Result :=
  laneWord s i (guarded w) fun s x =>
    let dev := crewDev s x.c
    let fas := (lanesOf x.lset).map fun k => (k, x.globalVa w (scaleOf w) k)
    match faCheck (fabricOf s dev) (widthOf w.ty) fas with
    | some (cause, detail, mask, addr) => x.raise s cause detail 0 mask addr
    | none =>
      if x.remoteWaits then stall s
      else x.sendOps s dev (ccOf w) (fas.map fun e => laneOp s x.u w.vd.val dev kind w e.1 e.2 ((x.dataOf w e.1).truncate 32))

/-- RPUT (R400, R402). -/
def execRput (w : LaneWord) (s : State) : Result := remoteWord (.rput w) w .rput s
/-- RGET (R400, R402). -/
def execRget (w : LaneWord) (s : State) : Result := remoteWord (.rget w) w .rget s
/-- RRED (R400, R402). -/
def execRred (w : LaneWord) (s : State) : Result := remoteWord (.rred w) w .rred s

/-- FENCEP (R405): the remote commands that the unit had accepted when the word began. -/
def execFencep (s : State) : Result :=
  withScalar s [] fun u c =>
    let upTo := match c.await with | .fencep n => n | _ => s.nextCmd
    let mine (o : RemoteOut) : Bool := o.crew == u && o.cmd < upTo
    if (fabricOf s (crewDev s c)).out.any mine then stall (putCrew s u { c with await := .fencep upTo }) else .next (putCrew s u c.next)

/-! ## COLL (R409, R410) -/

/-- The scale exponent of an MX line: floor(log2 amax) - emax, clamped; -127 for a line of zeros (R410). -/
def lineScale (vs : List FVal) (emax : Int) : Int :=
  let one (v : FVal) : Option Int := match v with | .num _ m e => some (ilog2 m + e) | _ => none
  match vs.filterMap one with
  | [] => -127
  | e :: es => Max.max (-127) (Min.min 127 (es.foldl (fun a b => Max.max a b) e - emax))

/-- Nibbles packed two to a byte (R50). -/
def packNibbles : List Nat → List Byte
  | a :: b :: rest => BitVec.ofNat 8 (a + 16 * b) :: packNibbles rest
  | [a] => [BitVec.ofNat 8 a]
  | [] => []

/-- A line of 32 FP32 values compressed (R410): the wire bytes and the flags. `rnd j` rounds element j. -/
def compressLine (ty : Ty) (ftz : Bool) (rnd : Nat → Bool → Rnd) (vs : List W32) : List Byte × Nat :=
  let conv (f : Fmt) (sat : Bool) (xs : List FVal) : List (Nat × Nat) :=
    (indexed xs).map fun (e : Nat × FVal) => f.convert (rnd e.1 sat) e.2
  let flags (rs : List (Nat × Nat)) : Nat := rs.foldl (fun a r => orFlags a r.2) 0
  if ty == .f32 then (vs.flatMap fun v => leBytes 4 v.toNat, 0)
  else if ty == .bf16 then
    let rs := conv bf16 false (vs.map fun v => fp32.read ftz v.toNat)
    (rs.flatMap fun r => leBytes 2 r.1, flags rs)
  else
    let f := if ty == .e4m3 then e4m3 else e2m1
    let pack (xs : List Nat) : List Byte := if ty == .e4m3 then xs.map fun x => BitVec.ofNat 8 x else packNibbles xs
    let xs := vs.map fun v => fp32.decode v.toNat
    if xs.any fun v => match v with | .nan => true | .inf _ => true | _ => false then (pack (List.replicate 32 0) ++ [0xFF#8], 0)
    else
      let e := lineScale xs (if ty == .e4m3 then 8 else 2)
      let rs := conv f (ty == .e4m3) (xs.map fun v => v.shift (-e))
      (pack (rs.map (·.1)) ++ [BitVec.ofNat 8 (e + 127).toNat], flags rs)

/-- The lanes of half `g`. -/
def halfMask (g : Nat) : W64 := if g == 0 then 0xFFFFFFFF#64 else 0xFFFFFFFF00000000#64

/-- The fabric address of a line: COLL has no displacement (R399, R409). -/
def LaneCx.collFa (x : LaneCx) (w : LaneWord) (i : Nat) : W64 := x.base w i + (sext32 (x.src w w.c i) <<< scaleOf w)

/-- The line that half `g` sends, with its flags. -/
def LaneCx.collLine (x : LaneCx) (s : State) (w : LaneWord) (dev : Nat) (fa : W64) (g : Nat) : CollLine × Nat :=
  let wid := faPa fa / 2 ^ 44
  let offset := faPa fa % 2 ^ 44
  let sr := w.fn.getLsbD 6
  let seed := seedOf x.blk.snap (w.imm.toNat % 16)
  let rnd (j : Nat) (sat : Bool) : Rnd :=
    { rm := if sr then 4 else 0, rb := srMix seed (w64 (wid * 2 ^ 32 + offset / 4 + j)), ftz := x.c.ftz, sat := sat }
  let r := compressLine w.ty x.c.ftz rnd ((List.range 32).map fun j => x.src w w.b (32 * g + j))
  ({ src := (fabricOf s dev).devid, seq := 0, wid := Fin.ofNat 256 wid, offset := offset, fmt := w.ty, wire := r.1, plane := 0, port := 0 }, r.2)

/-- The operation of one line. -/
def lineOp (s : State) (u : Nat) (fa : W64) (l : CollLine) (cmd seq : Nat) : RemoteOut :=
  { seq := seq, cmd := cmd, crew := u, reg := 0, fa := fa, plane := 0, port := 0, sent := false, sentAt := s.reftime, mark := false,
    op := { src := l.src, seq := seq, kind := .rput, ty := l.fmt, op := 0, rtz := false, lanes := [], plane := 0, port := 0 },
    line := some { l with seq := seq } }

/-- COLL (R409). -/
def execColl (w : LaneWord) (s : State) : Result :=
  laneWord s (.coll w) (guarded w) fun s x =>
    let part (g : Nat) : W64 := x.lset &&& halfMask g
    let torn := [0, 1].filter fun g => part g != 0 && part g != halfMask g
    if !torn.isEmpty then x.raise s 0x02 5 0 (torn.foldl (fun m g => m ||| part g) 0) 0
    else
      let dev := crewDev s x.c
      let halves := ([0, 1].filter fun g => part g != 0).map fun g => (g, x.collFa w (32 * g))
      match faCheck (fabricOf s dev) 128 (halves.map fun (e : Nat × W64) => (32 * e.1, e.2)) with
      | some (cause, detail, mask, addr) => x.raise s cause detail 0 mask addr
      | none =>
        if x.remoteWaits then stall s
        else
          let lines := halves.map fun (e : Nat × W64) => (e.2, x.collLine s w dev e.2 e.1)
          let flags := lines.foldl (fun a (l : W64 × CollLine × Nat) => orFlags a l.2.2) 0
          let x := { x with c := x.c.raiseFlags flags }
          x.sendOps s dev (ccOf w) (lines.map fun (l : W64 × CollLine × Nat) => lineOp s x.u l.1 l.2.1)

/-! ## The target (R402, R419, R426) -/

/-- A valid entry covers the bytes with the permission that the word needs. -/
def exported (f : FabricSt) (kind : RemoteKind) (pa width : Nat) : Bool :=
  f.windows.any fun e => e.valid && e.base ≤ pa && pa + width ≤ e.base + e.size && (if kind == .rget then e.read else e.write)

/-- The target remembers the number of an operation of a source that it performed: the last 65,536. -/
def remember (s : State) (dev src seq : Nat) : State :=
  modFabric s dev fun f =>
    let ns := kgetD f.seen src []
    if ns.contains seq then f else { f with seen := kset f.seen src ((seq :: ns).take 65536) }

/-- It remembers it already. -/
def remembered (s : State) (dev src seq : Nat) : Bool := (kgetD (fabricOf s dev).seen src []).contains seq

/-- One lane at its home slice, at system scope (R402, R382); an RPUT or RRED whose number is remembered is acknowledged only, whatever the exports now say
(R419). -/
def targetLane (s : State) (dev : Nat) (op : RemoteOp) (again : Bool) (l : RemoteLane) : State × LaneAnswer :=
  let width := widthOf op.ty
  let die := devDie dev
  let yes (s : State) (x : Nat) : State × LaneAnswer := (s, { lane := l.lane, refused := false, data := w32 x, bad := false })
  if again && op.kind != .rget then yes s 0
  else if !exported (fabricOf s dev) op.kind l.pa width then (s, { lane := l.lane, refused := true, data := 0, bad := false })
  else match op.kind with
    | .rget =>
      let r := readUnit s (.fabric dev) dev die l.pa width
      (r.1, { lane := l.lane, refused := false, data := w32 (leNat r.2.1), bad := r.2.2 })
    | .rput => yes (writeUnit s (.fabric dev) dev die l.pa (leBytes width l.data.toNat)) 0
    | .rred =>
      let r := readHome s none dev die l.pa 4
      let x := (redApply op.ty op.op (flag op.rtz) false (leNat r.2.1) l.data.toNat).1
      yes (writeUnit r.1 (.fabric dev) dev die l.pa (leBytes 4 x)) 0

/-- The lanes of an operation in ascending order. -/
def targetLanes (s : State) (dev : Nat) (op : RemoteOp) (again : Bool) : List RemoteLane → State × List LaneAnswer
  | [] => (s, [])
  | l :: ls =>
    let r := targetLane s dev op again l
    let q := targetLanes r.1 dev op again ls
    (q.1, r.2 :: q.2)

/-- REMOTE_OP_RECEIVE (R402, R419, R426), over the port to its sender (R394, R396). The answer takes the plane of the request. -/
def execRemoteOpReceive (s : State) : Result :=
  match s.message with
  | .remoteOp dev op =>
    if !portOpen (fabricOf s dev.val) op.plane op.src then stall s
    else
      let r := targetLanes s dev.val op (remembered s dev.val op.src op.seq) (sortBy (·.lane) op.lanes)
      let s := if r.2.any fun a => !a.refused then remember r.1 dev.val op.src op.seq else r.1
      .next (sendMsg s op.src sentAnswer (.remoteAnswer dev { seq := op.seq, plane := op.plane, port := op.port, lanes := r.2 }))
  | _ => stall s

/-- An answer of an operation reaches its sender: it is to the sending that stands, and the plane on which it travels still carries traffic from that peer
(R396, R426). -/
def answers (f : FabricSt) (ans : RemoteAnswer) (o : RemoteOut) : Bool :=
  o.seq == ans.seq && o.sent && o.plane == ans.plane && o.port == ans.port && portOpen f o.plane (faPeer o.fa)

/-- REMOTE_ANSWER_RECEIVE (R403): the lane is acknowledged, its RGET value written, or it was refused. A value that its home
delivered poisoned halts the crew that consumes it (R202, R372). -/
def execRemoteAnswerReceive (s : State) : Result :=
  match s.message with
  | .remoteAnswer dev ans =>
    match (fabricOf s dev.val).out.find? (answers (fabricOf s dev.val) ans) with
    | none => stall s
    | some o =>
      if ans.lanes.any (·.refused) then .next (failOut s dev.val o false)
      else
        let t := endOut (match ans.lanes with | a :: _ => writeGet s o a.data | [] => s) dev.val o
        .next (if ans.lanes.any (·.bad) then haltCrew t o.crew 1 o.fa.toNat else t)
  | _ => stall s

end Sys2Proof.Machine
end

