-- ==== Sys2Proof/Machine/Windows.lean ====
section
/-!
DEFINITION. Reduction windows (R406 to R414): CWIN, CSTAT, CABORT, the lines that arrive, entering and closing a line, expiry, absent
contributors (R422).
-/

namespace Sys2Proof.Machine

/-- A window of a device. -/
def winOf (s : State) (dev w : Nat) : WinState := kgetD (fabricOf s dev).wins w WinState.reset
/-- Changes it. -/
def modWin (s : State) (dev w : Nat) (g : WinState → WinState) : State :=
  let x := g (winOf s dev w)
  modFabric s dev fun f => { f with wins := kset f.wins w x }

/-- A line of a window. -/
def WinLine.empty : WinLine := { admitted := 0, waiting := [], entered := 0, acc := [], started := false, bad := false, closed := false }
def WinState.line (x : WinState) (li : Nat) : WinLine := kgetD x.lines li WinLine.empty
def modLine (s : State) (dev w li : Nat) (g : WinLine → WinLine) : State :=
  modWin s dev w fun x => { x with lines := kset x.lines li (g (x.line li)) }

/-! ## The descriptor (R407) -/

/-- The contributors that a descriptor expects. -/
def WinDesc.expected (d : WinDesc) : List Nat := (List.range 16).filter (hasBit d.expect)

/-- The descriptor in 64 bytes. -/
def winDesc (b : List Byte) : WinDesc :=
  let l4 := leAt b 0x0F 1
  { base := w64 (leAt b 0 8), len := leAt b 8 4, wid := leAt b 0x0C 1, fmt := (Ty.ofCode (leAt b 0x0D 1)).getD .b32, replace := leAt b 0x0E 1 == 1,
    w4 := 16 + l4 % 16, t4 := l4 / 16 % 2 == 1, rnd4 := l4 / 32 % 2 == 1, expect := leAt b 0x10 2, cc := leAt b 0x12 1,
    deadline := leAt b 0x14 4, stage := leAt b 0x18 4, peers := (List.range 16).map fun c => leAt b (0x20 + 2 * c) 2 }

/-- The fields obey their limits. -/
def winDescOk (f : FabricSt) (b : List Byte) : Bool :=
  let d := winDesc b
  let peer (c : Nat) : Bool :=
    let p := d.peers.getD c 0
    p < 1024 && (if hasBit d.expect c then f.members.contains p && p != f.devid else p == 0)
  d.base.toNat % 128 == 0 && d.len % 128 == 0 && 128 ≤ d.len && d.len ≤ 2 ^ 24 && [2, 4, 5, 7].contains (leAt b 0x0D 1) && leAt b 0x0E 1 ≤ 1 &&
    leAt b 0x0F 1 < 64 && d.expect != 0 && d.cc < 8 && leAt b 0x13 1 == 0 && 1 ≤ d.stage && d.stage ≤ 98304 && leAt b 0x1C 4 == 0 &&
    (List.range 16).all peer

/-- Lines of a window. -/
def WinDesc.lines (d : WinDesc) : Nat := d.len / 128

/-- The dies that home a line of the region, by the pages that are present at the time. -/
def winDies (s : State) (dev ctx : Nat) (d : WinDesc) : List Nat :=
  let first := d.base.toNat / 4096
  let n := (d.base.toNat + d.len - 1) / 4096 - first + 1
  dedup ((List.range n).filterMap fun i =>
    match (checkLane s (devDie dev) noCore dev ctx (w64 ((first + i) * 4096)) 1 .store false).2 with
    | .ok pa => (homeKey dev pa).map keyDie
    | _ => none)

/-- Staging buffers reserved at a die by the open windows of every device (R408). -/
def reserved (s : State) (die : Nat) : Nat :=
  let one (w : Nat × WinState) : Nat :=
    if w.2.st == .opened && w.2.dies.contains die then (match w.2.desc with | some d => d.stage | none => 0) else 0
  (s.fabrics.toList.flatMap fun f => f.wins.map one).foldl (· + ·) 0

/-! ## CWIN (R408) -/

/-- The window as CWIN opens it. -/
def openWin (s : State) (c : Crew) (u cmd : Nat) (d : WinDesc) (dies : List Nat) (absent : Nat) : WinState :=
  { WinState.reset with
    st := .opened, desc := some d, ctx := crewCtx s c, crew := u, launch := (match crewLaunch s c with | some l => l.uid | none => 0), cmd := cmd,
    expiry := if d.deadline == 0 then none else some (s.reftime + 100 * d.deadline), dies := dies, absent := absent }

/-- The contributors of a descriptor that stand for absent devices (R422). -/
def absentMask (d : WinDesc) (gone : List Nat) : Nat := bitsFn (fun c => hasBit d.expect c && gone.contains (d.peers.getD c 0)) 16

/-! ## Closing a window (R412, R423) -/

/-- The contributors admitted for every line, and for some lines but not all (R413). -/
def WinState.arrived (x : WinState) : Nat × Nat :=
  match x.desc with
  | none => (0, 0)
  | some d =>
    let count (c : Nat) : Nat := (x.lines.filter fun l => hasBit l.2.admitted c).length
    (bitsFn (fun c => count c == d.lines) 16, bitsFn (fun c => 0 < count c && count c < d.lines) 16)

/-- The number of a state in CSTAT (R413). -/
def WinSt.code : WinSt → Nat
  | .free => 0
  | .opened => 1
  | .complete => 2
  | .expired => 3
  | .aborted => 4

/-- A window leaves OPEN: the journal, and the CWIN command completes without a failure. -/
def closeWin (s : State) (dev w : Nat) (st : WinSt) : State :=
  let x := winOf s dev w
  let a := x.arrived
  let detail := w + 2 ^ 8 * a.1 + 2 ^ 24 * a.2 + 2 ^ 40 * flag x.fault
  let s := journalEvent s dev 36 (st.code - 2) (devDie dev) detail
  let s := modWin s dev w fun x =>
    { x with st := st, closing := false, waits := [], lines := x.lines.map fun l => (l.1, { l.2 with waiting := [], acc := [] }) }
  finishCommand s x.crew x.cmd none

/-- A window whose lines are all closed completes, or expires once the lines that have anything are. -/
def settleWin (s : State) (dev w : Nat) : State :=
  let x := winOf s dev w
  match x.st, x.desc with
  | .opened, some d =>
    if x.closing then (if x.lines.all fun l => l.2.closed then closeWin s dev w .expired else s)
    else if (x.lines.filter fun l => l.2.closed).length == d.lines then closeWin s dev w .complete
    else s
  | _, _ => s

/-! ## Wire lines (R410) -/

/-- The nibbles of bytes. -/
def nibblesOf (bs : List Byte) : List Nat := bs.flatMap fun b => [b.toNat % 16, b.toNat / 16]

/-- The 32 exact values of a wire line (R410, R50). -/
def decodeLine (ty : Ty) (b : List Byte) : List FVal :=
  let mx (n : Nat) (f : Fmt) (xs : List Nat) : List FVal :=
    let scale := leAt b n 1
    xs.map fun x => if scale == 0xFF then .nan else (f.decode x).shift (scale - 127 : Int)
  match ty with
  | .f32 => (List.range 32).map fun j => fp32.decode (leAt b (4 * j) 4)
  | .bf16 => (List.range 32).map fun j => bf16.decode (leAt b (2 * j) 2)
  | .e4m3 => mx 32 e4m3 ((List.range 32).map fun j => leAt b j 1)
  | _ => mx 16 e2m1 (nibblesOf (b.take 16))

/-! ## Accumulators (R411) -/

/-- An accumulator that holds one value. -/
def WinAcc.of (v : FVal) : WinAcc :=
  match v with
  | .nan => { value := .zero, nan := true, pinf := false, ninf := false }
  | .inf n => { value := .zero, nan := false, pinf := !n, ninf := n }
  | v => { value := Dyadic.ofFVal v, nan := false, pinf := false, ninf := false }

/-- A contribution enters (R411, R73): replace, or level 4 of the tree. -/
def WinAcc.enter (d : WinDesc) (a : WinAcc) (v : FVal) : WinAcc :=
  if d.replace then WinAcc.of v
  else match v with
    | .nan => { a with nan := true }
    | .inf n => { a with pinf := a.pinf || !n, ninf := a.ninf || n }
    | v => { a with value := (levelAdd a.value (Dyadic.ofFVal v) d.w4 d.t4 d.rnd4).value }

/-- The FP32 word that an accumulator closes as (R411, R74). -/
def WinAcc.close (d : WinDesc) (a : WinAcc) : Nat :=
  let v : FVal := if a.nan || (a.pinf && a.ninf) then .nan else if a.pinf then .inf false else if a.ninf then .inf true else a.value.fval
  (fp32.convert (plainRnd (flag d.rnd4) false) v).1

/-! ## Line accesses -/

/-- The page of a line (R411): its physical address; or the line waits, with a record; or it cannot be had. -/
def winPage (s : State) (dev w : Nat) (va : W64) (acc : Acc) : State × MapOutcome :=
  let x := winOf s dev w
  let vp := va.toNat / 4096
  let access := if acc == .store then 0x22 else 0x21
  let core := match crewOf s x.crew with | some c => c.core | none => 0
  let note (kind : Nat) : Option State :=
    let r := engineRecord s vp kind access core (devDie dev)
    writeRecords r.1 x.ctx [r.2]
  if refused x.waits vp then (s, .fail 0x0B)
  else match checkLane s (devDie dev) noCore dev x.ctx va 1 acc false with
  | (s, .ok pa) => (s, .ok pa)
  | (s, .absent) =>
    if waiting x.waits vp then (s, .wait)
    else match note 0 with
      | none => (s, .wait)
      | some s => (modWin s dev w fun x => { x with waits := x.waits.filter (·.vp != vp) ++ [{ vp := vp, answer := none }] }, .wait)
  | (s, .fail _ cause detail) =>
    if detail == 6 || detail == 7 then (match note (detail - 4) with | some s => (s, .fail cause) | none => (s, .wait)) else (s, .fail cause)

/-- A line closes without a write; `fault` marks one that could not be written. -/
def dropLine (s : State) (dev w li : Nat) (fault : Bool) : State :=
  let s := modLine s dev w li fun l => { l with closed := true, waiting := [], acc := [] }
  modWin s dev w fun x => { x with fault := x.fault || fault }

/-- A line that has all it will have closes (R411): one indivisible write of 128 bytes. -/
def writeLine (s : State) (dev w li : Nat) (d : WinDesc) : State :=
  let l := (winOf s dev w).line li
  if !l.started then dropLine s dev w li false
  else match winPage s dev w (d.base + w64 (128 * li)) .store with
    | (s, .wait) => s
    | (s, .fail _) => dropLine s dev w li true
    | (s, .ok pa) =>
      let s := writeUnit s (.fabric dev) dev (devDie dev) pa (l.acc.flatMap fun a => leBytes 4 (a.close d))
      let s := if l.bad then poisonSectors s none (sectorsOf dev pa 128) else s
      modWin (dropLine s dev w li false) dev w fun x => { x with written := x.written + 1 }

/-- The first contribution finds the region's line (R411). Nothing while its page is missing. -/
def startLine (s : State) (dev w li : Nat) (d : WinDesc) : State × Bool :=
  if ((winOf s dev w).line li).started then (s, true)
  else if d.replace then (modLine s dev w li fun l => { l with started := true, acc := List.replicate 32 (WinAcc.of (.zero false)) }, true)
  else match winPage s dev w (d.base + w64 (128 * li)) .load with
    | (s, .wait) => (s, false)
    | (s, .fail _) => (dropLine s dev w li true, false)
    | (s, .ok pa) =>
      let r := readUnit s (.fabric dev) dev (devDie dev) pa 128
      let acc := (List.range 32).map fun j => WinAcc.of (fp32.decode (leAt r.2.1 (4 * j) 4))
      (modLine r.1 dev w li fun l => { l with started := true, acc := acc, bad := r.2.2 }, true)

/-- Contributions enter a line in ascending contributor index (R411): absent ones are skipped, and at expiry those missing. The line closes
after the last. -/
def stepLine (dev w li : Nat) (d : WinDesc) : List Nat → State → State
  | [], s => writeLine s dev w li d
  | c :: cs, s =>
    let x := winOf s dev w
    let l := x.line li
    if l.closed then s
    else if hasBit l.entered c || hasBit x.absent c then stepLine dev w li d cs s
    else match kget l.waiting c with
      | none => if x.closing then stepLine dev w li d cs s else s
      | some b => match startLine s dev w li d with
        | (s, false) => s
        | (s, true) =>
          let vs := decodeLine d.fmt b
          stepLine dev w li d cs (modLine s dev w li fun l =>
            { l with entered := l.entered + 2 ^ c, waiting := kdel l.waiting c, acc := (l.acc.zip vs).map fun (e : WinAcc × FVal) => e.1.enter d e.2 })

/-- Every line of a window that is not closed is tried; then the window. -/
def pumpWin (s : State) (dev w : Nat) : State :=
  let x := winOf s dev w
  match x.st, x.desc with
  | .opened, some d =>
    settleWin ((x.lines.filter fun l => !l.2.closed).foldl (fun s l => stepLine dev w l.1 d d.expected s) s) dev w
  | _, _ => s

/-- Every line index of a window gets a record: lines that wait for no one close even when nothing arrives (R422). -/
def allLines (s : State) (dev w : Nat) : State :=
  match (winOf s dev w).desc with
  | none => s
  | some d => modWin s dev w fun x => { x with lines := (List.range d.lines).map fun li => (li, x.line li) }

/-- CWIN (R408). Lines that wait for no one, because every contributor is absent, close at once (R422). -/
def execCwin (w : LaneWord) (s : State) : Result :=
  laneWord s (.cwin w) (guarded w) fun s x =>
    match crewLaunch s x.c with
    | some l =>
      let dev := crewDev s x.c
      let off := (x.literal w).toNat
      if off % 64 != 0 then x.raise s 0x0A 0 0 allLanes (w64 off)
      else if scratchSize l < off + 64 then x.raise s 0x0C 1 0 allLanes (w64 off)
      else if x.remoteWaits || !accessesDone x.c s.nextStamp x.blk.stamp 0 then stall s
      else match readDesc s x.c l x.toucher off with
        | .wait s => stall s
        | .trap s cause detail addr => x.raise s cause detail 0 allLanes addr
        | .ok s b bad =>
          let d := winDesc b
          if !winDescOk (fabricOf s dev) b then x.raise s 0x02 0 0 allLanes 0
          else if bad then .next (haltCrew s x.u 1 (2 ^ 22 * x.c.coreIdx + off))
          else if (winOf s dev d.wid).st == .opened then x.raise s 0x0D 6 d.wid allLanes 0
          else
            let dies := winDies s dev (crewCtx s x.c) d
            if dies.any fun die => 98304 < reserved s die + d.stage then x.raise s 0x0D 7 d.wid allLanes 0
            else
              let (s, id) := takeCmd s
              let s := modWin s dev d.wid fun _ => openWin s x.c x.u id d dies (absentMask d l.absent)
              let s := putCrew s x.u (x.c.modCC d.cc fun k => k.join id)
              let s := if absentMask d l.absent == 0 then s else pumpWin (allLines s dev d.wid) dev d.wid
              match crewOf s x.u with
              | some c => x.finish s c
              | none => .fault .noStream
    | none => .fault .noStream

/-! ## Arriving lines (R411) -/

/-- The contributor that a line's sender is. -/
def contributorOf (d : WinDesc) (src : Nat) : Option Nat := d.expected.find? fun c => d.peers.getD c 0 == src

/-- Why a line is refused at tick `now`, by the CODE of kind 35; none when it is admitted. A line that arrives in the tick at which the window
expires is refused (R412). -/
def refusal (now : Nat) (x : WinState) (l : CollLine) : Option Nat :=
  match x.st, x.desc with
  | .opened, some d =>
    if x.closing || (match x.expiry with | some t => t ≤ now | none => false) then some 3
    else match contributorOf d l.src with
      | none => some 1
      | some c =>
        if hasBit x.absent c then some 6
        else if hasBit (x.line (l.offset / 128)).admitted c then some 2
        else if d.len ≤ l.offset || l.offset % 128 != 0 then some 5
        else if l.fmt != d.fmt then some 4 else none
  | _, _ => some 3

/-- The answer to a line's sender, over the plane of its line; a plane that carries no traffic to the sender by then loses it (R394, R396, R426). -/
def answerLine (s : State) (dev : Nat) (l : CollLine) (no : Bool) : State :=
  if !portOpen (fabricOf s dev) l.plane l.src then s
  else sendMsg s l.src sentAnswer (.remoteAnswer (devFin dev)
    { seq := l.seq, plane := l.plane, port := l.port, lanes := [{ lane := 0, refused := no, data := 0, bad := false }] })

/-- A refused line is journalled and counted (R411, R423). -/
def refuseLine (s : State) (dev : Nat) (l : CollLine) (code : Nat) : State :=
  let fa := lineFa (fabricOf s dev).devid l.wid.val l.offset
  let s := journalEvent s dev 35 code (devDie dev) fa.toNat
  answerLine (modWin s dev l.wid.val fun x => { x with discards := Nat.min (x.discards + 1) 0xFFFFFFFF }) dev l true

/-- Buffers that a window holds. -/
def WinState.staged (x : WinState) : Nat := (x.lines.map fun l => l.2.waiting.length).foldl (· + ·) 0

/-- An admitted line finds a free staging buffer, or its window is open no more (R411). -/
def canStage (x : WinState) : Bool := match x.st, x.desc with | .opened, some d => x.staged < d.stage | _, _ => true

/-- An admitted line is staged and acknowledged; one whose window has closed meanwhile is refused. -/
def stageLine (s : State) (dev : Nat) (l : CollLine) : State :=
  let x := winOf s dev l.wid.val
  let li := l.offset / 128
  match x.st, x.desc with
  | .opened, some d => match contributorOf d l.src with
    | some c =>
      let s := modLine s dev l.wid.val li fun k => { k with waiting := kset k.waiting c l.wire }
      settleWin (stepLine dev l.wid.val li d d.expected (answerLine s dev l false)) dev l.wid.val
    | none => s
  | _, _ => refuseLine s dev l 3

/-- The line is admitted. -/
def admitLine (s : State) (dev : Nat) (l : CollLine) : State :=
  let s := remember s dev l.src l.seq
  match (winOf s dev l.wid.val).desc with
  | some d => match contributorOf d l.src with
    | some c => modLine s dev l.wid.val (l.offset / 128) fun k => { k with admitted := k.admitted + 2 ^ c }
    | none => s
  | none => s

/-- The lines that wait, in order of arrival: each is behind the earlier ones of its sender on its plane. The first that can go on does;
`fuel` bounds how often. -/
def serveLines (dev : Nat) : Nat → State → State
  | 0, s => s
  | fuel + 1, s =>
    let q := (fabricOf s dev).waitLines
    let free (e : Nat × (CollLine × Bool)) : Bool :=
      !((q.take e.1).any fun k => k.1.src == e.2.1.src && k.1.plane == e.2.1.plane) &&
        (!e.2.2 || canStage (winOf s dev e.2.1.wid.val))
    match (indexed q).find? free with
    | none => s
    | some (i, l, admitted) =>
      let leave (s : State) : State := modFabric s dev fun f => { f with waitLines := ldel f.waitLines i }
      if admitted then serveLines dev fuel (stageLine (leave s) dev l)
      else match refusal s.reftime (winOf s dev l.wid.val) l with
        | some code => serveLines dev fuel (refuseLine (leave s) dev l code)
        | none =>
          let s := admitLine s dev l
          serveLines dev fuel (modFabric s dev fun f => { f with waitLines := lmod f.waitLines i fun e => (e.1, true) })

/-- The waiting lines of a device go on as far as they can. -/
def serveAll (s : State) (dev : Nat) : State := serveLines dev (2 * (fabricOf s dev).waitLines.length) s

/-- COLL_LINE_RECEIVE (R411, R419), over the port to its sender (R394, R396): a line whose number the device remembers is acknowledged only; one that waits
here already, and comes again, will be answered on its new plane (R426). -/
def execCollLineReceive (s : State) : Result :=
  match s.message with
  | .collLine dev l =>
    let f := fabricOf s dev.val
    let same (k : CollLine) : Bool := k.src == l.src && k.seq == l.seq
    if !portOpen f l.plane l.src then stall s
    else if f.waitLines.any fun e => same e.1 then
      let one (e : CollLine × Bool) : CollLine × Bool := if same e.1 then ({ e.1 with plane := l.plane, port := l.port }, e.2) else e
      .next (modFabric s dev.val fun f => { f with waitLines := f.waitLines.map one })
    else if remembered s dev.val l.src l.seq then .next (answerLine s dev.val l false)
    else .next (serveAll (modFabric s dev.val fun f => { f with waitLines := f.waitLines ++ [(l, false)] }) dev.val)
  | _ => stall s

/-- The windows of every device go on after pages were answered (R320). -/
def pumpAll (s : State) : State :=
  (List.range 3).foldl (fun s dev =>
    serveAll (((fabricOf s dev).wins.map (·.1)).foldl (fun s w => pumpWin s dev w) s) dev) s

/-- Pages are answered, and the windows that waited for them go on. -/
def answerAll (s : State) (ctx vp : Nat) (mapped : Bool) : State := pumpAll (answerPage s ctx vp mapped)

/-! ## Expiry and abort (R412, R414) -/

/-- The lines of a window that are admitted and wait for a buffer when it expires have arrived: they enter, and are acknowledged (R411). -/
def stageRest (s : State) (dev w : Nat) : State :=
  let mine (e : CollLine × Bool) : Bool := e.2 && e.1.wid.val == w
  let one (s : State) (e : CollLine × Bool) : State :=
    match (winOf s dev w).desc.bind fun d => contributorOf d e.1.src with
    | some c => answerLine (modLine s dev w (e.1.offset / 128) fun k => { k with waiting := kset k.waiting c e.1.wire }) dev e.1 false
    | none => s
  let rest := (fabricOf s dev).waitLines.filter mine
  rest.foldl one (modFabric s dev fun f => { f with waitLines := f.waitLines.filter fun e => !mine e })

/-- WINDOW_EXPIRY (R412): what has arrived enters, and the lines close. -/
def execWindowExpiry (dev : Fin 3) (w : Fin 256) (s : State) : Result :=
  let x := winOf s dev.val w.val
  match x.st, x.expiry with
  | .opened, some t =>
    if x.closing || s.reftime < t then stall s
    else .next (serveAll (pumpWin (stageRest (modWin s dev.val w.val fun x => { x with closing := true }) dev.val w.val) dev.val w.val) dev.val)
  | _, _ => stall s

/-- A window is aborted (R414): one that is not OPEN is unchanged. -/
def abortWin (s : State) (dev w : Nat) : State :=
  if (winOf s dev w).st == .opened then serveAll (closeWin s dev w .aborted) dev else s

/-- ABORT arrives (R414), over the port to its sender (R394). -/
def execWindowAbort (s : State) : Result :=
  match s.message with
  | .windowAbort dev peer plane wid => if portOpen (fabricOf s dev.val) plane peer then .next (abortWin s dev.val wid.val) else stall s
  | _ => stall s

/-- The devices that PEER names under EXPECT. -/
def WinState.senders (x : WinState) : List Nat := match x.desc with | some d => d.expected.map fun c => d.peers.getD c 0 | none => []

/-- The present word names a window above 255. -/
def LaneCx.badWin (x : LaneCx) (s : State) (n : Nat) : Result := x.raise s 0x0D 0 n allLanes 0

/-- The plane on which ABORT travels to a peer (DESIGN CHOICE, log 94): the lowest that carries traffic to it. -/
def abortPlane (f : FabricSt) (peer : Nat) : Option Nat := (List.range 8).find? fun k => portOpen f k peer

/-- ABORT is sent to a peer that some plane reaches (R414, R394). -/
def sendAbort (dev wid : Nat) (s : State) (peer : Nat) : State :=
  let f := fabricOf s dev
  match abortPlane f peer with
  | some k => sendMsg s peer sentAbort (.windowAbort (devFin dev) f.devid k (Fin.ofNat 256 wid))
  | none => s

/-- CABORT (R414). -/
def execCabort (w : LaneWord) (s : State) : Result :=
  laneWord s (.cabort w) (guarded w) fun s x =>
    let n := (x.literal w).toNat
    let dev := crewDev s x.c
    if 255 < n then x.badWin s n
    else
      let s := if w.fn.getLsbD 0 then (winOf s dev n).senders.foldl (sendAbort dev n) s else s
      let s := abortWin (putCrew s x.u x.c) dev n
      match crewOf s x.u with
      | some c => x.finish s c
      | none => .fault .noStream

/-! ## CSTAT (R413) -/

/-- The word of lane `i`. -/
def WinState.stat (x : WinState) (i : Nat) : Nat :=
  match i with
  | 0 => x.st.code + 256 * flag x.fault
  | 1 => x.arrived.1
  | 2 => x.arrived.2
  | 3 => x.absent
  | 4 => x.written
  | 5 => x.discards
  | _ => 0

/-- CSTAT (R413): one that reads a closed state is an acquire. -/
def execCstat (w : LaneWord) (s : State) : Result :=
  laneWord s (.cstat w) (guarded w) fun s x =>
    let n := (x.literal w).toNat
    if 255 < n then x.badWin s n
    else if x.c.laneAcquiring then stall s
    else
      let y := winOf s (crewDev s x.c) n
      x.finish (if 2 ≤ y.st.code then acquire s x.u else s) (x.c.wv w.vd.val x.lset (lanesFn fun i => w32 (y.stat i)))

/-! ## Absent members (R422) -/

/-- A device becomes absent for the windows of a launch. -/
def absentFor (s : State) (dev launch m : Nat) : State :=
  let mine := ((fabricOf s dev).wins.filter fun w => w.2.launch == launch && w.2.st == .opened).map (·.1)
  let one (s : State) (w : Nat) : State :=
    let mask (x : WinState) : Nat := match x.desc with | some d => x.absent ||| absentMask d [m] | none => x.absent
    pumpWin (allLines (modWin s dev w fun x => { x with absent := mask x }) dev w) dev w
  serveAll (mine.foldl one s) dev

end Sys2Proof.Machine
end

