-- ==== Sys2Proof/Machine/Mailbox.lean ====
section
/-!
DEFINITION. The mailbox (R387 to R393, R395, R429): contexts and devices, page tables and shootdowns (R312 to R315), answers to crews (R320,
R335), debugging (R336, R337), attestation and firmware (R376, R392, R393). Where the manual does not lay out a request's operands, log 27 does.
-/

namespace Sys2Proof.Machine

/-! ## Requests and responses -/

/-- The response: the tag, the results, STATUS; GO falls (R387, R388). -/
def respond (s : State) (status : Nat) (results : List Byte) : State :=
  modDev s s.request.fn.val fun d =>
    { d with go := false, status := status, mboxRsp := padBytes 256 (leBytes 4 s.request.tag.toNat ++ results) }

/-- The response without results. -/
def answer (s : State) (status : Nat) : Result := .next (respond s status [])

/-- A request is served: GO is 1, and the firmware runs or the request is FW_STAGE (R392). -/
def onRequest (s : State) (f : Request → Result) : Result :=
  if (devOf s s.request.fn.val).go && (s.fwUp || s.request.code == 13) then f s.request else stall s

/-- A request that names a context of its function's device; STATUS 3 for any other. -/
def onContext (s : State) (f : Request → Context → Result) : Result :=
  onRequest s fun r => match ctxOf s (r.op 0).toNat with
    | some c => if c.dev == r.fn then f r c else answer s 3
    | none => answer s 3

/-- An operand of a request, as a number. -/
def opNat (r : Request) (n : Nat) : Nat := (r.op n).toNat

/-- Every byte of `[pa, pa + n)` lies in device memory (R292). -/
def inDevice (dev pa n : Nat) : Bool := inMap dev pa n && !isHost pa

/-! ## DEVICE_INIT (R390) -/

/-- The function serves a context. -/
def servesContext (s : State) (fn : Nat) : Bool := s.contexts.any fun c => c.2.dev.val == fn

/-- The operands of DEVICE_INIT lie in their limits. -/
def initOk (dev : Nat) (r : Request) : Bool :=
  let j := opNat r 0
  let n := opNat r 1
  let d := opNat r 2
  let size := opNat r 3
  let injb := opNat r 4
  j % 4096 == 0 && 64 ≤ j && 8 ≤ n && n ≤ 20 && inDevice dev (j - 64) 64 && inDevice dev j (64 * 2 ^ n) && d % 4096 == 0 && size % 4096 == 0 &&
    2 ^ 22 ≤ size && inDevice dev d size && (injb == 0 || (256 ≤ injb && injb ≤ 65535))

/-- The dies that a function configures (R390). -/
def fnDies (fn : Nat) : List Nat := if fn == 0 then [0, 1] else [fn - 1]

/-- DEVICE_INIT (R390): a new journal, HEAD 0, every reduction window FREE (R406). -/
def execDeviceInit (s : State) : Result :=
  onRequest s fun r =>
    let fn := r.fn.val
    if servesContext s fn then answer s 1
    else if !initOk fn r then answer s 3
    else
      let injb := if opNat r 4 == 0 then 2048 else opNat r 4
      let s := modDev s fn fun d =>
        { d with prepared := true, jBase := opNat r 0, jLog := opNat r 1, seq := 0, dumpBase := opNat r 2, dumpSize := opNat r 3 }
      let s := (fnDies fn).foldl (fun s die => modDie s die fun d => { d with injb := injb }) s
      let s := modFabric s fn fun f => { f with wins := [], waitLines := [] }
      answer (mpWrite s fn (opNat r 0 - 64) (leBytes 8 0)) 0

/-! ## CREATE_CONTEXT (R389, R338, R322) -/

/-- The control block of a fault or service queue obeys R322. -/
def controlOk (s : State) (dev cb : Nat) : Bool :=
  cb % 64 == 0 && inMap dev cb 64 && mpNat s dev cb 8 % 4096 == 0 && inMap dev (mpNat s dev cb 8) 1 &&
    6 ≤ mpNat s dev (cb + 8) 1 && mpNat s dev (cb + 8) 1 ≤ 16 && mpNat s dev (cb + 9) 3 == 0 && mpNat s dev (cb + 0x14) 44 == 0

/-- Descriptor `i` of the submission-queue table. -/
def descBytes (s : State) (dev table i : Nat) : List Byte := mpRead s dev (table + 32 * i) 32

/-- A descriptor obeys R338. -/
def descOk (dev : Nat) (b : List Byte) : Bool :=
  leAt b 0 8 % 4096 == 0 && inMap dev (leAt b 0 8) 64 && 4 ≤ leAt b 8 1 && leAt b 8 1 ≤ 16 && leAt b 9 1 ≤ 7 &&
    leAt b 0x0A 2 < (if dev == 0 then 64 else 32) && leAt b 0x10 16 == 0

/-- No repeats. -/
def distinct : List Nat → Bool
  | [] => true
  | x :: xs => !xs.contains x && distinct xs

/-- The operands of CREATE_CONTEXT lie in their limits, and its descriptors obey R338. -/
def createOk (s : State) (r : Request) : Bool :=
  let dev := r.fn.val
  let n := opNat r 8
  let pdead := opNat r 1
  let fairt := opNat r 2
  let descs := (List.range n).map (descBytes s dev (opNat r 7))
  opNat r 0 == (if dev == 0 then 1 else 2) && (pdead == 0 || (1024 ≤ pdead && pdead < 2 ^ 32)) && (fairt == 0 || (64 ≤ fairt && fairt ≤ 65535)) &&
    controlOk s dev (opNat r 3) && (opNat r 4 == 0 || controlOk s dev (opNat r 4)) && opNat r 5 % 4096 == 0 && opNat r 5 != 0 &&
    opNat r 6 % 4096 == 0 && opNat r 6 != 0 && inMap dev (opNat r 5) (opNat r 6) && opNat r 7 % 64 == 0 && 1 ≤ n &&
    n ≤ (if dev == 0 then 64 else 32) && inMap dev (opNat r 7) (32 * n) && descs.all (descOk dev) && distinct (descs.map fun b => leAt b 0x0A 2)

/-- STATUS 1 of CREATE_CONTEXT: a context of the other mode, a queue that is held, or no id left. -/
def createBusy (s : State) (r : Request) : Bool :=
  let dev := r.fn.val
  let qs := (List.range (opNat r 8)).map fun i => leAt (descBytes s dev (opNat r 7) i) 0x0A 2
  s.contexts.any (fun c => (c.2.dev.val == 0) != (dev == 0)) || qs.any (fun q => (queueOf s dev q).isSome) || 4096 ≤ s.contexts.length

/-- A queue as its descriptor gives it: empty, CONS 0. -/
def newQueue (ctx desc : Nat) (b : List Byte) : SubQueue :=
  { ctx := ctx, desc := desc, base := leAt b 0 8, log2n := leAt b 8 1, prio := leAt b 9 1, prod := 0, cons := 0, open_ := [], waiting := none,
    accepted := false, waits := [], got := [] }

/-- The lowest free context id (R389). -/
def freeCtx (s : State) : Nat := (((List.range 4096).find? fun i => (ctxOf s i).isNone)).getD 0

/-- What CREATE_CONTEXT reads: its control blocks and descriptors, with what that does at their homes (R372). -/
def touchCreate (s : State) (r : Request) : State :=
  let dev := r.fn.val
  let block (s : State) (cb : Nat) : State := if cb != 0 && cb % 64 == 0 && inMap dev cb 64 then mpTouch s dev cb 64 else s
  let n := opNat r 8
  let s := block (block s (opNat r 3)) (opNat r 4)
  if opNat r 7 % 64 == 0 && n ≤ 64 && inMap dev (opNat r 7) (32 * n) then mpTouch s dev (opNat r 7) (32 * n) else s

/-- CREATE_CONTEXT (R389, R380): it fixes the package's mode. -/
def execCreateContext (s : State) : Result :=
  onRequest s fun r =>
    let dev := r.fn.val
    let prepared := (devOf s dev).prepared
    let s := if prepared then touchCreate s r else s
    if !prepared then answer s 2
    else if !createOk s r then answer s 3
    else if createBusy s r then answer s 1
    else
      let id := freeCtx s
      let c : Context :=
        { id := id, dev := r.fn, pdead := if opNat r 1 == 0 then 200000 else opNat r 1, fairt := if opNat r 2 == 0 then 2048 else opNat r 2,
          faultQ := opNat r 3, serviceQ := if opNat r 4 == 0 then none else some (opNat r 4), saveBase := opNat r 5, saveSize := opNat r 6,
          images := [], ptes := [], pteErr := [], unified := [], moving := [], barred := [], dying := false, unanswered := [], planted := [], wlCap := 0,
          wlBase := 0, lists := [], wlLaunch := none }
      let addQueue (s : State) (e : Nat × List Byte) : State :=
        let at_ := opNat r 7 + 32 * e.1
        let s := mpWrite s dev (at_ + 12) (leBytes 4 0)
        modDev s dev fun d => { d with queues := kset d.queues (leAt e.2 0x0A 2) (newQueue id at_ e.2) }
      let descs := (List.range (opNat r 8)).map fun i => (i, descBytes s dev (opNat r 7) i)
      let s := descs.foldl addQueue s
      let s := mpWrite s dev (opNat r 3 + 12) (leBytes 4 0)
      let s := if opNat r 4 == 0 then s else mpWrite s dev (opNat r 4 + 12) (leBytes 4 0)
      let s := { s with contexts := kset s.contexts id c, mode := if dev == 0 then 1 else 2 }
      .next (respond s 0 (leBytes 8 id))

/-! ## DESTROY_CONTEXT (R388, R380) -/

/-- The launches of a context. -/
def ctxLaunches (s : State) (ctx : Nat) : List Nat := ((s.launches.map (·.2)).filter (·.ctx == ctx)).map (·.uid)

/-- The context with its queues, launches, saved teams and cached translations is gone; without contexts the package holds no mode. -/
def eraseContext (s : State) (c : Context) : State :=
  let ls := ctxLaunches s c.id
  let s := dropCached s c.id fun _ => true
  let s := modDev s c.dev.val fun d => { d with queues := d.queues.filter fun q => q.2.ctx != c.id }
  let rest := kdel s.contexts c.id
  { s with contexts := rest, launches := s.launches.filter (fun l => !ls.contains l.1),
           saved := s.saved.filter (fun e => !ls.contains e.2.1.launch), mode := if rest.isEmpty then 0 else s.mode }

/-- DESTROY_CONTEXT (R388): resident teams are saved first, then the images are discarded. -/
def execDestroyContext (s : State) : Result :=
  onContext s fun _ c =>
    let ls := ctxLaunches s c.id
    let teams := (s.teams.map (·.2)).filter fun t => ls.contains t.launch
    if teams.isEmpty then .next (respond (eraseContext s c) 0 [])
    else
      let ask (s : State) (t : Team) : State := if t.askable then raiseReq s t.uid 2 else s
      stall (teams.foldl ask (modCtx s c.id fun c => { c with dying := true }))

/-! ## Shootdowns (R313) -/

/-- Accesses of a context to `[lo, hi)` that were translated and are not performed. -/
def shootBusy (s : State) (ctx lo hi : Nat) : Bool :=
  (s.crews.map (·.2)).any fun c => crewCtx s c == ctx &&
    (c.loads.any (fun l => (match l.space with | .scratch _ => false | _ => true) && l.lanes.any fun e => overlaps e.va.toNat l.width lo (hi - lo)) ||
     c.storeQ.any fun e => e.space == .global && e.lanes.any fun x => overlaps x.va.toNat e.width lo (hi - lo))

/-- The buffered contributions of a context to `[lo, hi)` are performed (R313, R199). -/
def shootBuffers (s : State) (ctx lo hi : Nat) : State :=
  let hit (e : BufEntry) : Bool := inCtx s ctx e.crew && lo ≤ e.va.toNat && e.va.toNat < hi
  let all := (s.cores.map (·.2)).flatMap fun co => (co.bufs.toList.flatten).filter hit
  let clear (e : Nat × CoreSt) : Nat × CoreSt := (e.1, { e.2 with bufs := e.2.bufs.map fun b => b.filter fun x => !hit x })
  let s := { s with cores := s.cores.map clear }
  (drainOrder s all).foldl drainEntry s

/-- The buffered contributions of saved teams of a context to `[lo, hi)` are performed, as their crews would: the memory processor reads them from the image
and writes it back without them. -/
def shootSaved (s : State) (ctx lo hi : Nat) : State :=
  let hit (e : BufEntry) : Bool := lo ≤ e.va.toNat && e.va.toNat < hi
  let one (s : State) (e : Nat × Team × List Crew × List CoreSt) : State :=
    let (uid, t, crews, cores) := e
    match launchOf s t.launch with
    | none => s
    | some l =>
      if l.ctx != ctx || !(cores.any fun co => co.bufs.toList.flatten.any hit) then s
      else
        let (s, t, crews, cores) := readImage s l t crews cores
        let es := (cores.flatMap fun co => co.bufs.toList.flatten).filter hit
        let back := s.crews
        let s := crews.foldl (fun s c => putCrew s c.uid c) (putTeam s uid t)
        let s := (drainOrder s es).foldl drainEntry s
        let cores := cores.map fun co => { co with bufs := co.bufs.map fun b => b.filter fun x => !hit x }
        let t := (teamOf s uid).getD t
        mpWrite { s with teams := kdel s.teams uid, crews := back, saved := kset s.saved uid (t, crews, cores) } l.dev.val t.image (teamImage t l crews cores)
  s.saved.foldl one s

/-- What the crews of a context have read early is gone (R313, R297). -/
def shootEarly (s : State) (ctx : Nat) : State :=
  { s with cores := s.cores.map fun e => (e.1, { e.2 with early := e.2.early.filter fun r => !inCtx s ctx r.crew }) }

/-- The cached translations of `[lo, hi)` are dropped, what was read early through them is forgotten, and buffered contributions are performed (R313). -/
def shootdown (s : State) (ctx lo hi : Nat) : State :=
  shootSaved (shootBuffers (shootEarly (dropCached s ctx fun e => overlaps (e.vp * 2 ^ e.shift) (2 ^ e.shift) lo (hi - lo)) ctx) ctx lo hi) ctx lo hi

/-! ## Page tables (R308, R309, R312) -/

/-- The table entries above a leaf of `level` are present. -/
def putTables (m : KMap W64) (ctx va level : Nat) : KMap W64 :=
  [4, 3, 2, 1].foldl (fun m l =>
    if l ≤ level || pteV (kgetD m (pteKey l va) 0) then m
    else kset m (pteKey l va) (mkPte false false false false false false (Config.tableFrame ctx (l - 1) (va / 2 ^ levelShift l)))) m

/-- The permissions of a request: [0] R, [1] W, [2] X, [4:3] the page size, [5] U (log 27). -/
structure MapPerm where
  r : Bool
  w : Bool
  x : Bool
  size : Nat
  u : Bool
  deriving DecidableEq, Repr

/-- The permissions in an operand. -/
def mapPerm (v : W64) : MapPerm :=
  { r := v.getLsbD 0, w := v.getLsbD 1, x := v.getLsbD 2, size := bitsOf v 4 3, u := v.getLsbD 5 }

/-- The page-size shift of a size code: 4 KiB, 64 KiB, 2 MiB, 1 GiB. -/
def sizeShift (n : Nat) : Nat := if n == 0 then 12 else if n == 1 then 16 else if n == 2 then 21 else 30

/-- The level whose leaves have a page size. -/
def shiftLevel (shift : Nat) : Nat := if shift == 30 then 2 else if shift == 21 then 1 else 0

/-- One page is mapped; a 64 KiB page takes 16 entries. -/
def putPage (m : KMap W64) (ctx va shift frame : Nat) (p : MapPerm) : KMap W64 :=
  let level := shiftLevel shift
  let m := putTables m ctx va level
  if shift == 16 then
    (List.range 16).foldl (fun m j => kset m (pteKey 0 (va + 4096 * j)) (mkPte true p.r p.w p.x true p.u (frame + 4096 * j))) m
  else kset m (pteKey level va) (mkPte true p.r p.w p.x false p.u frame)

/-- A page may be mapped: no present leaf of another size lies at it, and no table below it. -/
def pageFree (m : KMap W64) (va shift : Nat) : Bool :=
  let level := shiftLevel shift
  (match leafAt m va with | some (_, sh, _) => sh == shift | none => true) &&
    (level == 0 || (match kget m (pteKey level va) with | some e => !pteV e || pteLeaf e | none => true)) &&
    (shift != 16 || (List.range 16).all fun j => match kget m (pteKey 0 (va + 4096 * j)) with | some e => !pteV e || pteC e | none => true)

/-- The pages of a range that stand in it as a whole; none where a page reaches beyond it. `fuel` counts 4 KiB pages. -/
def leavesIn (m : KMap W64) (hi : Nat) : Nat → Nat → Option (List (Nat × Nat))
  | 0, _ => some []
  | fuel + 1, va =>
    if hi ≤ va then some []
    else match leafAt m va with
      | none => leavesIn m hi fuel (va + 4096)
      | some (_, shift, _) =>
        if va % 2 ^ shift != 0 || hi < va + 2 ^ shift then none
        else (leavesIn m hi fuel (va + 2 ^ shift)).map ((va, shift) :: ·)

/-- Changes the entries of one page. -/
def modPage (m : KMap W64) (va shift : Nat) (f : W64 → W64) : KMap W64 :=
  if shift == 16 then (List.range 16).foldl (fun m j => kmod m (pteKey 0 (va + 4096 * j)) f) m else kmod m (pteKey (shiftLevel shift) va) f

/-- A range of a request: 4 KiB pages inside the 56-bit space (R308). -/
def rangeOk (va size : Nat) : Bool := va % 4096 == 0 && size % 4096 == 0 && size != 0 && va + size ≤ 2 ^ 56

/-- Ranges without `[lo, hi)`. -/
def cutRanges (lo hi : Nat) (l : List (Nat × Nat)) : List (Nat × Nat) :=
  (l.flatMap fun r => [(r.1, Nat.min r.2 lo), (Nat.max r.1 hi, r.2)]).filter fun r => r.1 < r.2

/-- The page that a record of `moving` names: address, page-size shift, old entry (R315). -/
def movingPage (e : Nat × W64) : Nat × Nat × W64 := (4096 * e.1, bitsOf e.2 63 52, e.2)

/-- The pages of a context under migration that meet `[lo, hi)`. -/
def movingIn (c : Context) (lo hi : Nat) : List (Nat × Nat × W64) :=
  (c.moving.map movingPage).filter fun p => overlaps p.1 (2 ^ p.2.1) lo (hi - lo)

/-- Such a page stands in the range as a whole. -/
def movingWhole (c : Context) (lo hi : Nat) : Bool := (movingIn c lo hi).all fun p => lo ≤ p.1 && p.1 + 2 ^ p.2.1 ≤ hi

/-- MAP (R312): context, address, size, frame, permissions. A range that meets a present page of another size is refused. A frame in no range
is refused, and the range is then one that cannot be mapped (R130, R292), until a MAP or UNMAP of it. -/
def execMapPages (s : State) : Result :=
  onContext s fun r c =>
    let va := opNat r 1
    let size := opNat r 2
    let frame := opNat r 3
    let p := mapPerm (r.op 4)
    let shift := sizeShift p.size
    let pages := (List.range (size / 2 ^ shift)).map fun i => 2 ^ shift * i
    if !rangeOk va size || va % 2 ^ shift != 0 || size % 2 ^ shift != 0 || frame % 2 ^ shift != 0 then answer s 3
    else if !inMap c.dev.val frame size then
      answer (modCtx s c.id fun c => { c with barred := (va, va + size) :: cutRanges va (va + size) c.barred }) 3
    else if !(pages.all fun o => pageFree c.ptes (va + o) shift) || (movingIn c va (va + size)).any (fun m => m.2.1 != shift) then answer s 2
    else
      let ptes := pages.foldl (fun m o => putPage m c.id (va + o) shift (frame + o) p) c.ptes
      let moving := c.moving.filter fun e => !(movingIn c va (va + size)).contains (movingPage e)
      answer (modCtx s c.id fun c => { c with ptes := ptes, moving := moving, barred := cutRanges va (va + size) c.barred }) 0

/-- UNMAP and PROTECT (R312, R313): the entries change, those of a page under migration in its record (R315), and the request completes once its shootdown
has. `keep` says whether such a page goes on migrating. -/
def changePages (s : State) (c : Context) (va size : Nat) (barred : List (Nat × Nat)) (keep : Bool) (f : W64 → W64) : Result :=
  if !rangeOk va size then answer s 3
  else if !movingWhole c va (va + size) then answer s 2
  else match leavesIn c.ptes (va + size) (size / 4096) va with
    | none => answer s 2
    | some pages =>
      let ptes := pages.foldl (fun m p => modPage m p.1 p.2 f) c.ptes
      let met := movingIn c va (va + size)
      let moving := (c.moving.filter fun e => keep || !met.contains (movingPage e)).map fun e => if met.contains (movingPage e) then (e.1, f e.2) else e
      let s := shootdown (modCtx s c.id fun c => { c with ptes := ptes, moving := moving, barred := barred }) c.id va (va + size)
      if shootBusy s c.id va (va + size) then stall s else answer s 0

/-- UNMAP (R312): context, address, size. A page under migration migrates no further. -/
def execUnmapPages (s : State) : Result :=
  onContext s fun r c =>
    changePages s c (opNat r 1) (opNat r 2) (cutRanges (opNat r 1) (opNat r 1 + opNat r 2) c.barred) false fun _ => 0

/-- PROTECT (R312): context, address, size, permissions. -/
def execProtectPages (s : State) : Result :=
  onContext s fun r c =>
    let p := mapPerm (r.op 3)
    let bits := w64 (4 * flag p.r + 8 * flag p.w + 16 * flag p.x)
    changePages s c (opNat r 1) (opNat r 2) c.barred true fun e => (e &&& ~~~ 0x1C#64) ||| bits

/-- RESOLVE (R320): context, address of the page, 1 MAPPED or 0 REFUSED. -/
def execResolvePage (s : State) : Result :=
  onContext s fun r c =>
    if 1 < opNat r 2 || 2 ^ 56 ≤ opNat r 1 then answer s 3 else answer (answerAll s c.id (opNat r 1 / 4096) (opNat r 2 == 1)) 0

/-- TRANSLATE (R312): context, address; the physical address, and [0] present, [1] R, [2] W, [3] X. -/
def execTranslatePage (s : State) : Result :=
  onContext s fun r c =>
    let va := opNat r 1
    if 2 ^ 56 ≤ va then answer s 3
    else match walkFrom s (devDie r.fn.val) c.id va 4 with
      | (s, .present leaf shift) => .next (respond s 0 (leBytes 8 (leafPa leaf shift va) ++ leBytes 8 (1 + 2 * bitsOf leaf 4 2)))
      | (s, _) => .next (respond s 0 (leBytes 16 0))

/-! ## Migration (R315, R321) -/

/-- A frame of `n` pages of 4 KiB holds one of a retired row (R374). -/
def frameRetired (s : State) (dev pa n : Nat) : Bool :=
  (List.range n).any fun i => match homeKey dev (pa + 4096 * i) with | some k => s.retired.contains (k / 4096) | none => false

/-- A frame for a page of `2 ^ shift` bytes: in the map, aligned, on no retired row. -/
def frameFits (s : State) (dev frame shift : Nat) : Bool :=
  frame % 2 ^ shift == 0 && inMap dev frame (2 ^ shift) && !frameRetired s dev frame (2 ^ shift / 4096)

/-- The first turn of a migration (R315): V = 0 and the shootdown. -/
def startMove (s : State) (ctx a shift : Nat) (leaf : W64) : State :=
  let s := modCtx s ctx fun c =>
    { c with ptes := modPage c.ptes a shift fun _ => 0, moving := kset c.moving (a / 4096) (leaf ||| w64 (shift * 2 ^ 52)) }
  shootdown s ctx a (a + 2 ^ shift)

/-- The pages of a context that stand on some frames: virtual address, page-size shift, entry. -/
def pagesOn (c : Context) (frames : List Nat) : List (Nat × Nat × W64) :=
  c.ptes.filterMap fun e =>
    let level := e.1 / 2 ^ 44
    let va := e.1 % 2 ^ 44 * 2 ^ levelShift level
    match leafAt c.ptes va with
    | some (l, shift, leaf) =>
      let base := leafPa leaf shift (va / 2 ^ shift * 2 ^ shift)
      let hit := (List.range (2 ^ shift / 4096)).any fun i => match homeKey c.dev.val (base + 4096 * i) with
        | some k => frames.contains (k / 4096)
        | none => false
      if l == level && va % 2 ^ shift == 0 && hit then some (va, shift, leaf) else none
    | none => none

/-- The pages of one retired row (R374): unified ones begin to migrate (R315), the others are journalled (kind 24, code 2). -/
def retireRow (s : State) (w : Nat × Nat × Nat) : State :=
  let frames := Config.rowFrames w.2.2
  let page (c : Context) (s : State) (p : Nat × Nat × W64) : State :=
    if p.2.2.getLsbD 6 && inUnified c (p.1 / 4096) then startMove s c.id p.1 p.2.1 p.2.2
    else journalEvent s c.dev.val 24 2 w.2.1 (leafPa p.2.2 p.2.1 p.1)
  (s.contexts.map (·.2)).foldl (fun s c => (pagesOn c frames).foldl (page c) s) s

/-- The rows that wait for the memory processor (R374); those of a die that a fatal error has stopped go on waiting (R377). -/
def retireRows (s : State) : State :=
  let go (w : Nat × Nat × Nat) : Bool := s.stopped != 3 && !s.stopped.getLsbD w.2.1
  if s.rowWork.any go then (s.rowWork.filter go).foldl retireRow { s with rowWork := s.rowWork.filter fun w => !go w } else s

/-- PAGE_MIGRATION (R315): a page of a unified range moves to another frame, in two turns. The first writes V = 0 and begins the shootdown;
the second, once the shootdown is complete, copies the page, writes the new entry and answers the records. -/
def execPageMigration (ctx : Nat) (va frame : W64) (s : State) : Result :=
  match ctxOf s ctx with
  | none => stall s
  | some c =>
    let a := va.toNat / 4096 * 4096
    match kget c.moving (a / 4096) with
    | none => match leafAt c.ptes a with
      | none => stall s
      | some (_, shift, leaf) =>
        let lo := a / 2 ^ shift * 2 ^ shift
        if a != lo || !leaf.getLsbD 6 || !inUnified c (a / 4096) || !frameFits s c.dev.val frame.toNat shift then stall s
        else .next (startMove s ctx a shift leaf)
    | some m =>
      let shift := bitsOf m 63 52
      if shootBusy s ctx a (a + 2 ^ shift) || !frameFits s c.dev.val frame.toNat shift then stall s
      else
        let old := leafPa m shift a
        let s := copySectors s c.dev.val old frame.toNat (2 ^ shift / 32)
        let p : MapPerm := { r := m.getLsbD 2, w := m.getLsbD 3, x := m.getLsbD 4, size := 0, u := true }
        let s := modCtx s ctx fun c => { c with ptes := putPage c.ptes ctx a shift frame.toNat p, moving := kdel c.moving (a / 4096) }
        .next ((List.range (2 ^ shift / 4096)).foldl (fun s i => answerAll s ctx (a / 4096 + i) true) s)

/-- UNIFIED_RANGE_FAULT_ANSWER (R315, R321): the memory processor places a missing page of a unified range, with permissions that the manual
does not give (log 10), and answers its records. -/
def execUnifiedRangeFaultAnswer (ctx : Nat) (va frame : W64) (s : State) : Result :=
  match ctxOf s ctx with
  | none => stall s
  | some c =>
    let a := va.toNat / 4096 * 4096
    if !inUnified c (a / 4096) || !c.unanswered.contains (a / 4096) || !(movingIn c a (a + 1)).isEmpty ||
        !frameFits s c.dev.val frame.toNat 12 then stall s
    else if (leafAt c.ptes a).isSome then .next (answerAll s ctx (a / 4096) true)
    else
      let (s, n) := takeFree s
      let p : MapPerm := { r := n % 2 == 1, w := n / 2 % 2 == 1, x := n / 4 % 2 == 1, size := 0, u := true }
      .next (answerAll (modCtx s ctx fun c => { c with ptes := putPage c.ptes ctx a 12 frame.toNat p }) ctx (a / 4096) true)

/-- CONS_ADVANCE (R322, R335): system software gives ring entries free. -/
def execConsAdvance (ctx : Nat) (service : Bool) (cons : W32) (s : State) : Result :=
  match ctxOf s ctx with
  | none => stall s
  | some c => match if service then c.serviceQ else some c.faultQ with
    | none => stall s
    | some cb => .next (mpWrite s c.dev.val (cb + 16) (leBytes 4 cons.toNat))

/-! ## Answers to crews (R335) -/

/-- A waiting SYSC of a tag takes its answer. -/
def answerAwait (tag : Nat) (v : W64) (a : Await) : Await := match a with | .sysc t none => if t == tag then .sysc t (some v) else a | _ => a

/-- A crew with the answer, in its stream or in what a trap has frozen. -/
def answerSysc (tag : Nat) (v : W64) (c : Crew) : Crew :=
  { c with await := answerAwait tag v c.await, frozen := c.frozen.map fun f => { f with await := answerAwait tag v f.await } }

/-- A crew waits for a tag. -/
def awaitsTag (tag : Nat) (c : Crew) : Bool :=
  let is (a : Await) : Bool := match a with | .sysc t none => t == tag | _ => false
  is c.await || (match c.frozen with | some f => is f.await | none => false)

/-- RESPOND (R335): tag, value; the crew may be saved. DESIGN CHOICE (log 89): a tag for which no crew waits answers STATUS 3. -/
def execRespondReq (s : State) : Result :=
  onRequest s fun r =>
    let tag := opNat r 0
    let v := r.op 1
    if s.crews.any (fun c => awaitsTag tag c.2) || s.saved.any (fun e => e.2.2.1.any (awaitsTag tag)) then
      let crews := s.crews.map fun (c : Nat × Crew) => (c.1, answerSysc tag v c.2)
      let saved := s.saved.map fun (e : Nat × Team × List Crew × List CoreSt) => (e.1, e.2.1, e.2.2.1.map (answerSysc tag v), e.2.2.2)
      answer { s with crews := crews, saved := saved } 0
    else answer s 3

/-! ## Debugging (R336, R337) -/

/-- A leaf of a page table maps a physical address; the key tells the leaf's level. -/
def leafCovers (pa : Nat) (e : Nat × W64) : Bool :=
  let shift := levelShift (e.1 / 2 ^ 44)
  pteV e.2 && pteLeaf e.2 && pteFrame e.2 / 2 ^ shift == pa / 2 ^ shift

/-- Where the scalar word of an object stands in memory. -/
structure CodePlace where
  va    : Nat
  shift : Nat
  leaf  : W64
  deriving DecidableEq, Repr

/-- Its physical address. -/
def CodePlace.pa (p : CodePlace) : Nat := leafPa p.leaf p.shift p.va

/-- The place of a scalar word of an object that the context has launched. -/
def codeWordAt (s : State) (c : Context) (obj idx : Nat) : Option CodePlace :=
  match (s.launches.map (·.2)).find? fun (l : Launch) => l.ctx == c.id && l.handle == obj && idx < l.scode.length && !l.translated with
  | none => none
  | some l =>
    let va := (l.sBase + w64 (4 * idx)).toNat
    (leafAt c.ptes va).map fun e => { va := va, shift := e.2.1, leaf := e.2.2 }

/-- Another context maps the page of a word (R337). -/
def sharedPage (s : State) (c : Context) (p : CodePlace) : Bool :=
  s.contexts.any fun k => k.1 != c.id && k.2.dev == c.dev && k.2.ptes.any (leafCovers p.pa)

/-- The frame that the memory processor takes for a copy (R337): any page of the device's own HBM4E that no retired row holds (log 28). -/
def newFrame (s : State) (dev shift : Nat) : State × Nat :=
  let (s, n) := takeFree s
  let at_ (i : Nat) : Nat := (n + i) % ((if dev == 0 then 0xC000000000 else 0x6000000000) / 2 ^ shift) * 2 ^ shift
  (s, at_ (((List.range (s.retired.length + 1)).find? fun i => !frameRetired s dev (at_ i) (2 ^ shift / 4096)).getD 0))

/-- The word as the object holds it: the one that stood there before any PLANT. -/
def originalWord (s : State) (c : Context) (obj idx : Nat) : W32 :=
  match (s.launches.map (·.2)).find? fun (l : Launch) => l.ctx == c.id && l.handle == obj with
  | some l => (((c.planted.find? (plantedAt c l idx)).map Planted.old).or l.scode[idx]?).getD 0
  | none => ((c.planted.find? fun p => p.obj == obj && p.idx == idx).map Planted.old).getD 0

/-- The page of a planted word is the context's own, with no access under way through an old translation (R337, steps 1 and 2): a page of code that another
context maps is copied to a new frame and remapped, with a shootdown. -/
def ownPage (s : State) (c : Context) (p : CodePlace) : State × Bool :=
  let base := p.va / 2 ^ p.shift * 2 ^ p.shift
  let busy (s : State) : Bool := shootBusy s c.id base (base + 2 ^ p.shift)
  if !sharedPage s c p then (s, !busy s)
  else
    let (s, frame) := newFrame s c.dev.val p.shift
    let s := copySectors s c.dev.val (leafPa p.leaf p.shift base) frame (2 ^ p.shift / 32)
    let perm : MapPerm := { r := p.leaf.getLsbD 2, w := p.leaf.getLsbD 3, x := p.leaf.getLsbD 4, size := 0, u := p.leaf.getLsbD 6 }
    let s := shootdown (modCtx s c.id fun c => { c with ptes := putPage c.ptes c.id base p.shift frame perm }) c.id base (base + 2 ^ p.shift)
    (s, !busy s)

/-- A word of code is written (R337, step 3): in the context's page, and in what its launches fetch. -/
def plantWord (s : State) (c : Context) (obj idx : Nat) (w : W32) : Result :=
  let old := originalWord s c obj idx
  let note (s : State) (va : Nat) : State := modCtx s c.id fun c =>
    { c with planted := { obj := obj, idx := idx, va := va, word := w, old := old } ::
        c.planted.filter fun q => !(q.obj == obj && q.idx == idx) && !(va < 2 ^ 56 && q.va == va) }
  match codeWordAt s c obj idx with
  | none => answer (note s (2 ^ 56)) 0
  | some p => match ownPage s c p with
    | (s, false) => stall s
    | (s, true) =>
      let pa := match (ctxOf s c.id).bind fun c => codeWordAt s c obj idx with | some p => p.pa | none => p.pa
      answer (note (mpWrite s c.dev.val pa (leBytes 4 w.toNat)) p.va) 0

/-- PLANT (R337): context, object, word index, word. Only the debugged context sees the word. -/
def execPlantWord (s : State) : Result := onContext s fun r c => plantWord s c (opNat r 1) (opNat r 2) ((r.op 3).truncate 32)

/-- UNPLANT (R337): the copy's word is restored. -/
def execUnplantWord (s : State) : Result :=
  onContext s fun r c =>
    let obj := opNat r 1
    let idx := opNat r 2
    if c.planted.any fun q => q.obj == obj && q.idx == idx then plantWord s c obj idx (originalWord s c obj idx) else answer s 0

/-- DEBUG (R336): comparator [3:0], core [13:8] and die [16] in the first operand, the value in the second; the response holds the value
that stood before. Reserved bits are not written. -/
def execDebugReq (s : State) : Result :=
  onRequest s fun r =>
    let x := r.op 0
    let n := bitsOf x 3 0
    let core := bitsOf x 13 8
    let die := bitsOf x 16 16
    if 40 ≤ core || !(fnDies r.fn.val).contains die || bitsOf x 7 4 != 0 || bitsOf x 15 14 != 0 || bitsOf x 63 17 != 0 then answer s 3
    else
      let old := vget (coreAt s die core).bpc n 0
      .next (respond (modCore s die core fun co => { co with bpc := vset co.bpc n (w64 (bitsOf (r.op 1) 51 0)) }) 0 (leBytes 8 old.toNat))

/-! ## Attestation, firmware, power (R376, R392, R393, R395) -/

/-- The first 256 bytes of a report (R393). -/
def reportHead (s : State) (nonce : List Byte) : List Byte :=
  let active := if s.fwActive.isEmpty then Config.bootActive else s.fwActive
  let staged := if s.fwStaged.isEmpty then Config.bootOther else s.fwStaged
  leBytes 4 0x4E5A5254 ++ leBytes 4 2676 ++ nonce ++ padBytes 32 Config.identityDigest ++ padBytes 32 active ++ padBytes 32 staged ++
    ((List.range 8).flatMap fun n => leBytes 8 (featOf n).toNat) ++ leBytes 8 s.reftime ++ leBytes 1 s.mode ++ leBytes 47 0

/-- ATTEST (R393): nonce address, report address. -/
def execAttest (s : State) : Result :=
  onRequest s fun r =>
    let dev := r.fn.val
    if !inMap dev (opNat r 0) 32 || !inMap dev (opNat r 1) 2676 then answer s 3
    else
      let (s, nonce) := mpFetch s dev (opNat r 0) 32
      let head := reportHead s nonce
      answer (mpWrite s dev (opNat r 1) (head ++ padBytes 2420 (Config.identitySign (sha3 head)))) 0

/-- FW_STAGE (R392): image address, size; an image that does not verify is refused and enters no slot, one shorter than its signature among them. -/
def execFwStage (s : State) : Result :=
  onRequest s fun r =>
    let dev := r.fn.val
    let size := opNat r 1
    if !inMap dev (opNat r 0) size then answer s 3
    else
      let s := mpTouch s dev (opNat r 0) size
      let image := mpBlock s dev (opNat r 0) size
      if 2420 ≤ size && Config.firmwareVerifies image then answer { s with fwStaged := sha3 (image.take (size - 2420)) } 0 else answer s 2

/-- A command is being accepted (R376): an acceptance has begun to read, or waits for a page. -/
def accepting (s : State) : Bool := (List.range 3).any fun dev => (devOf s dev).queues.any fun q => !q.2.got.isEmpty || !q.2.waits.isEmpty

/-- FW_ACTIVATE (R376): at a moment when no command is being accepted, the switch to the staged image, or its refusal by the start check, whose outcome is open
(log 10). -/
def execFwActivate (s : State) : Result :=
  onRequest s fun r =>
    if s.fwStaged.isEmpty then answer s 2
    else if accepting s then stall s
    else
      let (s, n) := takeFree s
      let dev := r.fn.val
      if n % 2 == 1 then
        let active := if s.fwActive.isEmpty then Config.bootActive else s.fwActive
        answer (journalEvent { s with fwActive := s.fwStaged, fwStaged := active } dev 25 1 (devDie dev) 0) 0
      else answer (journalEvent s dev 25 2 (devDie dev) 0) 0

/-- PWRCAP (R395): 1,500 to 3,400 W. -/
def execPwrcap (s : State) : Result :=
  onRequest s fun r =>
    let w := opNat r 0
    if 1500 ≤ w && w ≤ 3400 then answer { s with cap := w } 0 else answer s 3

/-- MALFORMED_MAILBOX_REQUEST (R387): STATUS 3. -/
def execMalformedMailboxRequest (s : State) : Result := onRequest s fun _ => answer s 3

end Sys2Proof.Machine
end

