-- ==== Sys2Proof/Machine/Gangs.lean ====
section
/-!
DEFINITION. The fabric's mailbox requests: FABRIC_CONFIG (R397), GANG_ARM and GANG_START (R420); the gang exchange (R421, R422).
-/

namespace Sys2Proof.Machine

/-- FABRIC_CONFIG (R397). -/
def execFabricConfig (s : State) : Result :=
  onRequest s fun r =>
    let dev := r.fn.val
    match fabricStructs r with
    | none => answer s 3
    | some at_ =>
      let o := fabricOps s r
      let s := at_.foldl (fun s e => mpTouch s dev e.1 e.2) s
      if !fabricOpsOk (fabricOf s dev) dev o then answer s 3
      else if fabricBusy (fabricOf s dev) then answer s 1
      else answer (modFabric s dev fun f => f.configure o s.reftime) 0

/-! ## Records -/

/-- The INDEX of a gang launch's entries (R420). -/
def gangIndex : Nat := 0xFFFFFFFF

/-- A gang of a device. -/
def gangOf (s : State) (dev g : Nat) : Option Gang := kget (fabricOf s dev).gangs g
/-- Changes a gang. -/
def modGang (s : State) (dev g : Nat) (h : Gang → Gang) : State := modFabric s dev fun f => { f with gangs := kmod f.gangs g h }

/-- The journal's entry of a gang launch (R341): no command, so no digest. -/
def gangEntry (s : State) (l : Launch) (kind code detail : Nat) : State :=
  journal s l.dev.val { kind := kind, code := code, queue := l.queue, die := devDie l.dev.val, index := gangIndex, digest := noDigest, detail := detail }

/-- The numbers in `Sent` of the gang's messages. -/
def sentPrepare : Nat := 32
def sentReady : Nat := 33
def sentNotReady : Nat := 34
def sentStart : Nat := 35
def sentStartAck : Nat := 36
def sentCancel : Nat := 37
def sentGangAbort : Nat := 38
def sentAbsent : Nat := 39

/-- Sends a message of a gang to several devices; `m` is the sender, or the absent device. -/
def tellGang (s : State) (dev g kind m : Nat) (to_ : List Nat) : State :=
  to_.foldl (fun s d => sendMsg s d kind (.gang (devFin dev) g m)) s

/-- The members of a gang besides the device. -/
def Gang.others (g : Gang) (devid : Nat) : List Nat := g.members.filter (· != devid)

/-! ## Arming (R420) -/

/-- A gang id is in use until its gang is closed. -/
def gangBusy (s : State) (dev g : Nat) : Bool := match gangOf s dev g with | some x => x.st != .closed | none => false

/-- A GANG_ARM is over: what its acceptance has read is forgotten. -/
def endArm (s : State) (dev q : Nat) : State := modQueue s dev q fun k => { k with got := k.got.filter (!·.1) }

/-- GANG_ARM (R420): gang id, launch record, queue. The response of a failed check carries its number. -/
def execGangArm (s : State) : Result :=
  onRequest s fun r =>
    let dev := r.fn.val
    let g := opNat r 0
    let q := opNat r 2
    if (queueOf s dev q).isNone || !inMap dev (opNat r 1) 128 then answer s 3
    else if gangBusy s dev g then answer s 1
    else match armChecks s dev q (r.op 1) with
      | .hold s => stall s
      | .reject s reason _ => .next (respond (endArm s dev q) 2 (leBytes 8 reason))
      | .ok s x => match copySections s dev q x.obj x.record with
        | .hold s => stall s
        | .reject s reason _ => .next (respond (endArm s dev q) 2 (leBytes 8 reason))
        | .ok s _ =>
          let (s, uid) := addLaunch (endArm s dev q) r.fn q gangIndex (r.op 1) x true (some g)
          let s := match launchOf s uid with | some l => gangEntry s l 1 0 (r.op 1).toNat | none => s
          let rec_ : Gang := { id := g, launch := uid, initiator := false, from_ := 0, st := .armed, members := [], ready := [], acked := [],
                               tolerant := false, gtmo := 0, since := 0 }
          answer (modFabric s dev fun f => { f with gangs := kset f.gangs g rec_ }) 0

/-! ## What a member does (R421, R422) -/

/-- An armed launch is dropped (R421). -/
def dropArmed (s : State) (dev g : Nat) : State :=
  match gangOf s dev g with
  | none => s
  | some x => modGang { s with launches := kdel s.launches x.launch } dev g fun x => { x with st := .closed }

/-- CANCEL: the armed launch is dropped, journalled as rejected with reason 10 (R346, R421). -/
def cancelGang (s : State) (dev g : Nat) : State :=
  match gangOf s dev g with
  | none => s
  | some x =>
    let s := match launchOf s x.launch with | some l => gangEntry s l 3 10 0 | none => s
    dropArmed s dev g

/-- START: the launch joins the distributor. -/
def startGang (s : State) (dev g : Nat) : State :=
  match gangOf s dev g with
  | none => s
  | some x => callDistributor (modLaunch s x.launch fun l => { l with armed := false }) dev

/-- A crew of an aborted gang halts without an entry of its own. -/
def Crew.quietHalt (c : Crew) : Crew :=
  if !c.alive then c
  else
    { c with st := .halted 0, cc := c.cc.map Counter.disarm, firing := [], loads := [], trapping := none, mma := none, held := [], await := .none,
             reply := [] }

/-- A resident team of an aborted gang fails with code 6. -/
def abortTeam (s : State) (t : Team) : State :=
  let s := (teamCrews s t.uid).foldl (fun s c => putCrew s c.uid c.quietHalt) s
  endTeamIf (modTeam s t.uid fun t => t.abandon.fail s.reftime 6 0 0) t.uid

/-- ABORT of a started gang (R421): no further team, resident crews halt, teams never placed count as failed. -/
def abortLaunch (s : State) (uid : Nat) : State :=
  match launchOf s uid with
  | none => s
  | some l =>
    let left := (l.back.filter (·.run == .original)).length + (l.record.grid - l.next)
    let gone := s.saved.filter fun e => e.2.1.launch == uid
    let s := gone.foldl (fun s e => freeImage s l.ctx e.2.1.image) { s with saved := s.saved.filter fun e => e.2.1.launch != uid }
    let s := putLaunch s uid { l with aborted := true, next := l.record.grid, back := [], audits := [], failed := l.failed + left }
    completeLaunch ((launchTeams s uid).foldl abortTeam s) uid

/-- A member receives ABORT: before START it drops the armed launch. -/
def abortGang (s : State) (dev g : Nat) : State :=
  match gangOf s dev g with
  | none => s
  | some x =>
    if x.st == .closed then s
    else match launchOf s x.launch with
      | none => s
      | some l => if l.armed then dropArmed s dev g else modGang (abortLaunch s x.launch) dev g fun x => { x with st := .closed }

/-- A device is absent for a gang (R422): for the open windows of its launch, and for those it opens later. -/
def absentGang (s : State) (dev g m : Nat) : State :=
  match gangOf s dev g with
  | none => s
  | some x => absentFor (modLaunch s x.launch fun l => { l with absent := if l.absent.contains m then l.absent else m :: l.absent }) dev x.launch m

/-! ## The initiator (R421) -/

/-- The member ids that GANG_START names. -/
def gangList (s : State) (dev at_ n : Nat) : List Nat := (List.range n).map fun i => mpNat s dev (at_ + 2 * i) 2

/-- Every member has answered READY: START is sent, and the initiator's own teams are placed. -/
def goIfReady (s : State) (dev g : Nat) : State :=
  match gangOf s dev g with
  | none => s
  | some x =>
    let me := (fabricOf s dev).devid
    if x.st == .preparing && (x.others me).all x.ready.contains then
      let s := tellGang s dev g sentStart me (x.others me)
      startGang (modGang s dev g fun x => { x with st := .starting, since := s.reftime, acked := [] }) dev g
    else s

/-- Every START-ACK has arrived: the gang runs (kind 37). -/
def runIfAcked (s : State) (dev g : Nat) : State :=
  match gangOf s dev g with
  | none => s
  | some x =>
    if x.st == .starting && (x.others (fabricOf s dev).devid).all x.acked.contains then
      journalEvent (modGang s dev g fun x => { x with st := .running }) dev 37 0 (devDie dev) g
    else s

/-- A gang without other members starts at once. -/
def settleGang (s : State) (dev g : Nat) : State := runIfAcked (goIfReady s dev g) dev g

/-- GANG_START (R420): gang id, list of members, count, mode, GTMO. -/
def execGangStart (s : State) : Result :=
  onRequest s fun r =>
    let dev := r.fn.val
    let g := opNat r 0
    let n := opNat r 2
    if n < 2 || 1024 < n || 1 < opNat r 3 || opNat r 4 < 10 ^ 4 || 10 ^ 10 < opNat r 4 || !inMap dev (opNat r 1) (2 * n) then answer s 3
    else match gangOf s dev g with
      | none => answer s 2
      | some x =>
        if x.st != .armed then answer s 2
        else
          let ms := gangList s dev (opNat r 1) n
          let s := mpTouch s dev (opNat r 1) (2 * n)
          let s := modGang s dev g fun x =>
            { x with initiator := true, st := .preparing, members := ms, tolerant := opNat r 3 == 1, gtmo := opNat r 4, since := s.reftime }
          let me := (fabricOf s dev).devid
          let s := tellGang s dev g sentPrepare me (ms.filter (· != me))
          answer (settleGang s dev g) 0

/-- A gang message reaches a device; `f` gets the device, the gang's number and the member it names. -/
def onGang (s : State) (f : Nat → Nat → Nat → Result) : Result := match s.message with | .gang dev g m => f dev.val g m | _ => stall s

/-- The initiator of a gang in a given state receives a message. -/
def onInitiator (s : State) (st : GangSt) (f : Nat → Nat → Nat → State) : Result :=
  onGang s fun dev g m => match gangOf s dev g with
    | some x => if x.initiator && x.st == st then .next (f dev g m) else .next s
    | none => stall s

/-- PREPARE at a member (R421): READY when it holds the gang armed, at a further PREPARE too. -/
def execGangPrepare (s : State) : Result :=
  onGang s fun dev g m =>
    let me := (fabricOf s dev).devid
    match gangOf s dev g with
    | some x =>
      if x.st == .armed || (x.st == .preparing && !x.initiator) then
        .next (tellGang (modGang s dev g fun x => { x with from_ := m, st := .preparing }) dev g sentReady me [m])
      else .next (tellGang s dev g sentNotReady me [m])
    | none => .next (tellGang s dev g sentNotReady me [m])

/-- READY at the initiator. -/
def execGangReady (s : State) : Result :=
  onInitiator s .preparing fun dev g m => settleGang (modGang s dev g fun x => { x with ready := m :: x.ready.filter (· != m) }) dev g

/-- The initiator cancels a gang that cannot be prepared. -/
def giveUp (s : State) (dev g : Nat) : State :=
  match gangOf s dev g with
  | none => s
  | some x =>
    let me := (fabricOf s dev).devid
    cancelGang (tellGang s dev g sentCancel me (x.others me)) dev g

/-- NOTREADY at the initiator. -/
def execGangNotready (s : State) : Result := onInitiator s .preparing fun dev g _ => giveUp s dev g

/-- START at a member: it places teams and acknowledges. -/
def execGangStartMessage (s : State) : Result :=
  onGang s fun dev g m => match gangOf s dev g with
    | none => stall s
    | some x =>
      if x.initiator || x.st != .preparing then .next s
      else .next (tellGang (startGang (modGang s dev g fun x => { x with st := .running }) dev g) dev g sentStartAck (fabricOf s dev).devid [m])

/-- START-ACK at the initiator. -/
def execGangStartAck (s : State) : Result :=
  onInitiator s .starting fun dev g m => runIfAcked (modGang s dev g fun x => { x with acked := m :: x.acked.filter (· != m) }) dev g

/-- CANCEL at a member. -/
def execGangCancel (s : State) : Result :=
  onGang s fun dev g _ => match gangOf s dev g with
    | none => stall s
    | some x => if x.initiator || x.st == .running || x.st == .closed then .next s else .next (cancelGang s dev g)

/-- ABORT at a member. -/
def execGangAbort (s : State) : Result :=
  onGang s fun dev g _ => match gangOf s dev g with
    | none => stall s
    | some _ => .next (abortGang s dev g)

/-- ABSENT at a member. -/
def execGangAbsent (s : State) : Result :=
  onGang s fun dev g m => match gangOf s dev g with
    | none => stall s
    | some _ => .next (absentGang s dev g m)

/-- An acknowledgement is missing GTMO ticks after START: strict gangs abort, tolerant ones go on without the silent members. -/
def lateStart (s : State) (dev g : Nat) (x : Gang) : State :=
  let me := (fabricOf s dev).devid
  let silent := (x.others me).filter fun m => !x.acked.contains m
  if x.tolerant then
    let one (s : State) (m : Nat) : State :=
      let s := tellGang s dev g sentAbsent m ((x.others me).filter (· != m))
      absentGang (journalEvent s dev 39 0 (devDie dev) (m % 1024)) dev g m
    silent.foldl one (modGang s dev g fun x => { x with st := .running })
  else
    let s := tellGang s dev g sentGangAbort me (x.others me)
    abortGang (journalEvent s dev 38 0 (devDie dev) g) dev g

/-- GANG_TIMEOUT (R421). -/
def execGangTimeout (dev : Fin 3) (gang : Nat) (s : State) : Result :=
  match gangOf s dev.val gang with
  | none => stall s
  | some x =>
    if !x.initiator || s.reftime < x.since + x.gtmo then stall s
    else match x.st with
      | .preparing => .next (giveUp s dev.val gang)
      | .starting => .next (lateStart s dev.val gang x)
      | _ => stall s

end Sys2Proof.Machine
end

