-- ==== Sys2Proof/Machine/Matrix.lean ====
section
/-!
DEFINITION. The matrix engine (R185, R243 to R266): the M words, joint acceptance, and the completion of queue entries.
-/

namespace Sys2Proof.Machine

/-! ## Types and descriptors (R28, R89, R250, R251) -/

/-- The element format of an M type code; MXFP4 holds E2M1 and MXFP8 E4M3 elements. -/
def mxFmt (t : BitVec 4) : Fmt :=
  match t.toNat with
  | 1 => e5m2 | 2 => e2m1 | 5 => bf16 | 6 => fp16 | 7 => fp32 | _ => e4m3

/-- Bits of an operand element (R250). -/
def mxBits (t : BitVec 4) : Nat := if t == 2#4 then 4 else if t == 5#4 || t == 6#4 then 16 else 8

def tileRow0 (t : W64) : Nat := bitsOf t 11 0
def tileCol0 (t : W64) : Nat := bitsOf t 19 12
def tileRowCount (t : W64) : Nat := bitsOf t 32 20
def tileColCount (t : W64) : Nat := bitsOf t 42 33
def tileTy (t : W64) : Nat := bitsOf t 46 43
def tileKdir (t : W64) : Bool := t.getLsbD 47

/-- The A type carries block scales (R251). -/
def scaledA (w : MWord) : Bool := mxIsMx w.tyA
/-- Both types are MXFP4 (R71). -/
def bothFp4 (w : MWord) : Bool := w.tyA == 2#4 && w.tyB == 2#4

/-- The first failing check of R250 and R251 on an MXMMA's descriptors. -/
def descDetail (w : MWord) (rows : Nat) (t sc : W64) : Option Nat :=
  if tileRowCount t == 0 || tileColCount t == 0 || tileTy t != w.tyA.toNat then some 1
  else if rows < tileRow0 t + tileRowCount t || 2048 < 8 * tileCol0 t + tileColCount t * mxBits w.tyA then some 2
  else if scaledA w && (w.tA.val == 15 || tileCol0 sc != 0 || tileRowCount sc < (mxLen w + 127) / 128 ||
      rows < tileRow0 sc + tileRowCount sc) then some 3
  else none

/-- The checks of an image in the tile store (R262, R265) fail. -/
def imageBad (rows e : Nat) (t : W64) : Bool :=
  if e == 8 then rows < tileRow0 t + 128 || tileCol0 t != 0 else rows < tileRow0 t + 64 || 256 < tileCol0 t + 64 * e

/-- The valid-row count (R256). -/
def validRows (blk : Block) (vc : Fin 16) : Nat :=
  if vc.val == 0 then 64 else Nat.min 64 ((vget blk.snap (vc.val - 1) 0).toNat % 2 ^ 32)

/-! ## Reading operands (R252, R254) -/

/-- The capture key of bits of a vector register. -/
def regKey (reg lane off width : Nat) : Nat := ((reg * 64 + lane) * 32 + off) * 128 + width
/-- The capture key of bits of a tile-store row. -/
def tileKey (row bit width : Nat) : Nat := 2 ^ 40 + (row * 2048 + bit) * 128 + width

/-- Bits of a lane of a register now. -/
def regBits (c : Crew) (reg lane off width : Nat) : Nat := (laneGet (c.rv reg) lane).toNat / 2 ^ off % 2 ^ width

/-- Bits of a row of a team's tile store now, and whether they carry an error. -/
def tileBits (s : State) (t : Team) (idx row bit width : Nat) : Nat × Bool :=
  let (bs, bad) := tileRead s t idx (row * 256 + bit / 8) ((bit % 8 + width + 7) / 8)
  (leNat bs / 2 ^ (bit % 8) % 2 ^ width, bad)

/-- Bits of a B operand: as captured, or now. -/
def readReg (e : MxEntry) (c : Crew) (reg lane off width : Nat) : Nat :=
  match kget e.capture (regKey reg lane off width) with | some x => x.1 | none => regBits c reg lane off width

/-- Bits of an A operand, a scale or C. -/
def readTile (s : State) (t : Team) (idx : Nat) (e : MxEntry) (row bit width : Nat) : Nat × Bool :=
  (kget e.capture (tileKey row bit width)).getD (tileBits s t idx row bit width)

/-- B[k][16q + j] (R252). -/
def elemB (e : MxEntry) (c : Crew) (k j : Nat) : Nat :=
  let n := mxPerWord e.word.tyB
  let w := 32 / n
  readReg e c (e.word.vB.val + k / (4 * n)) (16 * (k % (4 * n) / n) + j) (k % n * w) w

/-- The scale of block `b` for column 16q + j (R252). -/
def scaleB (e : MxEntry) (c : Crew) (b j : Nat) : Nat :=
  readReg e c (e.word.vB.val + elemRegs e.word + b / 16) (16 * (b % 16 / 4) + j) (8 * (b % 4)) 8

/-- A[m][k] when it is valid (R250). -/
def elemA (s : State) (t : Team) (idx : Nat) (e : MxEntry) (m k : Nat) : Option (Nat × Bool) :=
  let d := e.tile
  let b := mxBits e.word.tyA
  let (r, col) := if tileKdir d then (k, m) else (m, k)
  if m < e.rows && r < tileRowCount d && col < tileColCount d then
    some (readTile s t idx e (tileRow0 d + r) (8 * tileCol0 d + col * b) b)
  else none

/-- The scale of block `b` for row m (R251). -/
def scaleA (s : State) (t : Team) (idx : Nat) (e : MxEntry) (b m : Nat) : Nat × Bool :=
  readTile s t idx e (tileRow0 e.scale + b / 4) (8 * (64 * (b % 4) + m)) 8

/-! ## Whole elements (R16, R187, R254): an element is read old or new, never in part -/

/-- The parts in which row m of a drain is written, first byte and length: 32-bit words, and in the tile store the aligned ones that the row touches
(R187, R264). -/
def MxEntry.parts (e : MxEntry) : List (Nat × Nat) :=
  let n := 64 * mxBytes (drainTy e.word)
  let lead := if e.word.dst == 0 then tileCol0 e.tile % 4 else 0
  (List.range ((lead + n + 3) / 4)).map fun i => (4 * i - lead, Nat.min n (4 * i + 4 - lead) - (4 * i - lead))

/-- A copy under way has written some of the bytes `[a, a + n)` of the tile store on team core `idx`, and not yet others that it writes there. -/
def CopyCmd.tears (k : CopyCmd) (idx a n : Nat) : Bool :=
  let meets (el : Nat) : Bool := overlaps (k.desc.tAt el) k.desc.esz a n
  usesTile k.kind k.desc && !(k.kind == 2 && k.desc.dir) && k.doneEl.any (fun e => e.1 == idx && meets e.2) &&
    (List.range (k.desc.rows * k.desc.cols)).any fun el => meets el && !k.doneEl.contains (idx, el)

/-- The first byte of row m of a drain in the tile store. -/
def MxEntry.rowAt (e : MxEntry) (m : Nat) : Nat :=
  256 * (tileRow0 e.tile + if mxBytes (drainTy e.word) == 8 then 2 * m else m) + tileCol0 e.tile

/-- So has a drain under way. -/
def MxEntry.tears (e : MxEntry) (a n : Nat) : Bool :=
  e.op == .drain && e.word.dst == 0 && e.drained.any fun r =>
    let ps := (indexed e.parts).filter fun p => overlaps (e.rowAt r.1 + p.2.1) p.2.2 a n
    ps.any (fun p => hasBit r.2 p.1) && !ps.all fun p => hasBit r.2 p.1

/-- Bits of a row of a team's tile store lie in more than one aligned 32-bit word, of which an engine has written one and not yet another. -/
def tileTorn (s : State) (t : Team) (idx row bit width : Nat) : Bool :=
  let a := row * 256 + bit / 8
  let n := (bit % 8 + width + 7) / 8
  a / 4 != (a + n - 1) / 4 &&
    (t.cores.any (fun c => (coreAt s t.die c).copyQ.any fun k => k.tears idx a n) ||
      (coreAt s t.die (t.coreOf idx)).quads.any fun q => q.queue.any fun e => e.tears a n)

/-! ## Issue (R244 to R247) -/

/-- The quadrant of a core. -/
def quadOf (s : State) (die core q : Nat) : Quad := vget (coreAt s die core).quads q Quad.reset
/-- Changes a quadrant. -/
def modQuad (s : State) (die core q : Nat) (f : Quad → Quad) : State :=
  modCore s die core fun co => { co with quads := vmod co.quads q f }

/-- The matrix crews of a crew's quad. -/
def quadCrews (s : State) (c : Crew) : List Crew := (teamCrews s c.team).filter fun k => k.core == c.core && k.kind == 2

/-- The checks of R244, then `f`. DESIGN CHOICE (log 83): a word that breaks a rule of its latch window raises LATCH before MXMISMATCH detail 2 is looked at. -/
def mxWord (i : Instr) (s : State) (f : State → LaneCx → Team → Launch → Result) : Result :=
  laneWord s i (fun _ _ => allLanes) fun s x =>
    if x.fr.owned != allLanes then x.raise s 0x08 2 0 allLanes 0
    else match teamOf s x.c.team, crewLaunch s x.c with
      | some t, some l => f s x t l
      | _, _ => .fault .noStream

/-- A queue entry of a word. -/
def mxEntry (id u : Nat) (op : MxOp) (w : MWord) (blk : Block) (soff : Nat) (capture : KMap (Nat × Bool)) : MxEntry :=
  { id := id, crew := u, op := op, word := w, tile := blk.tiles[w.tA.val], scale := vget blk.tiles (w.tA.val + 1) 0,
    rows := validRows blk w.vc, soff := soff, capture := capture, drained := [], failure := none }

/-- The early reads of the tile store; those of registers end with an MXFENCE and with acceptance (R254). -/
def tileReads (k : KMap (Nat × Bool)) : KMap (Nat × Bool) := k.filter fun e => 2 ^ 40 ≤ e.1

/-- A word that its quadrant's queue accepts at once, if it has room (R245). -/
def mxAccept (s : State) (x : LaneCx) (op : MxOp) (w : MWord) (soff : Nat) : Result :=
  let q := x.c.quadrant
  if x.c.laneAcquiring || !x.c.fencesClear false 0 x.blk.ord || 4 ≤ (quadOf s x.c.die x.c.core q).queue.length then stall s
  else
    let (s, id) := takeCmd s
    let s := modQuad s x.c.die x.c.core q fun d => { d with queue := d.queue ++ [mxEntry id x.u op w x.blk soff (tileReads x.c.capture)] }
    x.finish s (x.c.modCC w.cc.val fun k => k.join id)

/-- MXMMA (R246, R247): after its checks it waits at its word for joint acceptance. DESIGN CHOICE (log 83): the descriptor (R250, R251) is checked before
the quad's crews are looked at (MXMISMATCH detail 4). -/
def execMxmma (w : MWord) (s : State) : Result :=
  mxWord (.mxmma w) s fun s x _ l =>
    match descDetail w (tileRows l) (x.blk.tiles[w.tA.val]) (vget x.blk.tiles (w.tA.val + 1) 0) with
    | some d => x.raise s 0x02 d 0 allLanes 0
    | none =>
      if (quadCrews s x.c).any (fun k => k.uid != x.u && !k.alive) then x.raise (modCrew s x.u fun c => { c with mma := none }) 0x08 4 0 allLanes 0
      else if x.c.laneAcquiring || !x.c.fencesClear false 0 x.blk.ord then stall s
      else stall (modCrew s x.u fun c => { c with mma := some w })

/-- MXDRAIN (R261, R262). -/
def execMxdrain (w : MWord) (s : State) : Result :=
  mxWord (.mxdrain w) s fun s x _ l =>
    let e := mxBytes (drainTy w)
    if w.dst == 0 && imageBad (tileRows l) e (x.blk.tiles[w.tA.val]) then x.raise s 0x02 2 0 allLanes 0
    else if w.dst == 1 then
      let off := (vget x.blk.snap (w.sreg - 1) 0).toNat % 2 ^ 32
      if off % 4 != 0 then x.raise s 0x0A 0 0 allLanes (w64 off)
      else if scratchSize l < off + 4096 * e then x.raise s 0x0C 1 0 allLanes (w64 off)
      else mxAccept s x .drain w off
    else mxAccept s x .drain w 0

/-- MXZERO (R265). -/
def execMxzero (w : MWord) (s : State) : Result :=
  mxWord (.mxzero w) s fun s x _ l =>
    if !w.init && imageBad (tileRows l) (mxBytes w.tyC) (x.blk.tiles[w.tA.val]) then x.raise s 0x02 2 0 allLanes 0
    else mxAccept s x .zero w 0

/-- MXSTAT (R266). -/
def execMxstat (w : MWord) (s : State) : Result := mxWord (.mxstat w) s fun s x _ _ => mxAccept s x .stat w 0

/-- MXFENCE (R255): it waits for the register writes of the crew's lane words, then sets the fence flag. -/
def execMxfence (w : MWord) (s : State) : Result :=
  mxWord (.mxfence w) s fun s x _ _ =>
    if x.c.loads.any fun l => !l.scalar then stall s else x.finish s { x.c with fenceFlag := true, capture := tileReads x.c.capture }

/-! ## Joint acceptance (R246) -/

/-- The waiting MXMMA of a crew as a running lane word. -/
def mmaCx (s : State) (c : Crew) : Option (LaneCx × MWord) :=
  match c.mma, crewLaunch s c, c.laneQ.head?, c.div.frags.find? (fun f => f.2.owned == allLanes) with
  | some w, some l, some blk, some (n, fr) =>
    some ({ u := c.uid, c := c, slot := n, fr := fr, blk := blk, win := openWindow l fr.lpc, use := laneUse (.mxmma w),
            lset := allLanes, word := (laneWordAt l fr.lpc).getD 0 }, w)
  | _, _, _, _ => none

/-- The crew waits at an MXMMA that may be accepted. -/
def waitsMma (s : State) (c : Crew) : Bool :=
  c.mma.isSome && c.kind == 2 && c.st == .running && c.trapping.isNone &&
    (match teamOf s c.team with | some t => t.st == .resident | none => false)

/-- The fields that the four words must share (R246). -/
def mmaKey (w : MWord) : MWord := { w with tA := 0, vB := 0, vc := 0 }

/-- Every one of the crews traps at its own MXMMA. -/
def mmaTrap (s : State) (detail : Nat) : List (LaneCx × MWord) → State
  | [] => s
  | (x, _) :: rest =>
    let s := modCrew s x.u fun c => { c with mma := none }
    mmaTrap (match x.raise s 0x08 detail 0 allLanes 0 with | .next t => t | _ => s) detail rest

/-- Every one of the words enters its quadrant's queue and retires. -/
def mmaAccept (s : State) : List (LaneCx × MWord) → State
  | [] => s
  | (x, w) :: rest =>
    let (s, id) := takeCmd s
    let c := x.c
    let s := modQuad s c.die c.core c.quadrant fun d => { d with queue := d.queue ++ [mxEntry id x.u .mma w x.blk 0 c.capture] }
    let c := { c with mma := none, fenceFlag := false, capture := tileReads c.capture }.modCC w.cc.val fun k => k.join id
    mmaAccept (x.finishAt s c x.fr (x.fr.lpc + 1)) rest

/-- MXMMA_JOINT_ACCEPT (R246): the four waiting words trap together or are accepted together. -/
def execMxmmaJointAccept (die core : Nat) (s : State) : Result :=
  let crews := (coreCrews s die core).filter (waitsMma s)
  let four := (List.range 4).filterMap fun q => (crews.find? (·.quadrant == q)).bind (mmaCx s)
  let room := (List.range 4).all fun q => (quadOf s die core q).queue.length < 4
  match four with
  | [a, b, c, d] =>
    if !room || !([b, c, d].all fun x => x.1.c.team == a.1.c.team) then stall s
    else if !([b, c, d].all fun x => mmaKey x.2 == mmaKey a.2) then .next (mmaTrap s 1 four)
    else if !(four.all fun x => x.1.c.fenceFlag) then .next (mmaTrap s 3 four)
    else .next (mmaAccept s four)
  | _ => stall s

/-! ## Slots -/

/-- Every cell of a slot changed, monitors threaded through them in ascending order. -/
def mapCells (sl : MxSlot) (f : Nat → Cell → Monitors → Cell × Monitors) : MxSlot :=
  let r := (List.range 4096).foldl (fun (acc : KMap Cell × Monitors) i =>
    let (c, m) := f i (kgetD sl.cells i Cell.zero) acc.2
    (if c == Cell.zero then acc.1 else (i, c) :: acc.1, m)) ([], { counts := sl.counts, shifts := sl.shifts })
  { sl with cells := r.1.reverse, counts := r.2.counts, shifts := r.2.shifts }

/-- A slot of a quadrant. -/
def Quad.slot (q : Quad) (n : Bool) : MxSlot := if n then q.slots[1] else q.slots[0]
/-- A quadrant with a slot replaced. -/
def Quad.putSlot (q : Quad) (n : Bool) (x : MxSlot) : Quad := { q with slots := if n then q.slots.set 1 x else q.slots.set 0 x }

/-- The entry may have its effect (R249): nothing earlier stands on its slot, no earlier MXMMA before an MXMMA, and no other drain of the quadrant has begun. -/
def entryReady (es : List MxEntry) (n : Nat) (e : MxEntry) : Bool :=
  ((es.take n).all fun f => f.word.slot != e.word.slot && !(f.op == .mma && e.op == .mma)) &&
    (e.op != .drain || (indexed es).all fun f => f.1 == n || f.2.op != .drain || f.2.drained.isEmpty)

/-- An entry leaves its queue and completes in its batch. -/
def leaveQueue (s : State) (die core q n : Nat) : State :=
  match (quadOf s die core q).queue[n]? with
  | none => s
  | some e => finishCommand (modQuad s die core q fun d => { d with queue := ldel d.queue n }) e.crew e.id e.failure

/-- A crew consumes a byte of its tile store that carries an error (R202). -/
def haltBad (s : State) (u : Nat) : Option Nat → State
  | some a => haltCrew s u 1 a
  | none => s

/-! ## MXMMA (R256) -/

/-- A row of A as values, its scales, and the byte of one that carried an error. -/
structure ARow where
  elems  : List (Option Nat)
  scales : List Nat
  bad    : Option Nat

/-- The row m of a panel (R250, R251). -/
def aRow (s : State) (t : Team) (idx : Nat) (e : MxEntry) (m : Nat) : ARow :=
  let es := (List.range (mxLen e.word)).map fun k => elemA s t idx e m k
  let scs := if scaledA e.word && m < e.rows then (List.range ((mxLen e.word + 31) / 32)).map fun b => scaleA s t idx e b m else []
  let bad := es.any (fun x => match x with | some (_, b) => b | none => false) || scs.any (·.2)
  { elems := es.map fun x => x.map (·.1), scales := scs.map (·.1), bad := if bad then some (256 * tileRow0 e.tile + m) else none }

/-- The column n of B: values and scales (R252). -/
def bCol (e : MxEntry) (c : Crew) (j : Nat) : List Nat × List Nat :=
  ((List.range (mxLen e.word)).map fun k => elemB e c k j,
   if mxIsMx e.word.tyB then (List.range ((mxLen e.word + 31) / 32)).map fun b => scaleB e c b j else [])

/-- The terms of a cell in order (R69, R71): MXFP4 products stand without their scales. -/
def cellTerms (w : MWord) (a : ARow) (b : List Nat × List Nat) : List Term :=
  ((List.range a.elems.length).zip (a.elems.zip b.1)).map fun e =>
    match e.2.1 with
    | none => .none
    | some x =>
      let sa := a.scales.getD (e.1 / 32) 127
      let sb := b.2.getD (e.1 / 32) 127
      let sc : Int := if bothFp4 w then 0 else (sa : Int) + sb - 254
      term (sa == 0xFF || sb == 0xFF) sc ((mxFmt w.tyA).decode x) ((mxFmt w.tyB).decode e.2.2)

/-- The chunks of a cell (R70, R71). -/
def cellChunks (w : MWord) (a : ARow) (b : List Nat × List Nat) : List (Option Int × List Term) :=
  let ts := cellTerms w a b
  let n := chunkLen w.lvl
  (List.range ((ts.length + n - 1) / n)).map fun i =>
    let sc : Int := (a.scales.getD (i * n / 32) 127 : Nat) + (b.2.getD (i * n / 32) 127 : Nat) - 254
    (if bothFp4 w then some sc else none, (ts.drop (i * n)).take n)

/-- The integer products of a cell (R75). -/
def cellInts (a : ARow) (b : List Nat × List Nat) : List Int :=
  (a.elems.zip b.1).map fun e => match e.1 with | none => 0 | some x => asSigned 8 x * asSigned 8 e.2

/-- The kind of a word's slot. -/
def mmaKind (w : MWord) : SlotKind := if w.tyA == 4#4 then .integer else .floating

/-- One quadrant's slot after an MXMMA (R256), given the columns of B: the slot, and the byte of an operand that carried an error. -/
def mmaSlot (s : State) (t : Team) (idx : Nat) (e : MxEntry) (cols : Array (List Nat × List Nat)) (sl : MxSlot) : MxSlot × Option Nat :=
  let w := e.word
  let sl := if w.init || (sl.kind != .empty && sl.kind != mmaKind w) then MxSlot.reset else sl
  let rows := ((List.range 64).map fun m => aRow s t idx e m).toArray
  let one (i : Nat) (c : Cell) (m : Monitors) : Cell × Monitors :=
    match rows[i / 64]?, cols[i % 64]? with
    | some a, some b => if mmaKind w == .integer then (feedInts c (cellInts a b), m) else feedChunks w.lvl c m (cellChunks w a b)
    | _, _ => (c, m)
  (mapCells { sl with kind := mmaKind w, fields := w.lvl } one, (rows.toList.filterMap (·.bad)).head?)

/-- The place of the oldest MXMMA in a quadrant's queue, with the entry and its crew. -/
def oldestMma (s : State) (die core q : Nat) : Option (Nat × MxEntry × Crew) :=
  match (indexed (quadOf s die core q).queue).find? fun (e : Nat × MxEntry) => e.2.op == .mma with
  | some (n, e) => (crewOf s e.crew).map fun c => (n, e, c)
  | none => none

/-- An element of A that an MXMMA would read now is torn. -/
def tornA (s : State) (t : Team) (idx : Nat) (e : MxEntry) : Bool :=
  let d := e.tile
  let b := mxBits e.word.tyA
  b == 16 && tileCol0 d % 2 == 1 && (List.range (tileRowCount d)).any fun r => (List.range (tileColCount d)).any fun k =>
    let bit := 8 * tileCol0 d + k * b
    (kget e.capture (tileKey (tileRow0 d + r) bit b)).isNone && tileTorn s t idx (tileRow0 d + r) bit b

/-- The four entries of the oldest accepted MXMMA have their effect and complete together (R249, R256, R257). -/
def completeMma (s : State) (die core : Nat) : Result :=
  let four := (List.range 4).filterMap (oldestMma s die core)
  let whole (e : Nat × MxEntry × Crew) : Bool := match teamOf s e.2.2.team with | some t => !tornA s t e.2.2.coreIdx e.2.1 | none => true
  let ready := (indexed four).all fun e => entryReady (quadOf s die core e.1).queue e.2.1 e.2.2.1 && whole e.2
  if four.length != 4 || !ready then stall s
  else
    let quarter (e : Nat × MxEntry × Crew) : List (List Nat × List Nat) := (List.range 16).map fun j => bCol e.2.1 e.2.2 j
    let cols := (four.flatMap quarter).toArray
    let one (s : State) (e : Nat × (Nat × MxEntry × Crew)) : State :=
      match teamOf s e.2.2.2.team with
      | none => s
      | some t =>
        let slot := e.2.2.1.word.slot
        let (sl, bad) := mmaSlot s t e.2.2.2.coreIdx e.2.2.1 cols ((quadOf s die core e.1).slot slot)
        haltBad (leaveQueue (modQuad s die core e.1 fun d => d.putSlot slot sl) die core e.1 e.2.1) e.2.2.1.crew bad
    .next ((indexed four).foldl one s)

/-! ## MXZERO and MXSTAT (R265, R266) -/

/-- C[m][n] as stored (R262, R265), and whether it carries an error. -/
def imageElem (s : State) (t : Team) (idx : Nat) (e : MxEntry) (m n : Nat) : Nat × Bool :=
  let b := mxBytes e.word.tyC
  if b == 8 then readTile s t idx e (tileRow0 e.tile + 2 * m + n / 32) (64 * (n % 32)) 64
  else readTile s t idx e (tileRow0 e.tile + m) (8 * (tileCol0 e.tile + n * b)) (8 * b)

/-- An element of C that an MXZERO would read now is torn. -/
def tornC (s : State) (t : Team) (idx : Nat) (e : MxEntry) : Bool :=
  let b := mxBytes e.word.tyC
  !e.word.init && (b == 8 || tileCol0 e.tile % 4 != 0) && (List.range (64 * e.rows)).any fun i =>
    let row := tileRow0 e.tile + if b == 8 then 2 * (i / 64) + i % 64 / 32 else i / 64
    let bit := if b == 8 then 64 * (i % 32) else 8 * (tileCol0 e.tile + i % 64 * b)
    (kget e.capture (tileKey row bit (8 * b))).isNone && tileTorn s t idx row bit (8 * b)

/-- A slot after MXZERO (R265). -/
def zeroSlot (s : State) (t : Team) (idx : Nat) (e : MxEntry) : MxSlot × Option Nat :=
  let w := e.word
  if w.init then ({ MxSlot.reset with fields := w.lvl }, none)
  else
    let image := ((List.range 4096).map fun i => if i / 64 < e.rows then imageElem s t idx e (i / 64) (i % 64) else (0, false)).toArray
    let one (i : Nat) (c : Cell) (m : Monitors) : Cell × Monitors :=
      let x := (image[i]?.getD (0, false)).1
      if e.rows ≤ i / 64 then (c, m)
      else if w.tyC == 4#4 then ({ c with sum := w32 x }, m)
      else if w.tyC == 8#4 then loadInternal w.lvl c m x
      else loadC w.lvl c m ((mxFmt w.tyC).decode x)
    (mapCells { MxSlot.reset with kind := if w.tyC == 4#4 then .integer else .floating, fields := w.lvl } one,
     if image.any (·.2) then some (256 * tileRow0 e.tile) else none)

/-- The 64 lanes that MXSTAT writes (R266). -/
def statLanes (sl : MxSlot) : Lanes :=
  let any (p : Cell → Bool) : Nat := flag (sl.cells.any fun c => p c.2)
  lanesFn fun i =>
    if i < 4 then w32 (vget sl.counts i 0)
    else if i < 8 then w32 (vget sl.shifts (i - 4) 0)
    else if i == 8 then w32 (match sl.kind with | .empty => 0 | .floating => 1 | .integer => 2)
    else if i == 9 then w32 (any (·.nan) + 2 * any (·.pinf) + 4 * any (·.ninf) + 8 * any (·.ufl))
    else 0

/-- MX_ENTRY_COMPLETE (R257, R265, R266). -/
def execMxEntryComplete (die core : Nat) (quad : Fin 4) (n : Nat) (s : State) : Result :=
  let q := quadOf s die core quad.val
  match q.queue[n]? with
  | none => stall s
  | some e =>
    if !entryReady q.queue n e then stall s
    else match e.op, crewOf s e.crew with
      | .mma, _ => completeMma s die core
      | .zero, some c => match teamOf s c.team with
        | none => stall s
        | some t =>
          if tornC s t c.coreIdx e then stall s
          else
            let (sl, bad) := zeroSlot s t c.coreIdx e
            .next (haltBad (leaveQueue (modQuad s die core quad.val fun d => d.putSlot e.word.slot sl) die core quad.val n) e.crew bad)
      | .stat, some _ =>
        let sl := q.slot e.word.slot
        let s := modCrew s e.crew fun c => (c.engineWrote [e.word.vB.val]).wv e.word.vB.val (~~~ w64 (kgetD e.drained 0 0)) (statLanes sl)
        let sl := if e.word.init then { sl with counts := Vector.replicate 4 0, shifts := Vector.replicate 4 0 } else sl
        .next (leaveQueue (modQuad s die core quad.val fun d => d.putSlot e.word.slot sl) die core quad.val n)
      | _, _ => stall s

/-! ## MXDRAIN (R263, R264) -/

/-- What a closed cell drains as, with its flags (R263, R74, R61). -/
def drainValue (w : MWord) (sl : MxSlot) (c : Cell) : Nat × Nat :=
  let uf := if c.ufl then fUF else 0
  if sl.kind == .integer then
    let z := c.sum.toInt
    if w.tyC == 8#4 then (internalInt z c, 0)
    else if w.tyD == 4#4 then (c.sum.toNat, 0)
    else (mxFmt w.tyD).ofInteger { rm := 0, rb := 0, ftz := false, sat := w.sat } z
  else
    let r : Rnd := { rm := if (level3 sl.fields).rtz then 1 else 0, rb := 0, ftz := false, sat := w.sat }
    if w.tyC == 8#4 then (internalOf sl.fields c, uf)
    else if w.tyD == 4#4 then
      let (z, fl) := toInteger r .i32 c.value
      ((z.emod (2 ^ 32)).toNat, orFlags fl uf)
    else
      let (x, fl) := (mxFmt w.tyD).convert r c.value
      (x, orFlags fl uf)

/-- The cell of a slot with its tree closed. -/
def closedCell (sl : MxSlot) (i : Nat) : Cell :=
  let c := kgetD sl.cells i Cell.zero
  if sl.kind == .integer then c else (closeTree sl.fields c Monitors.zero).1

/-- The bytes of row m of a drained image. -/
def drainBytes (w : MWord) (sl : MxSlot) (m : Nat) : List Byte :=
  (List.range 64).flatMap fun n => leBytes (mxBytes (drainTy w)) (drainValue w sl (closedCell sl (64 * m + n))).1

/-- Words of a row written into registers (R262, DST 2). -/
def drainRegs (c : Crew) (v o : Nat) : List Byte → Crew
  | a :: b :: d :: f :: rest =>
    drainRegs ((c.engineWrote [v + o / 256]).wv (v + o / 256) (w64 (2 ^ (o % 256 / 4))) (lanesFn fun _ => w32 (leNat [a, b, d, f]))) v (o + 4) rest
  | _ => c

/-- Where the 32-bit words `bs` at byte `o` of row m of a drain go (R262): the state, whether they could be written, and a failure. -/
def drainPut (s : State) (t : Team) (c : Crew) (e : MxEntry) (m o : Nat) (bs : List Byte) : State × Bool × Option Failure :=
  let w := e.word
  let b := mxBytes (drainTy w)
  if w.dst == 0 then
    (tileWrite s t c.coreIdx (e.rowAt m + o) bs false, true, none)
  else if w.dst == 2 then (modCrew s e.crew fun c => drainRegs c w.vB.val (64 * b * m + o) bs, true, none)
  else
    let off := e.soff + 64 * b * m + o
    match copyTouch s c.team e.id c.coreIdx off bs.length with
    | (s, .wait, _) => (s, false, none)
    | (s, .fail cause, g) =>
      (engineWrite s e.crew e.id c.team c.coreIdx off bs, true, some { cmd := e.id, cause := cause, detail := 0x11, addr := g })
    | (s, _, _) => (engineWrite s e.crew e.id c.team c.coreIdx off bs, true, none)

/-- The parts of row m of a drain that `mask` names are written, in one write where it names all of them (R262, R264): the state, and whether they were. -/
def drainWords (s : State) (die core q n m mask : Nat) : State × Bool :=
  let quad := quadOf s die core q
  match quad.queue[n]? with
  | none => (s, false)
  | some e => match crewOf s e.crew with
    | none => (s, false)
    | some c => match teamOf s c.team with
      | none => (s, false)
      | some t =>
        let bs := drainBytes e.word (quad.slot e.word.slot) m
        let parts := if mask == 2 ^ e.parts.length - 1 then [(0, bs)]
          else ((indexed e.parts).filter fun k => hasBit mask k.1).map fun k => (k.2.1, (bs.drop k.2.1).take k.2.2)
        let one (r : State × Bool × List Failure) (p : Nat × List Byte) : State × Bool × List Failure :=
          if !r.2.1 then r
          else match drainPut r.1 t c e m p.1 p.2 with
            | (s, ok, some f) => (s, ok, r.2.2 ++ [f])
            | (s, ok, none) => (s, ok, r.2.2)
        let (s, ok, fs) := parts.foldl one (s, true, [])
        if !ok then (s, false)
        else
          let up (e : MxEntry) : MxEntry :=
            { e with drained := kset e.drained m (kgetD e.drained m 0 ||| mask),
                     failure := fs.foldl (fun o f => lowFailure o f) e.failure }
          (modQuad s die core q fun d => { d with queue := lmod d.queue n up }, true)

/-- The parts of row m that an entry has not written yet. -/
def MxEntry.undrained (e : MxEntry) (m : Nat) : Nat := (2 ^ e.parts.length - 1) ^^^ kgetD e.drained m 0

/-- Rows in turn; none follows one that waits. -/
def drainRows (s : State) (die core q n : Nat) : List Nat → State × Bool
  | [] => (s, true)
  | m :: ms => match (quadOf s die core q).queue[n]? with
    | none => (s, false)
    | some e => match if e.undrained m == 0 then (s, true) else drainWords s die core q n m (e.undrained m) with
      | (s, true) => drainRows s die core q n ms
      | (s, false) => (s, false)

/-- The drain path writes one part of a row early, or MXSTAT one lane (R260, R264). -/
def runDrainWord (die core q n row k : Nat) (s : State) : Result :=
  let quad := quadOf s die core q
  match quad.queue[n]? with
  | none => stall s
  | some e =>
    if !entryReady quad.queue n e || hasBit (kgetD e.drained row 0) k then stall s
    else match e.op with
      | .drain =>
        if 64 ≤ row || e.parts.length ≤ k then stall s
        else match drainWords s die core q n row (2 ^ k) with
          | (s, true) => .next s
          | (s, false) => stall s
      | .stat =>
        if row != 0 || 64 ≤ k then stall s
        else
          let s := modQuad s die core q fun d => { d with queue := lmod d.queue n fun e => { e with drained := kset e.drained 0 (kgetD e.drained 0 0 ||| 2 ^ k) } }
          .next (modCrew s e.crew fun c => (c.engineWrote [e.word.vB.val]).wv e.word.vB.val (w64 (2 ^ k)) (statLanes (quad.slot e.word.slot)))
      | _ => stall s

/-- A slot after its drain (R263): closed, or cleared by INIT. -/
def drainedSlot (w : MWord) (sl : MxSlot) : MxSlot :=
  if w.init then { MxSlot.reset with fields := sl.fields }
  else if sl.kind == .integer then sl
  else mapCells sl fun _ c m => closeTree sl.fields c m

/-- The flags that a drain raises (R263). -/
def drainFlags (w : MWord) (sl : MxSlot) : Nat :=
  (List.range 4096).foldl (fun fl i => orFlags fl (drainValue w sl (closedCell sl i)).2) 0

/-- MXDRAIN_COMPLETE (R263): the rows still to write, the flags, the slot, completion. -/
def execMxdrainComplete (die core : Nat) (quad : Fin 4) (n : Nat) (s : State) : Result :=
  let es := (quadOf s die core quad.val).queue
  match es[n]? with
  | none => stall s
  | some e =>
    if e.op != .drain || !entryReady es n e then stall s
    else match drainRows s die core quad.val n (List.range 64) with
      | (s, false) => stall s
      | (s, true) =>
        let sl := (quadOf s die core quad.val).slot e.word.slot
        let s := modCrew s e.crew fun c => c.raiseFlags (drainFlags e.word sl)
        let s := modQuad s die core quad.val fun d => d.putSlot e.word.slot (drainedSlot e.word sl)
        .next (leaveQueue s die core quad.val n)

/-! ## Early operand reads (R254) -/

/-- The value under a capture key now, and whether it carries an error. -/
def captureNow (s : State) (t : Team) (c : Crew) (k : Nat) : Nat × Bool :=
  let width := k % 128
  if 2 ^ 40 ≤ k then
    let p := (k - 2 ^ 40) / 128
    tileBits s t c.coreIdx (p / 2048) (p % 2048) width
  else
    let p := k / 128
    (regBits c (p / 2048) (p / 32 % 64) (p % 32) width, false)

/-- The bits under a capture key are torn now. -/
def captureTorn (s : State) (t : Team) (c : Crew) (k : Nat) : Bool :=
  2 ^ 40 ≤ k && tileTorn s t c.coreIdx ((k - 2 ^ 40) / 128 / 2048) ((k - 2 ^ 40) / 128 % 2048) (k % 128)

/-- The engine reads operand bits early: for the crew's next M word (of a register only after an MXFENCE), or for any entry that reads operands. -/
def runOperandRead (crew : Nat) (entry : Option Nat) (k : Nat) (s : State) : Result :=
  match crewOf s crew with
  | none => stall s
  | some c => match teamOf s c.team with
    | none => stall s
    | some t => match entry with
      | none =>
        if (!c.fenceFlag && k < 2 ^ 40) || (kget c.capture k).isSome || captureTorn s t c k then stall s
        else .next (putCrew s crew { c with capture := kset c.capture k (captureNow s t c k) })
      | some n => match (quadOf s c.die c.core c.quadrant).queue[n]? with
        | none => stall s
        | some e =>
          if e.crew != crew || !(e.op == .mma || e.op == .zero) || (kget e.capture k).isSome || captureTorn s t c k then stall s
          else .next (modQuad s c.die c.core c.quadrant fun d =>
            { d with queue := lmod d.queue n fun e => { e with capture := kset e.capture k (captureNow s t c k) } })

end Sys2Proof.Machine
end

