-- ==== Sys2Proof/Machine/Package.lean ====
section
/-!
DEFINITION. The package (R4, R294, R375, R377, R382 to R386, R392, R395): host accesses, links, the Sound's time-outs, power and reset of a die,
fatal errors and the state dump, power capping.
-/

namespace Sys2Proof.Machine

/-! ## Fatal errors (R377) -/

/-- Bytes of a dump section whose layout R377 leaves open (log 21): a function without a body of what the section holds. -/
def openSection (kind : Nat) (holds : List Nat) (n : Nat) : List Byte := (List.range n).map (Config.dumpSection kind holds)

/-- The number of a crew's state. -/
def CrewSt.number : CrewSt → Nat
  | .running => 0
  | .yielded => 1
  | .stopped => 2
  | .halted code => 3 + 8 * code
  | .ended => 4
  | .parkedOn cc _ _ => 5 + 8 * cc.val

/-- The number of a vote state (R360). -/
def VoteSt.number : VoteSt → Nat
  | .trusted => 0
  | .accusing => 1
  | .fenced => 2
  | .retired => 3

/-- The slot states of a logical core: for each slot its crew's team, index and state. -/
def slotWords (s : State) (die core : Nat) : List Nat :=
  (List.range 48).flatMap fun n =>
    match (s.crews.map (·.2)).find? fun c => c.die == die && c.core == core && c.slot == n with
    | some c => [1, c.team, c.index, c.st.number]
    | none => [0]

/-- The vote state of R360 at a position. -/
def voteWords (s : State) (die pos : Nat) : List Nat :=
  (neighbours pos).flatMap fun q =>
    let n := nbOf s die pos q
    [q, n.st.number, n.miss, n.bab, n.votes.length] ++ n.votes.map (·.1)

/-- What the core states hold of one physical core: slot states, vote state and error counters, those of its scratchpad and tile store. -/
def coreStateBytes (s : State) (die pos : Nat) : List Byte :=
  let mine := match logicalAt s die pos with
    | some c => slotWords s die c ++ [(coreAt s die c).scrPoison.length, (coreAt s die c).tilePoison.length]
    | none => []
  openSection 1 (mine ++ voteWords s die pos) 4096

/-- What the error logs hold: sectors with errors and poison, corrected rows and spares used (R372 to R374). -/
def errorWords (s : State) : List Nat :=
  s.errors.map (·.1) ++ s.poison ++ s.corrected.flatMap (fun e => [e.1, e.2]) ++ s.spares.flatMap fun e => [e.1, e.2]

/-- What the fabric state holds: the plane map, its generation and the port states. -/
def fabricWords (s : State) (dev : Nat) : List Nat :=
  let f := fabricOf s dev
  f.map.toList.map (·.val) ++ [f.gen] ++ f.ports.toList.flatMap fun p => [flag p.live, flag p.keyed, p.peer]

/-- What the memory-processor state holds: contexts, queues with their indices, launches. -/
def processorWords (s : State) (dev : Nat) : List Nat :=
  (s.contexts.map (·.1)) ++ (devOf s dev).queues.flatMap (fun q => [q.1, q.2.prod, q.2.cons]) ++ s.launches.map (·.1)

/-- The addresses of the last 1,024 entries of a device's journal, oldest first. -/
def tailEntries (s : State) (dev : Nat) : List Nat :=
  let d := devOf s dev
  let n := Nat.min d.seq (Nat.min 1024 (2 ^ d.jLog))
  (List.range n).map fun i => d.jBase + 64 * ((d.seq - n + i) % 2 ^ d.jLog)

/-- Those entries. -/
def journalTail (s : State) (dev : Nat) : List Byte := (tailEntries s dev).flatMap fun a => mpRead s dev a 64

/-- The sections of a dump: kind and bytes. -/
def dumpSections (s : State) (dev : Nat) : List (Nat × List Byte) :=
  [(1, (fnDies dev).flatMap fun die => (List.range 42).flatMap (coreStateBytes s die)), (2, openSection 2 (errorWords s) 4096),
   (3, journalTail s dev), (4, openSection 4 (fabricWords s dev) 4096), (5, openSection 5 (processorWords s dev) 4096)]

/-- The dump's bytes (R377). -/
def dumpBytes (s : State) (dev cause die : Nat) : List Byte :=
  let secs := dumpSections s dev
  let body : List Byte := secs.flatMap fun (e : Nat × List Byte) => e.2
  let offs := offsetsFrom 0x1000 (secs.map fun (e : Nat × List Byte) => e.2)
  let row (e : (Nat × List Byte) × Nat) : List Byte := leBytes 4 e.1.1 ++ leBytes 4 0 ++ leBytes 4 e.2 ++ leBytes 4 e.1.2.length
  let table : List Byte := (secs.zip offs).flatMap row
  let head : List Byte :=
    leBytes 4 0x504D5544 ++ leBytes 4 0x1000 ++ leBytes 8 (0x1000 + body.length) ++ leBytes 8 s.reftime ++ leBytes 1 cause ++ leBytes 1 die ++
      leBytes 2 secs.length ++ leBytes 4 0 ++ sha3 body ++ table
  padBytes 4096 head ++ body

/-- Firmware writes the dump of one function that is prepared, and its entry (kind 26). -/
def dumpDev (cause die : Nat) (s : State) (dev : Nat) : State :=
  let d := devOf s dev
  if !d.prepared then s
  else
    let s := (tailEntries s dev).foldl (fun s a => mpTouch s dev a 64) s
    let s := mpWrite s dev d.dumpBase ((dumpBytes s dev cause die).take d.dumpSize)
    journalEvent s dev 26 cause die d.dumpBase

/-- The dump of every prepared function. -/
def dumpAll (s : State) (cause die : Nat) : State := (List.range 3).foldl (dumpDev cause die) s

/-- A fatal error (R377): acceptance and every crew stop, and the dump is written. A second one finds the package stopped. -/
def fatalError (s : State) (cause die : Nat) : State :=
  if s.stopped == 3 then s else dumpAll (fatalStop s cause) cause die

/-- REFERENCE_CLOCK_LOSS (R377, cause 3). -/
def execReferenceClockLoss (die : Fin 2) (s : State) : Result := .next (fatalError s 3 die.val)

/-- PROCESSOR_STATE_UNCORRECTABLE_ERROR (R377, cause 1). -/
def execProcessorStateUncorrectableError (die : Fin 2) (s : State) : Result := .next (fatalError s 1 die.val)

/-! ## The host (R294, R385) -/

/-- The map in which host addresses stand: that of the present mode's first device (log 29). -/
def hostDev (s : State) : Nat := if s.mode == 2 then 1 else 0

/-- A byte as a read of the host port carries it: a responder or a time-out delivers no datum (R382, R384; log 10). -/
def hostByte (s : State) (a : Nat) : Byte :=
  match homeKey (hostDev s) a with
  | some k => if responder s 0 k || lateFar s .host 0 k then Config.lostByte k else keyByte s none k
  | none => 0#8

/-- The host's requests to some byte of `[a, a + n)` time out (R382). -/
def hostLate (s : State) (a n : Nat) : Bool :=
  (homePieces a (List.replicate n 0#8)).any fun p => match homeKey (hostDev s) p.1 with | some k => lateFar s .host 0 k | none => false

/-- The host reads `n` bytes: what the completion carries, and whether poisoned. -/
def hostReads (s : State) (a n : Nat) : State :=
  let (s, _, bad) := readHome s none (hostDev s) 0 a n
  { s with hostRead := (List.range n).map fun i => hostByte s (a + i), hostBad := bad || hostLate s a n }

/-- A PCIe AtomicOp at its home (R294, R385): one indivisible update of 4 or 8 bytes; the completion carries the old value. A responder answers it poisoned
and writes nothing (R384, R386); one that times out may or may not have been performed (R382; log 10). -/
def hostAtomic (s : State) (a n : Nat) (new : Nat → Nat) : Result :=
  if n != 4 && n != 8 then stall s
  else
    let bytes (s : State) : List Byte := leBytes n (new (leNat (physRead s none (hostDev s) a n)) % 2 ^ (8 * n))
    let t := hostReads s a n
    if hostLate s a n then
      let (t, b) := takeFree t
      .next (if b % 2 == 1 then updateHome t none (hostDev s) 0 a (bytes t) else t)
    else .next (updateHome t none (hostDev s) 0 a (bytes t))

/-- A CXL.mem access that the host port serves (R385): under CXL, inside the window that system software has set. -/
def memWindow (s : State) (a n : Nat) : Bool :=
  (match s.hostCxl with | some (cxl, _) => cxl | none => false) &&
    match s.cxlWindow with | some (base, size) => base ≤ a && a + n ≤ base + size | none => false

/-- HOST_ACCESS (R294, R385): the host port on die 0 performs a read, a write or an AtomicOp on device memory, or a load or a store over CXL.mem, at its
home, in the order of arrival. A package whose firmware failed answers only FW_STAGE (R392). -/
def execHostAccess (op : HostOp) (pa : W64) (n : Nat) (data : List Byte) (s : State) : Result :=
  let a := pa.toNat
  let len := if op == .write || op == .memStore then data.length else n
  if !inDevice (hostDev s) a len || !s.fwUp || ((op == .memLoad || op == .memStore) && !memWindow s a len) then stall s
  else match op with
    | .read => .next (hostReads s a n)
    | .memLoad => .next (hostReads s a n)
    | .write => .next (writeUnit s .host (hostDev s) 0 a data)
    | .memStore => .next (writeUnit s .host (hostDev s) 0 a data)
    | .fetchAdd => hostAtomic s a n fun old => old + leNat data
    | .swap => hostAtomic s a n fun _ => leNat data
    | .cas => hostAtomic s a n fun old => if old == leNat (data.take n) then leNat (data.drop n) else old

/-- System software sets the CXL.mem window (R385): a range of HBM4E. No request of R388 does, so a turn of its own stands for it (DESIGN CHOICE, log 91). -/
def runCxlWindow (s : State) (base size : Nat) : Result :=
  if size != 0 && inMap (hostDev s) base size && mapPart (hostDev s) base ≤ 1 then .next { s with cxlWindow := some (base, size) } else stall s

/-- HOST_LINK_TRAINING (R385): PCIe at x16, x8 or x4, CXL at x16. -/
def execHostLinkTraining (cxl : Bool) (width : Nat) (s : State) : Result :=
  if width == 16 || (!cxl && (width == 8 || width == 4)) then .next { s with hostCxl := some (cxl, width) } else stall s

/-- SECOND_TIER_PORT_FAIL (R386): the port's range answers as a poison responder from now on. -/
def execSecondTierPortFail (port : Fin 4) (s : State) : Result := .next { s with cxlFailed := s.cxlFailed ||| (1#4 <<< port.val) }

/-- LANE_RECALIBRATION (R375): one lane of a UALink port or of the Sound begins to recalibrate, or ends; traffic goes on. The other links
recalibrate only by their standard's retraining. -/
def execLaneRecalibration (link : LinkName) (s : State) : Result :=
  match link with
  | .hostPort => stall s
  | .cxl _ => stall s
  | l => .next { s with recal := if s.recal.contains l then s.recal.filter (· != l) else l :: s.recal }

/-! ## The Sound (R382) -/

/-- A lane's access crosses the Sound to a die that answers: one in reset has a poison responder, and no time-out is seen (R384). -/
def crosses (s : State) (c : Crew) (l : LaneAcc) : Bool :=
  match homeKey (crewDev s c) l.pa with | some k => k < 2 ^ 51 && keyDie k != c.die && !responder s c.die k | none => false

/-- A request of a device's die crosses the Sound to a die that answers. -/
def farRequest (s : State) (dev die pa : Nat) : Bool :=
  match homeKey dev pa with | some k => k < 2 ^ 51 && keyDie k != die && !responder s die k | none => false

/-- A request was sent across the Sound and has waited XTMO ticks. -/
def soundLate (s : State) (sent : Option Nat) : Bool := match sent with | some t => s.xtmo ≤ s.reftime - t | none => false

/-- What makes a request cross the Sound (R381, R382): the request is ready, crosses, and has not been sent; `mark` notes the tick. -/
def sendIf (s : State) (can : Bool) (mark : State → State) : Result := if can then .next (mark s) else stall s

/-- A load is sent: its lanes across the Sound are ready. -/
def crossLoad (s : State) (u idx : Nat) (c : Crew) (p : PendingLoad) : Result :=
  let far := p.lanes.filter (crosses s c)
  sendIf s ((p.space == .global || p.space == .constant) && p.sent.isNone && !far.isEmpty && far.all (loadReady s c p)) fun s =>
    modCrew s u fun c => { c with loads := lmod c.loads idx fun p => { p with sent := some s.reftime } }

/-- A store is sent. -/
def crossStore (s : State) (u idx : Nat) (c : Crew) (e : StoreEntry) : Result :=
  sendIf s (e.space == .global && e.port.isSome && e.sent.isNone && e.lanes.any (crosses s c) && storeReady s c e) fun s =>
    modCrew s u fun c => { c with storeQ := lmod c.storeQ idx fun e => { e with sent := some s.reftime } }

/-- An element of a copy is sent: an outbound one once its bytes are read. -/
def crossCopy (s : State) (die core n : Nat) (e : Nat × Nat) (k : CopyCmd) (c : Crew) : Result :=
  match copyPage s die core n k c (k.desc.gAt e.2) (if k.out then .store else .load) with
  | (s, .ok pa) =>
    sendIf s (k.ordered s && (k.elements c.coreIdx).contains e && k.pending e && (!k.out || (kget k.data e.2).isSome) && farRequest s (crewDev s c) die pa &&
        !engineWaits s (crewDev s c) die core k.out pa k.desc.esz && !k.sent.any (·.1 == e)) fun s =>
      modCopy s die core n fun k => { k with sent := (e, s.reftime) :: k.sent }
  | (s, _) => stall s

/-- A drain of a buffered entry is sent. -/
def crossDrain (s : State) (die core buf n : Nat) (e : BufEntry) : Result :=
  match crewOf s e.crew with
  | none => stall s
  | some c => sendIf s (farRequest s (crewDev s c) die e.pa && e.sent.isNone && drainReady s die core [e]) fun s =>
      modCore s die core fun co => { co with bufs := vmod co.bufs buf fun l => lmod l n fun e => { e with sent := some s.reftime } }

/-- A fill or a write-back of a granule is sent. -/
def crossGranule (s : State) (t : Team) (l : Launch) (k : Nat) (fill : Bool) : Result :=
  let g := kgetD t.granules k Granule.empty
  match regionAt l (granCore k) (granOff k) with
  | none => stall s
  | some r =>
    if g.st != (if fill then GranSt.filling else .writing) then stall s
    else match mapGranule s t l k (granGlobal t r (granOff k)) (if fill then .load else .store) (if fill then 0x21 else 0x22) with
      | (s, .ok pa) =>
        sendIf s (farRequest s l.dev.val t.die pa && g.sent.isNone && !engineWaits s l.dev.val t.die (t.coreOf (granCore k)) (!fill) pa 256) fun s =>
          modTeam s t.uid fun t => t.modGran k fun g => { g with sent := some s.reftime }
      | (s, _) => stall s

/-- An action on the request that is named as the `n`-th of crew, core or team `who`. -/
def onRequestNamed (s : State) (req : SoundReq) (who n : Nat) (onLoad : Crew → PendingLoad → Result) (onStore : Crew → StoreEntry → Result)
    (onCopy : Nat → Nat × Nat → CopyCmd → Crew → Result) (onDrain : Nat → Nat → BufEntry → Result) (onGranule : Team → Launch → Nat → Bool → Result)
    (onUnit : LateUnit → Result) : Result :=
  let granule (core : Nat) (fill : Bool) : Result := match teamOf s who with
    | some t => (match launchOfTeam s t with | some l => onGranule t l (granKey core (256 * n)) fill | none => stall s)
    | none => stall s
  match req with
  | .load => match crewOf s who with
    | some c => (match c.loads[n]? with | some p => onLoad c p | none => stall s)
    | none => stall s
  | .store => match crewOf s who with
    | some c => (match c.storeQ[n]? with | some e => onStore c e | none => stall s)
    | none => stall s
  | .copy die dest el => match (coreAt s die who).copyQ[n]? with
    | some k => (match crewOf s k.crew with | some c => onCopy die (dest, el) k c | none => stall s)
    | none => stall s
  | .drain die buf => match (vget (coreAt s die who).bufs buf [])[n]? with
    | some e => onDrain die buf e
    | none => stall s
  | .fill core => granule core true
  | .writeBack core => granule core false
  | .host => onUnit .host
  | .fabric dev => onUnit (.fabric dev.val)
  | .processor dev => onUnit (.processor dev.val)

/-- A request is sent across the Sound (R381, R382; log 90). What the host port, a fabric unit and a memory processor send is sent and answered within their
step. -/
def runCross (s : State) (req : SoundReq) (who n : Nat) : Result :=
  onRequestNamed s req who n (crossLoad s who n) (crossStore s who n) (fun die e k c => crossCopy s die who n e k c)
    (fun die buf e => crossDrain s die who buf n e) (crossGranule s) (fun _ => stall s)

/-- A timed-out load (R382): its lanes across the Sound complete poisoned, and the crew that consumes them halts. Whether an atomic's home has performed it
is open (log 10). -/
def timeoutLoad (s : State) (u idx : Nat) (c : Crew) (p : PendingLoad) : Result :=
  let late := p.lanes.filter (crosses s c)
  let one (s : State) (l : LaneAcc) : State :=
    if p.atom.isNone || l.took.isSome then s
    else
      let (s, n) := takeFree s
      if n % 2 == 1 then (performLoad s u c p l).1 else s
  if soundLate s p.sent && !late.isEmpty then
    let s := late.foldl one s
    let s := modCrew s u fun c => dropLanes c idx (maskOf fun i => late.any (·.lane == i))
    let addr := match late with | l :: _ => datumAddr p l | [] => 0
    .next (haltCrew s u 1 addr)
  else stall s

/-- A timed-out store (R382): it counts as completed, is journalled, and may or may not have been performed (log 10). -/
def timeoutStore (s : State) (u idx : Nat) (c : Crew) (e : StoreEntry) : Result :=
  let late := e.lanes.filter (crosses s c)
  if soundLate s e.sent && !late.isEmpty then
    let one (s : State) (l : LaneAcc) : State :=
      let (s, n) := takeFree s
      let s := if n % 2 == 1 then performLane s c e l else s
      journalTeam s c.team 6 5 c.die l.pa
    let s := late.foldl one s
    .next (modCrew s u fun c => dropStore c idx (maskOf fun i => late.any (·.lane == i)) e.wrote)
  else stall s

/-- An outbound element whose bytes are read is written at its home. -/
def writeSent (s : State) (k : CopyCmd) (c : Crew) (e : Nat × Nat) (pa : Nat) : State :=
  match teamOf s c.team, kget k.data e.2 with
  | some t, some (bs, bad) => if k.out && !bs.isEmpty then (copyWrite s k c t e.1 e.2 bs bad (.memory pa)).1 else s
  | _, _ => s

/-- A timed-out element of a copy (R382): an inbound one carries poison, an outbound one may or may not have been written. -/
def timeoutCopy (s : State) (die core n : Nat) (e : Nat × Nat) (k : CopyCmd) (c : Crew) : Result :=
  match copyPage s die core n k c (k.desc.gAt e.2) (if k.out then .store else .load) with
  | (s, .ok pa) =>
    if !k.pending e || !farRequest s (crewDev s c) die pa || !soundLate s ((k.sent.find? (·.1 == e)).map (·.2)) then stall s
    else
      let (s, b) := takeFree s
      let s := if b % 2 == 1 then writeSent s k c e pa else s
      .next (loseElement s die core n k e 5 pa)
  | (s, _) => stall s

/-- A timed-out drain of a buffered entry (R382): it completes, is journalled, and may or may not have been performed. -/
def timeoutDrain (s : State) (die core buf n : Nat) (e : BufEntry) : Result :=
  match crewOf s e.crew with
  | none => stall s
  | some c =>
    if !farRequest s (crewDev s c) die e.pa || !soundLate s e.sent then stall s
    else
      let (s, b) := takeFree s
      let s := if b % 2 == 1 then drainEntry s e else s
      .next (modCore (journalTeam s c.team 6 5 die e.pa) die core fun co => { co with bufs := vmod co.bufs buf fun l => ldel l n })

/-- A timed-out fill or write-back of a granule (R382). -/
def timeoutGranule (s : State) (t : Team) (l : Launch) (k : Nat) (fill : Bool) : Result :=
  let g := kgetD t.granules k Granule.empty
  match regionAt l (granCore k) (granOff k) with
  | none => stall s
  | some r =>
    let va := granGlobal t r (granOff k)
    if g.st != (if fill then GranSt.filling else .writing) then stall s
    else match mapGranule s t l k va (if fill then .load else .store) (if fill then 0x21 else 0x22) with
      | (s, .ok pa) =>
        if !farRequest s l.dev.val t.die pa || !soundLate s g.sent then stall s
        else if fill then .next (poisonFill s t k)
        else
          let (s, b) := takeFree s
          let s := if b % 2 == 1 then (wbSectors g).foldl (fun s i => writeSector s t l g va pa i) s else s
          .next (dropWriteBack s t k g 5 pa)
      | (s, _) => stall s

/-- The request that a time-out names. A unit's next requests across the Sound time out (R382). -/
def timeout (s : State) (req : SoundReq) (who n : Nat) : Result :=
  onRequestNamed s req who n (timeoutLoad s who n) (timeoutStore s who n) (fun die e k c => timeoutCopy s die who n e k c)
    (fun die buf e => timeoutDrain s die who buf n e) (timeoutGranule s) (fun u => .next { s with late := some u })

/-- The die whose port keeps a request. -/
def requestDie (s : State) (req : SoundReq) (who : Nat) : Nat :=
  let ofCrew : Nat := match crewOf s who with | some c => c.die | none => 0
  let ofTeam : Nat := match teamOf s who with | some t => t.die | none => 0
  match req with
  | .load => ofCrew
  | .store => ofCrew
  | .copy die _ _ => die
  | .drain die _ => die
  | .fill _ => ofTeam
  | .writeBack _ => ofTeam
  | .host => 0
  | .fabric dev => devDie dev.val
  | .processor dev => devDie dev.val

/-- SOUND_REQUEST_TIMEOUT (R382): in split mode it is confined to the access; in package-as-one mode it is loss of the Sound (R377, cause
2). -/
def execSoundRequestTimeout (req : SoundReq) (who n : Nat) (s : State) : Result :=
  match timeout s req who n with
  | .next t => if t.stalled || s.mode == 2 then .next t else .next (fatalError t 2 (requestDie s req who))
  | x => x

/-! ## Power and reset of a die (R4, R383, R384) -/

/-- The cores of a die as they leave reset. -/
def freshCores (s : State) (die : Nat) : State :=
  { s with cores := s.cores.map fun (e : Nat × CoreSt) => if e.1 / 64 == die then (e.1, CoreSt.reset (e.1 % 64)) else e }

/-- The teams that stand on a die are gone with their crews. -/
def dropDieTeams (s : State) (die : Nat) : State :=
  { s with teams := s.teams.filter (fun e => e.2.die != die), crews := s.crews.filter (fun e => e.2.die != die) }

/-- A device forgets its contexts, queues, launches, saved teams and registers. -/
def forgetDev (s : State) (dev : Nat) : State :=
  let ls := ((s.launches.map (·.2)).filter (·.dev.val == dev)).map (·.uid)
  let s := { s with contexts := s.contexts.filter (fun c => c.2.dev.val != dev), launches := s.launches.filter (fun l => !ls.contains l.1),
                    saved := s.saved.filter (fun e => !ls.contains e.2.1.launch) }
  let s := modFabric (modDev s dev fun _ => DevSt.reset) dev fun _ => FabricSt.reset
  { s with mode := if s.contexts.isEmpty then 0 else s.mode }

/-- The devices whose state lives on a die: in split mode its own, else the package. -/
def dieDevs (s : State) (die : Nat) : List Nat := if s.mode == 2 then [die + 1] else [0, die + 1]

/-- DIE_POWER_UP (R4): the die loads the running REFTIME before its cores leave reset. R4 starts the count at package power-on only: a die that finds none
powered goes on from where the count stopped (DESIGN CHOICE, log 75). -/
def execDiePowerUp (die : Fin 2) (s : State) : Result :=
  if (dieOf s die.val).powered then stall s
  else .next (modDie (freshCores s die.val) die.val fun _ => { DieSt.reset with start := s.reftime })

/-- A request that was sent across the Sound when its die powers down (R383): whether it had crossed, and so is performed at its home, or is dropped, is open
(log 10). -/
def maybeCrossed (s : State) (f : State → State) : State :=
  let (s, n) := takeFree s
  if n % 2 == 1 then f s else s

/-- A store of a die that powers down (R383). One that was not sent had not crossed; those of one line are sent one after the other (R381). -/
def powerDownStore (s : State) (c : Crew) (e : StoreEntry) : State :=
  if e.sent.isNone then s
  else (e.lanes.filter (crosses s c)).foldl (fun s l => maybeCrossed s fun s => performLane s c e l) s

/-- An outbound copy of a die that powers down. -/
def powerDownCopy (die core : Nat) (s : State) (q : Nat × CopyCmd) : State :=
  match crewOf s q.2.crew with
  | none => s
  | some c => ((q.2.sent.map (·.1)).filter q.2.pending).foldl (fun s e =>
      match copyPage s die core q.1 q.2 c (q.2.desc.gAt e.2) .store with
      | (s, .ok pa) => maybeCrossed s fun s => writeSent s q.2 c e pa
      | (s, _) => s) s

/-- The write-backs of a team on a die that powers down. -/
def powerDownTeam (s : State) (t : Team) : State :=
  match launchOfTeam s t with
  | none => s
  | some l => t.granules.foldl (fun s k =>
      match if k.2.st == .writing && k.2.sent.isSome then regionAt l (granCore k.1) (granOff k.1) else none with
      | none => s
      | some r =>
        let va := granGlobal t r (granOff k.1)
        match mapGranule s t l k.1 va .store 0x22 with
        | (s, .ok pa) => maybeCrossed s fun s => (wbSectors k.2).foldl (fun s i => writeSector s t l k.2 va pa i) s
        | (s, _) => s) s

/-- What a core of a die that powers down has sent: its copies and its drains. -/
def powerDownCore (die : Nat) (s : State) (e : Nat × CoreSt) : State :=
  let s := (indexed e.2.copyQ).foldl (powerDownCopy die (e.1 % 64)) s
  ((e.2.bufs.toList.flatMap id).filter (·.sent.isSome)).foldl (fun s b => maybeCrossed s fun s => drainEntry s b) s

/-- DIE_POWER_DOWN (R383): the port cancels what is outstanding and the die keeps no crews. In package-as-one mode the Sound is lost (R377). -/
def execDiePowerDown (die : Fin 2) (s : State) : Result :=
  if !(dieOf s die.val).powered then stall s
  else
    let here := (s.crews.map (·.2)).filter (·.die == die.val)
    let s := here.foldl (fun s c => c.storeQ.foldl (fun s e => powerDownStore s c e) s) s
    let s := (s.cores.filter fun e => e.1 / 64 == die.val).foldl (powerDownCore die.val) s
    let s := ((s.teams.map (·.2)).filter (·.die == die.val)).foldl powerDownTeam s
    let s := if s.mode == 1 then fatalError s 2 (1 - die.val) else s
    let devs := dieDevs s die.val
    let s := freshCores (dropDieTeams s die.val) die.val
    let s := if s.mode == 1 then s else devs.foldl forgetDev s
    .next (modDie s die.val fun d => { d with powered := false, tcache := [] })

/-- What the cores of the other die have read early of the memory of a die in reset is gone (R384). -/
def dropFarReads (s : State) (die : Nat) : State :=
  let dev := if s.mode == 2 then 2 - die else 0
  { s with cores := s.cores.map fun e =>
      if e.1 / 64 == die then e else (e.1, { e.2 with early := e.2.early.filter fun r => !homedFar dev (1 - die) r.pa }) }

/-- One die enters reset: its crews, teams and cores are gone, its device starts anew, and its memory answers poisoned until it is ready. -/
def resetDie (s : State) (die : Nat) : State :=
  let devs := dieDevs s die
  let s := dropFarReads (freshCores (dropDieTeams s die) die) die
  let s := devs.foldl forgetDev s
  modDie s die fun d => { DieSt.reset with powered := d.powered, inReset := true }

/-- DIE_RESET (R384): a device reset in split mode, else a part of a package reset, which takes both dies. After a fatal error it is what
the device answers (R377): in split mode the other device stays stopped until its own reset. -/
def execDieReset (die : Fin 2) (s : State) : Result :=
  if s.mode == 2 then
    let stopped := s.stopped &&& ~~~ (1#2 <<< die.val)
    .next { resetDie s die.val with stopped := stopped, fatal := if stopped == 0 then none else s.fatal }
  else .next { resetDie (resetDie s die.val) (1 - die.val) with fatal := none, stopped := 0 }

/-- DIE_READY (R384): HBM4E filled with zeros, the L2 and the poison marks cleared, those of the die's half of the second tier among them; the port passes
traffic again. -/
def execDieReady (die : Fin 2) (s : State) : Result :=
  if !(dieOf s die.val).inReset then stall s
  else
    let lo := hbmKey die.val 0
    let hi := lo + 2 ^ 42
    let mine (sector : Nat) : Bool := lo ≤ 32 * sector && 32 * sector < hi
    let homed (sector : Nat) : Bool := 32 * sector < 2 ^ 51 && keyDie (32 * sector) == die.val
    let s := { s with mem := cellsClear s.mem lo (hi - lo), poison := s.poison.filter (fun k => !homed k),
                      errors := s.errors.filter fun e => !(mine e.1 || (homed e.1 && e.2.2)) }
    .next (modDie s die.val fun d => { d with inReset := false, start := s.reftime })

/-- The package as its power comes on: every register at reset, the firmware slots and what is on its way from outside as they were. -/
def powerOn (s : State) : State :=
  { State.reset with agenda := s.agenda, rr := s.rr, free := s.free, fwActive := s.fwActive, fwStaged := s.fwStaged, cap := State.reset.cap }

/-- PACKAGE_POWER_ON (R392): the active slot is verified, then the other; if both fail the package answers only FW_STAGE. -/
def execPackagePowerOn (activeOk otherOk : Bool) (s : State) : Result :=
  let s := powerOn s
  if activeOk then .next { s with fwUp := true }
  else if otherOk then
    let active := if s.fwActive.isEmpty then Config.bootActive else s.fwActive
    let other := if s.fwStaged.isEmpty then Config.bootOther else s.fwStaged
    .next { s with fwActive := other, fwStaged := active, fwUp := true }
  else .next { s with fwUp := false }

/-! ## Power (R395) -/

/-- POWER_SAMPLE (R395): every 1,000 ticks; the average over the last 100,000 ticks, 100 samples, against the cap. Cores stretch cycles from the sample
that takes it above the cap until one takes it below. Stretching changes timing only. -/
def execPowerSample (watts : Nat) (s : State) : Result :=
  if s.reftime < s.sampleAt + 1000 then stall s
  else
    let xs := (watts :: s.samples).take 100
    let sum := xs.foldl (· + ·) 0
    let stretch := if s.cap * xs.length < sum then true else if sum < s.cap * xs.length then false else s.stretch
    .next { s with samples := xs, sampleAt := s.sampleAt + 1000, stretch := stretch }

end Sys2Proof.Machine
end

