-- ==== Sys2Proof/Machine/ScalarMem.lean ====
section
/-!
DEFINITION. The scalar words that access memory (R130 to R138): loads, stores, SLDK, SATOM and SCAS.
-/

namespace Sys2Proof.Machine

/-- SLDB (R132). -/
def execSldb (d a : SReg) (i : Imm13) (s : State) : Result := scalarLoad d a i 1 s
/-- SLDH (R132). -/
def execSldh (d a : SReg) (i : Imm13) (s : State) : Result := scalarLoad d a i 2 s
/-- SLDW (R132). -/
def execSldw (d a : SReg) (i : Imm13) (s : State) : Result := scalarLoad d a i 4 s
/-- SLDD (R132). -/
def execSldd (d a : SReg) (i : Imm13) (s : State) : Result := scalarLoad d a i 8 s
/-- SSTB (R132). -/
def execSstb (d a : SReg) (i : Imm13) (s : State) : Result := scalarStore d a i 1 s
/-- SSTH (R132). -/
def execSsth (d a : SReg) (i : Imm13) (s : State) : Result := scalarStore d a i 2 s
/-- SSTW (R132). -/
def execSstw (d a : SReg) (i : Imm13) (s : State) : Result := scalarStore d a i 4 s
/-- SSTD (R132). -/
def execSstd (d a : SReg) (i : Imm13) (s : State) : Result := scalarStore d a i 8 s

/-- SLDK (R133, R300): the data arrives with LOAD_DATA_RETURN, through the constant path. -/
def execSldk (d a : SReg) (i : Imm13) (s : State) : Result :=
  withScalar s [d, a] fun u c =>
    let va := c.rs a + i.signExtend 64
    match checkHeld s c va 8 .load false with
    | (s, .fail _ cause detail) => failScalar s u c va accConst cause detail
    | (s, .absent) => holdScalar s u c va accConst
    | (s, .ok pa) =>
      let (s, stamp) := takeStamp s
      let p := scalarPending c stamp d va pa 8 .constant .zero none 0 0 (0 < c.cfence)
      .next (putCrew s u { c with loads := c.loads ++ [p] }.next)

/-- An atomic operation that host memory does not take (R294): AND, OR and the minima and maxima. -/
def hostRefuses (a : AtomOp) : Bool := !a.cas && a.op != 0 && a.op != 3

/-- A scalar atomic (R130, R135, R136): it waits for an empty side log and until the port has taken the crew's stores (R201), and is performed with LOAD_DATA_RETURN. -/
def scalarAtomic (d a b : SReg) (w : Bool) (o : AtomOp) (s : State) : Result :=
  withScalar s [d, a, b] fun u c =>
    let va := c.rs a
    let width := if w then 8 else 4
    if c.acquiring then stall s
    else match checkHeld s c va width .atomic (hostRefuses o) with
      | (s, .fail _ cause detail) => failScalar s u c va accAtomic cause detail
      | (s, .absent) => holdScalar s u c va accAtomic
      | (s, .ok pa) =>
        if !c.sideLog.isEmpty || !c.portClear then stall s
        else
          let (s, stamp) := takeStamp s
          let p := scalarPending c stamp d va pa width .global .zero (some o) (c.rs b) (c.rs d) false
          .next (putCrew s u { c with loads := c.loads ++ [p] }.next)

/-- SATOM (R135). -/
def execSatom (d a b : SReg) (ord : Bool) (scope : Fin 4) (w : Bool) (op : Fin 8) (s : State) : Result :=
  scalarAtomic d a b w { cas := false, op := op.val, ord := ord, scope := scope.val } s

/-- SCAS (R136). -/
def execScas (d a b : SReg) (ord : Bool) (scope : Fin 4) (w : Bool) (s : State) : Result :=
  scalarAtomic d a b w { cas := true, op := 0, ord := ord, scope := scope.val } s

end Sys2Proof.Machine
end

