-- ==== Sys2Proof/Machine/WorkLists.lean ====
section
/-!
DEFINITION. Work lists (R238 to R240, R353) and the termination detector (R354).
-/

namespace Sys2Proof.Machine

/-- The items of a list. -/
def Context.list (x : Context) (n : Nat) : List WorkItem := kgetD x.lists n []

/-- What an item's WLAPP releases is performed (R238). -/
def itemReady (s : State) (w : WorkItem) : Bool :=
  match crewOf s w.crew with | some c => laneReleased c w.blk w.stamp | none => true

/-- The place in a list's storage that the next item takes (R353; log 39). -/
def Context.place (x : Context) (n : Nat) : Nat := match (x.list n).getLast? with | some i => (i.place + 1) % x.wlCap | none => 0

/-- An item is stored in its list's storage (R353): four bytes at WLBASE + 4 × WLCAP × n, at the item's place. -/
def storeItem (s : State) (c : Crew) (x : Context) (n : Nat) (i : WorkItem) : State :=
  let va := x.wlBase + w64 (4 * (x.wlCap * n + i.place))
  match checkLane s c.die c.core (crewDev s c) x.id va 4 .store false with
  | (s, .ok pa) => writeHome s none (crewDev s c) c.die pa (leBytes 4 i.value.toNat)
  | (s, _) => s

/-- One item is appended to list `n` of a context, if the list has room (R238): whether it was. -/
def appendItem (s : State) (c : Crew) (ctx n : Nat) (value : W32) (stamp blk : Nat) : State × Bool :=
  match ctxOf s ctx with
  | none => (s, false)
  | some x =>
    if x.wlCap ≤ (x.list n).length then (s, false)
    else
      let i : WorkItem := { value := value, place := x.place n, crew := c.uid, stamp := stamp, blk := blk }
      (storeItem (modCtx s ctx fun x => { x with lists := kset x.lists n (x.list n ++ [i]) }) c x n i, true)

/-- The items of a word by ascending lane (R238): each list takes those it has room for. The lanes whose items were appended. -/
def appendLanes (s : State) (c : Crew) (ctx stamp blk : Nat) : List (Nat × Nat × W32) → State × W64
  | [] => (s, 0)
  | (lane, n, v) :: rest =>
    let a := appendItem s c ctx n v stamp blk
    let b := appendLanes a.1 c ctx stamp blk rest
    (b.1, (if a.2 then w64 (2 ^ lane) else 0) ||| b.2)

/-- WLAPP (R238). A list number above 255, and any list while the launch has no work lists (R353), raises QUEUE, detail 0. The word holds the
fragment while a list has no room for its items. -/
def execWlapp (w : LaneWord) (s : State) : Result :=
  laneWord s (.wlapp w) (guarded w) fun s x =>
    match ctxOf s (crewCtx s x.c), crewLaunch s x.c with
    | some k, some l =>
      let bad := if l.record.wlcap == 0 then x.lset else x.lset &&& maskOf fun i => 255 < (x.src w w.a i).toNat
      if bad != 0 then x.raise s 0x0D 0 (x.src w w.a (lowLane bad)).toNat bad 0
      else if x.c.laneAcquiring then stall s
      else
        let (s, stamp) := takeStamp s
        let before := x.fr.appended.getD 0
        let items := (lanesOf (x.lset &&& ~~~ before)).map fun i => (i, (x.src w w.a i).toNat, x.src w w.b i)
        let r := appendLanes s x.c k.id stamp x.blk.stamp items
        let all := before ||| r.2
        if all == x.lset then x.finish r.1 x.c
        else stall (modCrew r.1 x.u fun c => { c with div := c.div.modFrag x.slot fun f => { f with appended := some all } })
    | _, _ => .fault .noStream

/-- Older crews of the core that wait in WLPOP on the same list (R239). -/
def popAhead (s : State) (c : Crew) (n : Nat) : Bool :=
  (coreCrews s c.die c.core).any fun k =>
    k.uid != c.uid && crewCtx s k == crewCtx s c && k.await == .popping n && k.trapping.isNone && crewAge s k < crewAge s c

/-- The items a crew holds on a list (R239). -/
def Crew.held? (c : Crew) (n : Nat) : Nat := kgetD c.holds n 0

/-- WLPOP (R239): up to 64 items go to the scratchpad; none once the launch is quiescent. -/
def execWlpop (d a : SReg) (n : Fin 256) (s : State) : Result :=
  withScalar s [d, a] fun u c =>
    match ctxOf s (crewCtx s c), crewLaunch s c with
    | some k, some l =>
      let va := c.rs a
      let off := va.toNat
      if l.record.wlcap == 0 then raiseScalar s u 0x0D 0 n.val 0
      else if off % 4 != 0 then raiseScalar s u 0x0A 0 0 va
      else if scratchSize l < off + 256 then raiseScalar s u 0x0C 1 0 va
      else
        let items := (k.list n.val).take 64
        if l.quiet then .next (putCrew (acquire s u) u (c.ws d 0).next)
        else if items.isEmpty || !items.all (itemReady s) || popAhead s c n.val || !c.scratchClear || c.acquiring then
          stall (putCrew s u { c with await := .popping n.val })
        else match touchRange s c.team c.scalarTouch c.coreIdx off 256 with
          | .wait s => stall (putCrew s u { c with await := .popping n.val })
          | .fail s cause addr => raiseScalar s u cause 2 0 addr
          | .go s =>
            let s := scratchWrite s c.team c.coreIdx off (items.flatMap fun i => leBytes 4 i.value.toNat)
            let s := modCtx s k.id fun k => { k with lists := kset k.lists n.val ((k.list n.val).drop 64) }
            let c := { c with holds := kset c.holds n.val (c.held? n.val + items.length) }
            .next (putCrew (acquire s u) u (c.ws d (w64 items.length)).next)
    | _, _ => .fault .noStream

/-- WLDONE (R240). -/
def execWldone (a : SReg) (n : Fin 256) (s : State) : Result :=
  withScalar s [a] fun u c =>
    let k := (c.rs a).toNat
    if c.held? n.val < k then raiseScalar s u 0x0D 5 n.val 0
    else .next (putCrew s u { c with holds := kset c.holds n.val (c.held? n.val - k) }.next)

/-- A crew of a launch no longer produces items (R354): it has ended or halted, or waits in WLPOP. -/
def Crew.passive (c : Crew) : Bool := !c.alive || (match c.await with | .popping _ => true | _ => false)

/-- A WLAPP of the crew is in flight (R354): a fragment holds one whose items have not all been appended. -/
def Crew.appending (c : Crew) : Bool := c.div.frags.any fun f => f.2.appended.isSome

/-- QUIESCENCE (R354). -/
def execQuiescenceEvent (launch : Nat) (s : State) : Result :=
  match launchOf s launch with
  | none => stall s
  | some l => match ctxOf s l.ctx with
    | none => stall s
    | some k =>
      let crews := (s.crews.map (·.2)).filter fun c => teamLaunch s c.team == launch
      let placed := l.next == l.record.grid && l.back.isEmpty && !s.saved.any (fun e => e.2.1.launch == launch)
      let empty := k.lists.all (fun e => e.2.isEmpty)
      if placed && empty && crews.all (fun c => c.passive && !(c.alive && c.appending) && (!c.alive || c.holds.all (·.2 == 0))) && 0 < l.record.wlcap && !l.quiet then
        .next (putLaunch s launch { l with quiet := true })
      else stall s

end Sys2Proof.Machine
end

