-- ==== Sys2Proof/Machine/Dispatch.lean ====
section
/-!
DEFINITION. One arm per constructor of Instr: the meaning it calls.
-/

namespace Sys2Proof.Machine

def exec (i : Instr) (s : State) : Host.Outcome State Fault Refusal :=
  match i with
  | .add d a b => Sys2Proof.Machine.execAdd d a b s
  | .sub d a b => Sys2Proof.Machine.execSub d a b s
  | .andd d a b => Sys2Proof.Machine.execAndd d a b s
  | .orr d a b => Sys2Proof.Machine.execOrr d a b s
  | .xor d a b => Sys2Proof.Machine.execXor d a b s
  | .shl d a b => Sys2Proof.Machine.execShl d a b s
  | .shr d a b => Sys2Proof.Machine.execShr d a b s
  | .sra d a b => Sys2Proof.Machine.execSra d a b s
  | .slt d a b => Sys2Proof.Machine.execSlt d a b s
  | .sltu d a b => Sys2Proof.Machine.execSltu d a b s
  | .min d a b => Sys2Proof.Machine.execMin d a b s
  | .max d a b => Sys2Proof.Machine.execMax d a b s
  | .minu d a b => Sys2Proof.Machine.execMinu d a b s
  | .maxu d a b => Sys2Proof.Machine.execMaxu d a b s
  | .mul d a b => Sys2Proof.Machine.execMul d a b s
  | .mulh d a b => Sys2Proof.Machine.execMulh d a b s
  | .mulhu d a b => Sys2Proof.Machine.execMulhu d a b s
  | .div d a b => Sys2Proof.Machine.execDiv d a b s
  | .divu d a b => Sys2Proof.Machine.execDivu d a b s
  | .rem d a b => Sys2Proof.Machine.execRem d a b s
  | .remu d a b => Sys2Proof.Machine.execRemu d a b s
  | .addw d a b => Sys2Proof.Machine.execAddw d a b s
  | .subw d a b => Sys2Proof.Machine.execSubw d a b s
  | .addi d a imm => Sys2Proof.Machine.execAddi d a imm s
  | .andi d a imm => Sys2Proof.Machine.execAndi d a imm s
  | .ori d a imm => Sys2Proof.Machine.execOri d a imm s
  | .xori d a imm => Sys2Proof.Machine.execXori d a imm s
  | .shli d a k => Sys2Proof.Machine.execShli d a k s
  | .shri d a k => Sys2Proof.Machine.execShri d a k s
  | .srai d a k => Sys2Proof.Machine.execSrai d a k s
  | .slti d a imm => Sys2Proof.Machine.execSlti d a imm s
  | .sltiu d a imm => Sys2Proof.Machine.execSltiu d a imm s
  | .shi d imm => Sys2Proof.Machine.execShi d imm s
  | .clz d a => Sys2Proof.Machine.execClz d a s
  | .ctz d a => Sys2Proof.Machine.execCtz d a s
  | .popc d a => Sys2Proof.Machine.execPopc d a s
  | .brev d a => Sys2Proof.Machine.execBrev d a s
  | .sextb d a => Sys2Proof.Machine.execSextb d a s
  | .sexth d a => Sys2Proof.Machine.execSexth d a s
  | .sextw d a => Sys2Proof.Machine.execSextw d a s
  | .zextw d a => Sys2Proof.Machine.execZextw d a s
  | .madd d a b c => Sys2Proof.Machine.execMadd d a b c s
  | .addsh d a b k => Sys2Proof.Machine.execAddsh d a b k s
  | .sel d a b c => Sys2Proof.Machine.execSel d a b c s
  | .beq a b imm => Sys2Proof.Machine.execBeq a b imm s
  | .bne a b imm => Sys2Proof.Machine.execBne a b imm s
  | .blt a b imm => Sys2Proof.Machine.execBlt a b imm s
  | .bge a b imm => Sys2Proof.Machine.execBge a b imm s
  | .bltu a b imm => Sys2Proof.Machine.execBltu a b imm s
  | .bgeu a b imm => Sys2Proof.Machine.execBgeu a b imm s
  | .bra imm => Sys2Proof.Machine.execBra imm s
  | .call imm => Sys2Proof.Machine.execCall imm s
  | .jmpr d a imm => Sys2Proof.Machine.execJmpr d a imm s
  | .loopDec a imm => Sys2Proof.Machine.execLoopDec a imm s
  | .sldb d a imm => Sys2Proof.Machine.execSldb d a imm s
  | .sldh d a imm => Sys2Proof.Machine.execSldh d a imm s
  | .sldw d a imm => Sys2Proof.Machine.execSldw d a imm s
  | .sldd d a imm => Sys2Proof.Machine.execSldd d a imm s
  | .sstb d a imm => Sys2Proof.Machine.execSstb d a imm s
  | .ssth d a imm => Sys2Proof.Machine.execSsth d a imm s
  | .sstw d a imm => Sys2Proof.Machine.execSstw d a imm s
  | .sstd d a imm => Sys2Proof.Machine.execSstd d a imm s
  | .sldk d a imm => Sys2Proof.Machine.execSldk d a imm s
  | .satom d a b ord scope w op => Sys2Proof.Machine.execSatom d a b ord scope w op s
  | .scas d a b ord scope w => Sys2Proof.Machine.execScas d a b ord scope w s
  | .srd d x => Sys2Proof.Machine.execSrd d x s
  | .swr a x => Sys2Proof.Machine.execSwr a x s
  | .lrun l imm => Sys2Proof.Machine.execLrun l imm s
  | .lrunr l a => Sys2Proof.Machine.execLrunr l a s
  | .sgetp d p => Sys2Proof.Machine.execSgetp d p s
  | .sgetv d a v => Sys2Proof.Machine.execSgetv d a v s
  | .bara d a imm => Sys2Proof.Machine.execBara d a imm s
  | .barw d a imm => Sys2Proof.Machine.execBarw d a imm s
  | .baraw d a imm => Sys2Proof.Machine.execBaraw d a imm s
  | .barinit a b => Sys2Proof.Machine.execBarinit a b s
  | .qpush a n => Sys2Proof.Machine.execQpush a n s
  | .qpop d n => Sys2Proof.Machine.execQpop d n s
  | .qtryPush d a n => Sys2Proof.Machine.execQtryPush d a n s
  | .qtryPop d n => Sys2Proof.Machine.execQtryPop d n s
  | .qinit a b n => Sys2Proof.Machine.execQinit a b n s
  | .waitc a n => Sys2Proof.Machine.execWaitc a n s
  | .armc d a b w k n => Sys2Proof.Machine.execArmc d a b w k n s
  | .cyield n a imm => Sys2Proof.Machine.execCyield n a imm s
  | .pchk d => Sys2Proof.Machine.execPchk d s
  | .fenceWord w k sc => Sys2Proof.Machine.execFenceWord w k sc s
  | .wlpop d a l => Sys2Proof.Machine.execWlpop d a l s
  | .wldone a l => Sys2Proof.Machine.execWldone a l s
  | .trap c => Sys2Proof.Machine.execTrap c s
  | .bkpt c => Sys2Proof.Machine.execBkpt c s
  | .sysc d c => Sys2Proof.Machine.execSysc d c s
  | .gatedScalarOpcode g x => Sys2Proof.Machine.execGatedScalarOpcode g x s
  | .vadd w => Sys2Proof.Machine.execVadd w s
  | .vsub w => Sys2Proof.Machine.execVsub w s
  | .vmul w => Sys2Proof.Machine.execVmul w s
  | .vmulh w => Sys2Proof.Machine.execVmulh w s
  | .vmad w => Sys2Proof.Machine.execVmad w s
  | .vand w => Sys2Proof.Machine.execVand w s
  | .vor w => Sys2Proof.Machine.execVor w s
  | .vxor w => Sys2Proof.Machine.execVxor w s
  | .vshl w => Sys2Proof.Machine.execVshl w s
  | .vshr w => Sys2Proof.Machine.execVshr w s
  | .vmin w => Sys2Proof.Machine.execVmin w s
  | .vmax w => Sys2Proof.Machine.execVmax w s
  | .vabs w => Sys2Proof.Machine.execVabs w s
  | .vsel w => Sys2Proof.Machine.execVsel w s
  | .vclz w => Sys2Proof.Machine.execVclz w s
  | .vpopc w => Sys2Proof.Machine.execVpopc w s
  | .vbfe w => Sys2Proof.Machine.execVbfe w s
  | .vbfi w => Sys2Proof.Machine.execVbfi w s
  | .vmov w => Sys2Proof.Machine.execVmov w s
  | .vcmp w => Sys2Proof.Machine.execVcmp w s
  | .vaddc w => Sys2Proof.Machine.execVaddc w s
  | .vneg w => Sys2Proof.Machine.execVneg w s
  | .fadd w => Sys2Proof.Machine.execFadd w s
  | .fsub w => Sys2Proof.Machine.execFsub w s
  | .fmul w => Sys2Proof.Machine.execFmul w s
  | .ffma w => Sys2Proof.Machine.execFfma w s
  | .fscale w => Sys2Proof.Machine.execFscale w s
  | .fmin w => Sys2Proof.Machine.execFmin w s
  | .fmax w => Sys2Proof.Machine.execFmax w s
  | .fcmp w => Sys2Proof.Machine.execFcmp w s
  | .frcp w => Sys2Proof.Machine.execFrcp w s
  | .frsq w => Sys2Proof.Machine.execFrsq w s
  | .fsqrt w => Sys2Proof.Machine.execFsqrt w s
  | .fexp2 w => Sys2Proof.Machine.execFexp2 w s
  | .flog2 w => Sys2Proof.Machine.execFlog2 w s
  | .fsin w => Sys2Proof.Machine.execFsin w s
  | .fcos w => Sys2Proof.Machine.execFcos w s
  | .fclass w => Sys2Proof.Machine.execFclass w s
  | .fcvt w => Sys2Proof.Machine.execFcvt w s
  | .frnd w => Sys2Proof.Machine.execFrnd w s
  | .ftoi w => Sys2Proof.Machine.execFtoi w s
  | .itof w => Sys2Proof.Machine.execItof w s
  | .qpack w => Sys2Proof.Machine.execQpack w s
  | .qunpk w => Sys2Proof.Machine.execQunpk w s
  | .vshfl w => Sys2Proof.Machine.execVshfl w s
  | .vvote w => Sys2Proof.Machine.execVvote w s
  | .vfold w => Sys2Proof.Machine.execVfold w s
  | .vscan w => Sys2Proof.Machine.execVscan w s
  | .vsync w => Sys2Proof.Machine.execVsync w s
  | .plog w => Sys2Proof.Machine.execPlog w s
  | .pset w => Sys2Proof.Machine.execPset w s
  | .execrd w => Sys2Proof.Machine.execExecrd w s
  | .execwr w => Sys2Proof.Machine.execExecwr w s
  | .brl w => Sys2Proof.Machine.execBrl w s
  | .joinWord w => Sys2Proof.Machine.execJoinWord w s
  | .lend w => Sys2Proof.Machine.execLend w s
  | .lyield w => Sys2Proof.Machine.execLyield w s
  | .lnop w => Sys2Proof.Machine.execLnop w s
  | .ltrap w => Sys2Proof.Machine.execLtrap w s
  | .lwaitc w => Sys2Proof.Machine.execLwaitc w s
  | .batch w => Sys2Proof.Machine.execBatch w s
  | .vld w => Sys2Proof.Machine.execVld w s
  | .vst w => Sys2Proof.Machine.execVst w s
  | .vlds w => Sys2Proof.Machine.execVlds w s
  | .vsts w => Sys2Proof.Machine.execVsts w s
  | .vldk w => Sys2Proof.Machine.execVldk w s
  | .vatom w => Sys2Proof.Machine.execVatom w s
  | .vatomNoReturn w => Sys2Proof.Machine.execVatomNoReturn w s
  | .vcas w => Sys2Proof.Machine.execVcas w s
  | .vred w => Sys2Proof.Machine.execVred w s
  | .vrdx w => Sys2Proof.Machine.execVrdx w s
  | .vpref w => Sys2Proof.Machine.execVpref w s
  | .cpy w => Sys2Proof.Machine.execCpy w s
  | .cpym w => Sys2Proof.Machine.execCpym w s
  | .cpyt w => Sys2Proof.Machine.execCpyt w s
  | .wlapp w => Sys2Proof.Machine.execWlapp w s
  | .mxmma w => Sys2Proof.Machine.execMxmma w s
  | .mxdrain w => Sys2Proof.Machine.execMxdrain w s
  | .mxzero w => Sys2Proof.Machine.execMxzero w s
  | .mxfence w => Sys2Proof.Machine.execMxfence w s
  | .mxstat w => Sys2Proof.Machine.execMxstat w s
  | .rput w => Sys2Proof.Machine.execRput w s
  | .rget w => Sys2Proof.Machine.execRget w s
  | .rred w => Sys2Proof.Machine.execRred w s
  | .coll w => Sys2Proof.Machine.execColl w s
  | .cwin w => Sys2Proof.Machine.execCwin w s
  | .cstat w => Sys2Proof.Machine.execCstat w s
  | .cabort w => Sys2Proof.Machine.execCabort w s
  | .gatedLaneOpcode g x => Sys2Proof.Machine.execGatedLaneOpcode g x s
  | .laneBlockComplete crew => Sys2Proof.Machine.execLaneBlockComplete crew s
  | .loadDataReturn crew idx lanes => Sys2Proof.Machine.execLoadDataReturn crew idx lanes s
  | .fairtUrgent crew slot => Sys2Proof.Machine.execFairtUrgent crew slot s
  | .yieldDemotionEnd crew slot => Sys2Proof.Machine.execYieldDemotionEnd crew slot s
  | .teamBarrierRequest team n => Sys2Proof.Machine.execTeamBarrierRequest team n s
  | .teamBarrierCompletion team core id => Sys2Proof.Machine.execTeamBarrierCompletion team core id s
  | .copyComplete die core n => Sys2Proof.Machine.execCopyComplete die core n s
  | .batchComplete crew cc => Sys2Proof.Machine.execBatchComplete crew cc s
  | .armedPushRetry crew => Sys2Proof.Machine.execArmedPushRetry crew s
  | .mxmmaJointAccept die core => Sys2Proof.Machine.execMxmmaJointAccept die core s
  | .mxEntryComplete die core quad n => Sys2Proof.Machine.execMxEntryComplete die core quad n s
  | .mxdrainComplete die core quad n => Sys2Proof.Machine.execMxdrainComplete die core quad n s
  | .granuleFillComplete team core granule => Sys2Proof.Machine.execGranuleFillComplete team core granule s
  | .granuleWriteBackDone team core granule => Sys2Proof.Machine.execGranuleWriteBackDone team core granule s
  | .sideLogReplay crew => Sys2Proof.Machine.execSideLogReplay crew s
  | .pageMigration ctx va frame => Sys2Proof.Machine.execPageMigration ctx va frame s
  | .doorbellWrite fn q p => Sys2Proof.Machine.execDoorbellWrite fn q p s
  | .registerWrite fn off v => Sys2Proof.Machine.execRegisterWrite fn off v s
  | .launchCmd dev q a => Sys2Proof.Machine.execLaunchCmd dev q a s
  | .waitCmd dev q a b => Sys2Proof.Machine.execWaitCmd dev q a b s
  | .waitSatisfied dev q => Sys2Proof.Machine.execWaitSatisfied dev q s
  | .signalCmd dev q a b => Sys2Proof.Machine.execSignalCmd dev q a b s
  | .distributorStep dev => Sys2Proof.Machine.execDistributorStep dev s
  | .pdeadExpiry team => Sys2Proof.Machine.execPdeadExpiry team s
  | .teamSave team => Sys2Proof.Machine.execTeamSave team s
  | .teamRetire team => Sys2Proof.Machine.execTeamRetire team s
  | .quiescenceEvent launch => Sys2Proof.Machine.execQuiescenceEvent launch s
  | .hostAccess op pa n data => Sys2Proof.Machine.execHostAccess op pa n data s
  | .hostLinkTraining cxl width => Sys2Proof.Machine.execHostLinkTraining cxl width s
  | .secondTierPortFail port => Sys2Proof.Machine.execSecondTierPortFail port s
  | .laneRecalibration link => Sys2Proof.Machine.execLaneRecalibration link s
  | .soundRequestTimeout req who n => Sys2Proof.Machine.execSoundRequestTimeout req who n s
  | .diePowerUp die => Sys2Proof.Machine.execDiePowerUp die s
  | .diePowerDown die => Sys2Proof.Machine.execDiePowerDown die s
  | .dieReset die => Sys2Proof.Machine.execDieReset die s
  | .dieReady die => Sys2Proof.Machine.execDieReady die s
  | .packagePowerOn activeOk otherOk => Sys2Proof.Machine.execPackagePowerOn activeOk otherOk s
  | .referenceClockLoss die => Sys2Proof.Machine.execReferenceClockLoss die s
  | .powerSample watts => Sys2Proof.Machine.execPowerSample watts s
  | .beatSend die pos => Sys2Proof.Machine.execBeatSend die pos s
  | .beatWindowEnd die pos nb flits => Sys2Proof.Machine.execBeatWindowEnd die pos nb flits s
  | .accusationLapse die pos from_ suspect => Sys2Proof.Machine.execAccusationLapse die pos from_ suspect s
  | .fenceReport die suspect => Sys2Proof.Machine.execFenceReport die suspect s
  | .bistResult die pos pass tagOk failures => Sys2Proof.Machine.execBistResult die pos pass tagOk failures s
  | .bistTimeout die pos => Sys2Proof.Machine.execBistTimeout die pos s
  | .linkSession dev port peer ok => Sys2Proof.Machine.execLinkSession dev port peer ok s
  | .sessionRekey dev port ok => Sys2Proof.Machine.execSessionRekey dev port ok s
  | .portLoss dev port => Sys2Proof.Machine.execPortLoss dev port s
  | .keepaliveSend dev plane => Sys2Proof.Machine.execKeepaliveSend dev plane s
  | .planeDead dev plane => Sys2Proof.Machine.execPlaneDead dev plane s
  | .proposeTimeout dev => Sys2Proof.Machine.execProposeTimeout dev s
  | .commitTimeout dev => Sys2Proof.Machine.execCommitTimeout dev s
  | .remoteTimeout dev seq => Sys2Proof.Machine.execRemoteTimeout dev seq s
  | .windowExpiry dev w => Sys2Proof.Machine.execWindowExpiry dev w s
  | .gangTimeout dev gang => Sys2Proof.Machine.execGangTimeout dev gang s
  | .undecodableWord lane w reason => Sys2Proof.Machine.execUndecodableWord lane w reason s
  | .storePerformed crew idx lanes => Sys2Proof.Machine.execStorePerformed crew idx lanes s
  | .malformedCommand dev q bytes => Sys2Proof.Machine.execMalformedCommand dev q bytes s
  | .consAdvance ctx service cons => Sys2Proof.Machine.execConsAdvance ctx service cons s
  | .softwareSaveRequest team reason => Sys2Proof.Machine.execSoftwareSaveRequest team reason s
  | .teamBarrierReply crew => Sys2Proof.Machine.execTeamBarrierReply crew s
  | .unifiedRangeFaultAnswer ctx va frame => Sys2Proof.Machine.execUnifiedRangeFaultAnswer ctx va frame s
  | .processorStateUncorrectableError die => Sys2Proof.Machine.execProcessorStateUncorrectableError die s
  | .lsync => Sys2Proof.Machine.execLsync s
  | .yield => Sys2Proof.Machine.execYield s
  | .pyield => Sys2Proof.Machine.execPyield s
  | .endCrew => Sys2Proof.Machine.execEndCrew s
  | .fencep => Sys2Proof.Machine.execFencep s
  | .cfence => Sys2Proof.Machine.execCfence s
  | .rflush => Sys2Proof.Machine.execRflush s
  | .rte => Sys2Proof.Machine.execRte s
  | .createContext => Sys2Proof.Machine.execCreateContext s
  | .destroyContext => Sys2Proof.Machine.execDestroyContext s
  | .mapPages => Sys2Proof.Machine.execMapPages s
  | .unmapPages => Sys2Proof.Machine.execUnmapPages s
  | .protectPages => Sys2Proof.Machine.execProtectPages s
  | .resolvePage => Sys2Proof.Machine.execResolvePage s
  | .translatePage => Sys2Proof.Machine.execTranslatePage s
  | .respondReq => Sys2Proof.Machine.execRespondReq s
  | .plantWord => Sys2Proof.Machine.execPlantWord s
  | .unplantWord => Sys2Proof.Machine.execUnplantWord s
  | .debugReq => Sys2Proof.Machine.execDebugReq s
  | .attest => Sys2Proof.Machine.execAttest s
  | .fwStage => Sys2Proof.Machine.execFwStage s
  | .fwActivate => Sys2Proof.Machine.execFwActivate s
  | .pwrcap => Sys2Proof.Machine.execPwrcap s
  | .fabricConfig => Sys2Proof.Machine.execFabricConfig s
  | .gangArm => Sys2Proof.Machine.execGangArm s
  | .gangStart => Sys2Proof.Machine.execGangStart s
  | .deviceInit => Sys2Proof.Machine.execDeviceInit s
  | .beatReceive => Sys2Proof.Machine.execBeatReceive s
  | .accuseMsg => Sys2Proof.Machine.execAccuseMsg s
  | .withdrawMsg => Sys2Proof.Machine.execWithdrawMsg s
  | .readmitLink => Sys2Proof.Machine.execReadmitLink s
  | .retireLink => Sys2Proof.Machine.execRetireLink s
  | .reportMsg => Sys2Proof.Machine.execReportMsg s
  | .proposeMsg => Sys2Proof.Machine.execProposeMsg s
  | .ackMsg => Sys2Proof.Machine.execAckMsg s
  | .commitMsg => Sys2Proof.Machine.execCommitMsg s
  | .remoteOpReceive => Sys2Proof.Machine.execRemoteOpReceive s
  | .remoteAnswerReceive => Sys2Proof.Machine.execRemoteAnswerReceive s
  | .collLineReceive => Sys2Proof.Machine.execCollLineReceive s
  | .windowAbort => Sys2Proof.Machine.execWindowAbort s
  | .gangPrepare => Sys2Proof.Machine.execGangPrepare s
  | .gangReady => Sys2Proof.Machine.execGangReady s
  | .gangNotready => Sys2Proof.Machine.execGangNotready s
  | .gangStartMessage => Sys2Proof.Machine.execGangStartMessage s
  | .gangStartAck => Sys2Proof.Machine.execGangStartAck s
  | .gangCancel => Sys2Proof.Machine.execGangCancel s
  | .gangAbort => Sys2Proof.Machine.execGangAbort s
  | .gangAbsent => Sys2Proof.Machine.execGangAbsent s
  | .malformedMailboxRequest => Sys2Proof.Machine.execMalformedMailboxRequest s
  | .keepaliveReceive => Sys2Proof.Machine.execKeepaliveReceive s

end Sys2Proof.Machine
end

