-- ==== Sys2Proof/Machine/Turn.lean ====
section
/-!
DEFINITION. One turn of the machine (log 2): time passes, an agent is chosen, and it does its work. A stream fetches its next word
(R79, R310, R336, R373), decodes it and runs it; the other agents run their steps.
-/

namespace Sys2Proof.Machine

/-! ## Fetching -/

/-- The bytes of a code line (R373; log 23). -/
def codeLineBytes : Nat := 128

/-- A line of a launch's code section that a word touches, at byte `off` of the section and, but for translated code, address `pa`: an error met when the line
was prefetched is met again (R373, R372). The state, and whether the read failed. Translated code stands at no address that the manual gives, so an error in
it lasts (log 23). -/
def readCodeLine (s : State) (l : Launch) (dev die sect : Nat) (at_ : Nat × Option Nat) : State × Bool :=
  let (off, place) := at_
  let mine (e : Nat × Nat × Nat × Bool) : Bool := e.1 == l.uid && e.2.1 == sect && e.2.2.1 == off / codeLineBytes
  let rest := { s with codeErr := s.codeErr.filter fun x => !mine x }
  match s.codeErr.find? mine, place with
  | none, none => (s, false)
  | none, some pa => (s, (sectorsOf dev pa 1).any s.poison.contains)
  | some (_, _, _, hard), none => if hard then (s, true) else (journalEvent rest dev 22 4 die 0, false)
  | some (_, _, _, hard), some pa =>
    let sector := match homeKey dev pa with | some k => k / 32 | none => 0
    if hard then (failedRetry rest dev die sector pa false, true) else (correctedEvent rest dev die sector pa 4, s.poison.contains sector)

/-- The lines that hold a word's first and last byte, in order; whether one failed, or the word lies in a poisoned sector. -/
def readCode (s : State) (l : Launch) (dev die sect : Nat) (ends : List (Nat × Option Nat)) : State × Bool :=
  ends.foldl (fun r e => if r.2 then r else readCodeLine r.1 l dev die sect e) (s, false)

/-- The lowest enabled comparator of a core that matches a word of a launch (R336). -/
def breakpoint (s : State) (c : Crew) (l : Launch) (lane : Bool) (idx : Nat) : Option Nat :=
  let hit (b : W64) : Bool :=
    b.getLsbD 23 && b.getLsbD 22 == lane && bitsOf b 21 0 == idx && bitsOf b 35 24 == l.ctx && bitsOf b 51 36 == l.handle
  (List.range 16).find? fun n => hit (vget (coreAt s c.die c.core).bpc n 0)

/-- The scalar word at SPC is fetched and runs. -/
def runScalarWord (s : State) (u : Nat) (c : Crew) (l : Launch) : Result :=
  let s := { s with cur := some { crew := u, lane := false, slot := 0, word := 0, idx := c.spc } }
  match scalarWord s l c.spc with
  | none => raiseScalar s u 0x01 3 0 0
  | some w =>
    let va := l.sBase + w64 (4 * c.spc)
    let run (s : State) : Result :=
      let s := { s with cur := some { crew := u, lane := false, slot := 0, word := w, idx := c.spc } }
      match breakpoint s c l false c.spc with
      | some n => if c.bpPass == some c.spc then exec (scalarInstr w) s else raiseScalar s u 0x06 1 n 0
      | none => exec (scalarInstr w) s
    let fetch (s : State) (pa : Option Nat) : Result := match readCode s l (crewDev s c) c.die 1 [(4 * c.spc, pa)] with
      | (s, true) => raiseScalar s u 0x0B 9 0 va
      | (s, false) => run s
    if l.translated then fetch s none
    else match checkHeld s c va 4 .fetch false with
      | (s, .absent) => holdScalar s u c va accFetch
      | (s, .fail _ cause detail) => failScalar s u c va accFetch cause detail
      | (s, .ok pa) => fetch s (some pa)

/-- The lane word at a fragment's LPC is fetched and runs. R321 names no lane for a page of lane code: both ends of the word stand as lane 0, and LOWLANE of their
record is 0 (DESIGN CHOICE, log 87). -/
def runLaneWord (s : State) (u slot : Nat) (c : Crew) (l : Launch) (fr : Frag) : Result :=
  let s := { s with cur := some { crew := u, lane := true, slot := slot, word := 0, idx := fr.lpc } }
  match laneWordAt l fr.lpc with
  | none => onLane s fun x => x.raise s 0x01 3 0 allLanes 0
  | some w =>
    let va := l.lBase + w64 (12 * fr.lpc)
    let run (s : State) : Result :=
      let s := { s with cur := some { crew := u, lane := true, slot := slot, word := w, idx := fr.lpc } }
      match breakpoint s c l true fr.lpc with
      | some n => if fr.bpPass == some fr.lpc then exec (laneInstr w) s else onLane s fun x => x.raise s 0x06 1 n allLanes 0
      | none => exec (laneInstr w) s
    let fetch (s : State) (pa pb : Option Nat) : Result :=
      match readCode s l (crewDev s c) c.die 2 [(12 * fr.lpc, pa), (12 * fr.lpc + 11, pb)] with
      | (s, true) => onLane s fun x => x.raise s 0x0B 9 0 allLanes va
      | (s, false) => run s
    if l.translated then fetch s none none
    else
      let (s, ls) := checkLanes s c.die c.core (crewDev s c) l.ctx 1 .fetch false [(0, va), (0, va + 11)]
      let ls := heldOut fr.held ls
      match firstFail ls with
      | some f => onLane s fun x => failLane s x ls accFetch { f with mask := allLanes }
      | none => if ls.any (fun e => e.2.2 == .absent) then onLane s fun x => holdLane s x ls accFetch
        else match ls with
          | [(_, _, .ok pa), (_, _, .ok pb)] => fetch s (some pa) (some pb)
          | _ => stall s

/-- A crew may issue words: it runs, and its team is resident (R202, R224, R327, R328). -/
def Crew.runs (s : State) (c : Crew) : Bool :=
  c.st == .running && (match teamOf s c.team with | some t => t.st == .resident || t.st == .saving | none => false)

/-- The team is being stopped for a save (R328). -/
def Crew.stopping (s : State) (c : Crew) : Bool := match teamOf s c.team with | some t => t.st == .saving | none => false

/-- The scalar stream of a crew runs its next word. It waits while a trap waits for open windows, and while a save stops the crew. -/
def runScalar (s : State) (u : Nat) : Result :=
  match crewOf s u with
  | none => stall s
  | some c => match crewLaunch s c with
    | none => stall s
    | some l => if !c.runs s || c.trapping.isSome || c.stopping s then stall s else runScalarWord s u c l

/-- A fragment runs its next word. A trap or a save lets it finish its open window only (R94, R108, R328). The word that SKIP names
is passed over (R97). -/
def runLane (s : State) (u slot : Nat) : Result :=
  match crewOf s u with
  | none => stall s
  | some c => match c.div.frag slot, c.laneQ.head?, crewLaunch s c with
    | some fr, some _, some l =>
      if !c.runs s || fr.st != .ready || ((c.trapping.isSome || c.stopping s) && fr.win.isNone) then stall s
      else if fr.skipAt == some fr.lpc then
        .next (settleTrap (putCrew s u { c with div := c.div.setFrag slot (some { fr with lpc := fr.lpc + 1, skipAt := none, held := [] }.cut) }) u)
      else runLaneWord s u slot c l fr
    | _, _, _ => stall s

/-! ## The memory processor (R338 to R340, R387, R388) -/

/-- A queue has a command to take, or a SIGNAL that it has accepted (R339). -/
def SubQueue.ready (q : SubQueue) : Bool := if q.waiting.isSome then q.accepted else q.cons != q.prod

/-- The queues that hold a command, in the order in which the device takes them (R340): by falling PRIO, equal ones by ascending number after
the queue served last. -/
def queueOrder (d : DevSt) : List (Nat × SubQueue) :=
  let place (n : Nat) : Nat := match d.lastServed with | some l => (n + 63 - l) % 64 | none => n
  sortBy (fun q => (7 - q.2.prio) * 64 + place q.1) (d.queues.filter fun q => q.2.ready)

/-- The next command of a queue: the SIGNAL that it has accepted, or what its ring holds, which is read (R372). -/
def nextCommand (s : State) (dev : Fin 3) (n : Nat) (q : SubQueue) : State × Instr :=
  match q.waiting with
  | some w => (s, .signalCmd dev n w.2.1 w.2.2)
  | none =>
    let (s, bs) := mpFetch s dev.val (q.base + 64 * (q.cons % 2 ^ q.log2n)) 64
    (s, decodeCommand dev n bs)

/-- The first of several queues whose command does not hold is served; a command that holds leaves its records behind (R340). -/
def serveQueues (s : State) (dev : Fin 3) : List (Nat × SubQueue) → Result
  | [] => stall s
  | (n, q) :: qs => match exec (nextCommand s dev n q).2 (nextCommand s dev n q).1 with
    | .next t =>
      if t.stalled then serveQueues { t with stalled := false } dev qs else .next (modDev t dev.val fun d => { d with lastServed := some n })
    | r => r

/-- The memory processor takes the next command of a device. -/
def runCommand (s : State) (dev : Fin 3) : Result := serveQueues s dev (queueOrder (devOf s dev.val))

/-- The memory processor serves the mailbox of a function. -/
def runMailbox (s : State) (fn : Fin 3) : Result :=
  let d := devOf s fn.val
  if !d.go then stall s
  else
    let r := decodeRequest fn d.mboxReq
    exec (mailboxInstr r.code.toNat) { s with request := r }

/-! ## Agents -/

/-- A crew's memory port takes its next store (R201). -/
def runPort (s : State) (u : Nat) : Result := match acceptPort s u with | some s => .next s | none => stall s

/-- A crew's constant path takes the present value of an aligned word (R300). -/
def runConst (s : State) (u pa : Nat) : Result :=
  match crewOf s u with
  | none => stall s
  | some c => .next (constWords s u c true [pa / 4 * 4]).1

/-- A crew's loads take some bytes of a page from their home before their turn (R297; log 7). Loads that a completed VSYNC set comes after are performed
first (R165). -/
def runLoadSample (s : State) (u va n : Nat) : Result :=
  match crewOf s u with
  | none => stall s
  | some c =>
    if !c.runs s || n == 0 || 4096 < va % 4096 + n || c.loads.any (fun p => !p.vsync.isEmpty) then stall s
    else match checkLane s c.die c.core (crewDev s c) (crewCtx s c) (w64 va) 1 .load false with
      | (s, .ok pa) =>
        let (s, bs, bad) := readHome s c.view (crewDev s c) c.die pa n
        let e : EarlyRead := { crew := u, pa := pa, bytes := bs, bad := bad }
        .next (modCore s c.die c.core fun co => { co with early := e :: co.early.filter fun x => !(x.crew == u && overlaps x.pa x.bytes.length pa n) })
      | _ => stall s

/-- Some lanes of a relaxed atomic are performed before the accesses that stand before it, which name other bytes (R297; log 7). -/
def runAtomEarly (s : State) (u idx : Nat) (lanes : W64) : Result :=
  match crewOf s u with
  | none => stall s
  | some c => match c.loads[idx]? with
    | none => stall s
    | some p =>
      let sel := p.lanes.filter fun l => lanes.getLsbD l.lane && l.took.isNone
      let free := p.atom.any (fun a => !a.ord) && !sel.isEmpty && lanesWhole p lanes && sel.all (loadReady s c p) &&
        (p.scalar || c.vsyncClear p.stamp fun i => sel.any (·.lane == i)) && !soundGone s c p.sent sel
      let one (s : State) (l : LaneAcc) : State :=
        let (s, v) := performLoad s u c p l
        modCrew s u fun c => { c with loads := lmod c.loads idx fun p =>
          { p with lanes := p.lanes.map fun m => if m.lane == l.lane then { m with took := some v } else m } }
      if free then .next (settleEarly (sel.foldl one s) u c p sel) else stall s

/-- An uncorrectable error arises in a sector (R372). -/
def runMemoryError (s : State) (sector : Nat) (hard l2 : Bool) : Result :=
  if isHost (32 * sector) then stall s else .next { s with errors := kset s.errors sector (hard, l2) }

/-- An error arises in the live copy of a page-table entry (R323). -/
def runTableError (s : State) (ctx key kind : Nat) : Result :=
  .next (modCtx s ctx fun c => { c with pteErr := kset c.pteErr key kind })

/-- A line of a launch's code is prefetched with an error (R373): journalled as latent, kind 23. -/
def runCodeError (s : State) (launch sect line : Nat) (hard : Bool) : Result :=
  match launchOf s launch with
  | none => stall s
  | some l =>
    let va := (if sect == 1 then l.sBase else l.lBase) + w64 (codeLineBytes * line)
    let s := { s with codeErr := s.codeErr ++ [(launch, sect, line, hard)] }
    if l.translated then .next (journalEvent s l.dev.val 23 0 (devDie l.dev.val) 0)
    else match walkFrom s (devDie l.dev.val) l.ctx va.toNat 4 with
    | (s, .present leaf shift) => .next (journalEvent s l.dev.val 23 0 (devDie l.dev.val) (leafPa leaf shift va.toNat))
    | (s, _) => .next (journalEvent s l.dev.val 23 0 (devDie l.dev.val) 0)

/-- System software declares a unified range (R315). -/
def runUnify (s : State) (ctx lo hi : Nat) : Result := .next (modCtx s ctx fun c => { c with unified := c.unified ++ [(lo, hi)] })

/-- Firmware sets XTMO, from 1,000 to 100,000,000 ticks (R382). -/
def runSetXtmo (s : State) (ticks : Nat) : Result := if 1000 ≤ ticks ∧ ticks ≤ 100000000 then .next { s with xtmo := ticks } else stall s

/-- The only step that a device takes after a fatal error is its reset (R377). -/
def afterFatal : Agent → Bool
  | .event (.dieReset _) => true
  | .event (.dieReady _) => true
  | .event (.packagePowerOn _ _) => true
  | .event (.diePowerDown _) => true
  | .event (.diePowerUp _) => true
  | _ => false

/-- The die whose device a step of the table belongs to; none for one that belongs to the package or runs within another agent's turn. -/
def instrDie (s : State) (i : Instr) : Option Nat :=
  let ofCrew (u : Nat) : Option Nat := (crewOf s u).map (·.die)
  let ofTeam (t : Nat) : Option Nat := (teamOf s t).map (·.die)
  let ofCtx (x : Nat) : Option Nat := (ctxOf s x).map fun c => devDie c.dev.val
  match i with
  | .laneBlockComplete u => ofCrew u
  | .loadDataReturn u _ _ => ofCrew u
  | .storePerformed u _ _ => ofCrew u
  | .fairtUrgent u _ => ofCrew u
  | .yieldDemotionEnd u _ => ofCrew u
  | .batchComplete u _ => ofCrew u
  | .armedPushRetry u => ofCrew u
  | .teamBarrierReply u => ofCrew u
  | .sideLogReplay u => ofCrew u
  | .teamBarrierRequest t _ => ofTeam t
  | .teamBarrierCompletion t _ _ => ofTeam t
  | .granuleFillComplete t _ _ => ofTeam t
  | .granuleWriteBackDone t _ _ => ofTeam t
  | .pdeadExpiry t => ofTeam t
  | .teamSave t => ofTeam t
  | .teamRetire t => ofTeam t
  | .softwareSaveRequest t _ => ofTeam t
  | .quiescenceEvent l => (launchOf s l).map fun l => devDie l.dev.val
  | .copyComplete d _ _ => some d
  | .mxmmaJointAccept d _ => some d
  | .mxEntryComplete d _ _ _ => some d
  | .mxdrainComplete d _ _ _ => some d
  | .beatSend d _ => some d.val
  | .beatWindowEnd d _ _ _ => some d.val
  | .accusationLapse d _ _ _ => some d.val
  | .fenceReport d _ => some d.val
  | .bistResult d _ _ _ _ => some d.val
  | .bistTimeout d _ => some d.val
  | .pageMigration x _ _ => ofCtx x
  | .unifiedRangeFaultAnswer x _ _ => ofCtx x
  | .consAdvance x _ _ => ofCtx x
  | .doorbellWrite d _ _ => some (devDie d.val)
  | .registerWrite d _ _ => some (devDie d.val)
  | .waitSatisfied d _ => some (devDie d.val)
  | .distributorStep d => some (devDie d.val)
  | .linkSession d _ _ _ => some (devDie d.val)
  | .sessionRekey d _ _ => some (devDie d.val)
  | .portLoss d _ => some (devDie d.val)
  | .keepaliveSend d _ => some (devDie d.val)
  | .planeDead d _ => some (devDie d.val)
  | .proposeTimeout d => some (devDie d.val)
  | .commitTimeout d => some (devDie d.val)
  | .remoteTimeout d _ => some (devDie d.val)
  | .windowExpiry d _ => some (devDie d.val)
  | .gangTimeout d _ => some (devDie d.val)
  | _ => none

/-- The die at which a message arrives. -/
def messageDie : Message → Option Nat
  | .silent => none
  | .beat d _ _ _ => some d.val
  | .vote d _ _ _ => some d.val
  | .verdict d _ _ => some d.val
  | .keepalive d _ _ _ => some (devDie d.val)
  | .report d _ _ => some (devDie d.val)
  | .propose d _ _ _ => some (devDie d.val)
  | .generation d _ _ => some (devDie d.val)
  | .remoteOp d _ => some (devDie d.val)
  | .remoteAnswer d _ => some (devDie d.val)
  | .collLine d _ => some (devDie d.val)
  | .windowAbort d _ _ _ => some (devDie d.val)
  | .gang d _ _ => some (devDie d.val)

/-- The die whose device an agent works for. -/
def agentDie (s : State) (a : Agent) : Option Nat :=
  let ofCrew (u : Nat) : Option Nat := (crewOf s u).map (·.die)
  match a with
  | .scalar u => ofCrew u
  | .lane u _ => ofCrew u
  | .portAccept u => ofCrew u
  | .constSample u _ => ofCrew u
  | .loadSample u _ _ => ofCrew u
  | .atomEarly u _ _ => ofCrew u
  | .operandRead u _ _ => ofCrew u
  | .command d => some (devDie d.val)
  | .mailbox d => some (devDie d.val)
  | .event i => instrDie s i
  | .deliver m _ => messageDie m
  | .copyElement d _ _ _ _ => some d
  | .drainWord d _ _ _ _ _ => some d
  | _ => none

/-- A fatal error has stopped the agent (R377): that of a device which its reset has not freed yet, and of the package while both are stopped. -/
def stoppedBy (s : State) (a : Agent) : Bool :=
  s.fatal.isSome && !afterFatal a && (s.stopped == 3 || match agentDie s a with | some d => s.stopped.getLsbD d | none => false)

/-- One agent does its work. -/
def runAgent (s : State) (a : Agent) : Result :=
  if stoppedBy s a then stall s
  else match a with
    | .scalar u => runScalar s u
    | .lane u n => runLane s u n
    | .command d => runCommand s d
    | .mailbox f => runMailbox s f
    | .event i => exec i s
    | .deliver m i => exec i { s with message := m }
    | .portAccept u => runPort s u
    | .copyElement die core n dest el => runCopyElement die core n dest el s
    | .drainWord die core q n row k => runDrainWord die core q n row k s
    | .constSample u pa => runConst s u pa
    | .loadSample u va n => runLoadSample s u va n
    | .atomEarly u n m => runAtomEarly s u n m
    | .operandRead u e key => runOperandRead u e key s
    | .memoryError k hard l2 => runMemoryError s k hard l2
    | .tableError x k n => runTableError s x k n
    | .codeError l sect line hard => runCodeError s l sect line hard
    | .unify x lo hi => runUnify s x lo hi
    | .setXtmo n => runSetXtmo s n
    | .cross req who n => runCross s req who n
    | .setCxlWindow base size => runCxlWindow s base size

/-- The agent's next step would not wait (R105). -/
def ready (s : State) (a : Agent) : Bool := match runAgent s a with | .next t => !t.stalled | _ => false

/-! ## The schedulers (R104 to R107, R177 to R180) -/

/-- A stream of a scheduler: its agent, crew, split-table slot (64 for a scalar stream), key of R104, what the scheduler keeps for it, whether a latch
window is open, and whether it may be out of the active set at this word (R178). -/
structure Candidate where
  who   : Agent
  crew  : Crew
  slot  : Nat
  key   : Nat
  fair  : Fair
  open_ : Bool
  out   : Bool
  deriving DecidableEq, Repr

/-- The key of R104: team age, crew index, creation stamp. -/
def ageKey (s : State) (c : Crew) (stamp : Nat) : Nat :=
  ((match teamOf s c.team with | some t => t.age | none => 0) * 256 + c.index) * (s.nextStamp + 1) + stamp

/-- The next word of a fragment is an LWAITC. -/
def atLwaitc (s : State) (c : Crew) (f : Frag) : Bool :=
  match crewLaunch s c with
  | some l => (match laneWordAt l f.lpc with | some w => (match laneInstr w with | .lwaitc _ => true | _ => false) | none => false)
  | none => false

/-- The fragments of a crew as candidates. -/
def laneCandidates (s : State) (c : Crew) : List Candidate :=
  c.div.frags.map fun f =>
    { who := .lane c.uid f.1, crew := c, slot := f.1, key := ageKey s c f.2.stamp, fair := f.2.fair, open_ := f.2.win.isSome,
      out := f.2.st != .ready || !f.2.held.isEmpty || atLwaitc s c f.2 }

/-- The scalar stream of a crew as a candidate. -/
def scalarCandidate (s : State) (c : Crew) : Candidate :=
  { who := .scalar c.uid, crew := c, slot := 64, key := ageKey s c 0, fair := c.fair, open_ := false, out := false }

/-- FAIRT of a crew's context (R116). -/
def crewFairt (s : State) (c : Crew) : Nat := match ctxOf s (crewCtx s c) with | some x => x.fairt | none => 2048

/-- Urgent, or passed over for FAIRT cycles (R105). -/
def Candidate.urgent (s : State) (k : Candidate) : Bool := k.fair.urgent || crewFairt s k.crew ≤ k.fair.count

/-- Ranked last by YIELD or LYIELD (R106). -/
def Candidate.demoted (k : Candidate) : Bool := 1 < k.fair.demote

/-- The class of a candidate: urgent, plain, demoted; always plain under `.prog off` (R105 to R107). -/
def Candidate.class_ (s : State) (k : Candidate) : Nat :=
  if !crewProg s k.crew then 1 else if k.urgent s then 0 else if k.demoted then 2 else 1

/-- `a` ranks above `b`. -/
def Candidate.above (s : State) (a b : Candidate) : Bool :=
  a.class_ s < b.class_ s || (a.class_ s == b.class_ s && a.key < b.key)

/-- The highest-ranked of several candidates. -/
def bestOf (s : State) : List Candidate → Option Candidate
  | [] => none
  | k :: ks => match bestOf s ks with
    | none => some k
    | some b => some (if b.above s k then b else k)

/-- The lowest-ranked of several candidates. -/
def worstOf (s : State) : List Candidate → Option Candidate
  | [] => none
  | k :: ks => match worstOf s ks with
    | none => some k
    | some b => some (if k.above s b then b else k)

/-- The scheduler of a crew (R177). -/
def Crew.sched (c : Crew) : Nat := c.slot / 12

/-- A scheduler as its core keeps it. -/
def schedOf (s : State) (c : Crew) : Sched := vget (coreAt s c.die c.core).scheds c.sched { active := [], issued := [] }

/-- The running crews of a crew's scheduler. -/
def schedCrews (s : State) (c : Crew) : List Crew :=
  (s.crews.map (·.2)).filter fun k => k.die == c.die && k.core == c.core && k.sched == c.sched && k.runs s

/-- The stream that an agent is, with its crew. -/
def streamOf (s : State) : Agent → Option (Crew × Nat)
  | .scalar u => (crewOf s u).bind fun c => if c.runs s then some (c, 64) else none
  | .lane u n => (crewOf s u).bind fun c => if c.runs s && (c.div.frag n).isSome then some (c, n) else none
  | _ => none

/-- The active set of a scheduler with lane candidates `ks` (R178): a fragment in an open window stays, one that parks or waits leaves; ready fragments
outside, highest first, take a free place or that of the lowest-ranked fragment below them. -/
def nextActive (s : State) (old : List (Nat × Nat)) (ks : List Candidate) : List (Nat × Nat) :=
  let id (k : Candidate) : Nat × Nat := (k.crew.uid, k.slot)
  let stay := ks.filter fun k => old.contains (id k) && (k.open_ || !k.out || ready s k.who)
  let rec enter : Nat → List Candidate → List Candidate → List Candidate
    | 0, set, _ => set
    | fuel + 1, set, outside => match bestOf s outside with
      | none => set
      | some k =>
        let rest := outside.filter fun e => id e != id k
        if set.length < 4 then enter fuel (k :: set) rest
        else match worstOf s (set.filter fun e => !e.open_) with
          | some w => if k.above s w then enter fuel (k :: set.filter fun e => id e != id w) rest else set
          | none => set
  (enter ks.length stay (ks.filter fun k => !old.contains (id k) && ready s k.who)).map id

/-- The active set of the scheduler of a lane stream as the present cycle finds it. -/
def activate (s : State) (a : Agent) : State :=
  match a, streamOf s a with
  | .lane _ n, some (c, _) =>
    let sc := schedOf s c
    let set := match (schedCrews s c).flatMap (laneCandidates s) with
      | [_] => [(c.uid, n)]
      | ks => nextActive s sc.active ks
    modCore s c.die c.core fun co => { co with scheds := vset co.scheds c.sched { sc with active := set } }
  | _, _ => s

/-- The streams of `a`'s kind on its scheduler. -/
def rivals (s : State) (c : Crew) (n : Nat) : List Candidate :=
  if n == 64 then (schedCrews s c).map (scalarCandidate s) else (schedCrews s c).flatMap (laneCandidates s)

/-- Those of them that may issue in this cycle: they are ready, have not issued in it, and a fragment is active (R178, R179). -/
def issuable (s : State) (c : Crew) (n : Nat) : List Candidate :=
  let sc := schedOf s c
  (rivals s c n).filter fun k =>
    !sc.issued.contains (k.crew.uid, k.slot) && (n == 64 || sc.active.contains (k.crew.uid, k.slot)) && ready s k.who

/-- Who issues when the turn names `a` (R105 to R107, R178, R179): of the streams of its kind on its scheduler that may issue, the one that ranks
highest; none where a full active set keeps `a` out. A stream that is not ready waits at its own word. -/
def prefer (s : State) (a : Agent) : Option Agent :=
  match streamOf s a with
  | none => some a
  | some (c, n) =>
    if (rivals s c n).all (fun k => k.who == a) || !ready s a then some a
    else (bestOf s (issuable s c n)).map (·.who)

/-- A crew takes a trap: one that it was not yet waiting to take, had not entered and had not halted at. -/
def Crew.trapsTo (c d : Crew) : Bool :=
  (c.trapping.isNone && d.trapping.isSome) || (!c.handler && d.handler) || d.st != c.st && (d.st == .halted 2 || d.st == .halted 3)

/-- The word of a stream would raise a trap. -/
def traps (s : State) (c : Crew) (a : Agent) : Bool :=
  match runAgent s a with | .next t => (match crewOf t c.uid with | some d => c.trapsTo d | none => false) | _ => false

/-- Of words of one crew that would trap in one cycle the crew takes one trap (R109): where the word chosen would trap, and so would the scalar word of
its crew that issues beside it, or that of an older fragment of its crew, which is the next to issue, that one goes first. -/
def firstTrap (s : State) (a : Agent) : Agent :=
  match streamOf s a with
  | none => a
  | some (c, n) =>
    let beside (k : Candidate) : Bool := k.crew.uid == c.uid && traps s c k.who
    if n == 64 || !traps s c a then a
    else match (bestOf s (issuable s c 64)).filter fun k => beside k && !(schedOf s c).issued.any (·.2 == 64) with
      | some k => k.who
      | none => match (bestOf s ((issuable s c n).filter fun k => k.who != a)).filter fun k => beside k && (schedOf s c).issued.all (·.2 == 64) with
        | some k => if k.key < ageKey s c ((c.div.frag n).map (·.stamp) |>.getD 0) then k.who else a
        | none => a

/-- No more issues of `a`'s kind in this cycle on its scheduler, or `a` has issued (R179). -/
def slotsUsed (s : State) (a : Agent) : Bool :=
  match streamOf s a with
  | none => false
  | some (c, n) =>
    let is := (schedOf s c).issued
    is.contains (c.uid, n) || (if n == 64 then is.any (·.2 == 64) else 2 ≤ (is.filter (·.2 != 64)).length)

/-- What passing cycles do to a candidate: it counts those in which it is ready and does not issue (R105, R106). -/
def Fair.pass (f : Fair) (ready : Bool) (n : Nat) : Fair :=
  if n == 0 then f
  else { f with count := if ready then f.count + (n - flag f.fresh) else f.count, fresh := false,
                demote := if f.demote ≤ 1 then f.demote else Nat.max 1 (f.demote - n) }

/-- The candidates of a crew after `n` cycles of its core. -/
def passCrew (s : State) (n : Nat) (c : Crew) : Crew :=
  let count (a : Agent) : Bool := crewProg s c && c.runs s && ready s a
  let slot (i : Nat) (sl : SplitSlot) : SplitSlot :=
    { sl with frag := sl.frag.map fun f => { f with fair := f.fair.pass (count (.lane c.uid i)) n } }
  { c with fair := c.fair.pass (count (.scalar c.uid)) n, reqLeft := c.reqLeft - n,
           div := { c.div with slots := Vector.ofFn fun i => slot i.val c.div.slots[i] } }

/-- A core after `n` of its cycles: a new cycle in which nothing has issued. -/
def CoreSt.pass (co : CoreSt) (n : Nat) : CoreSt :=
  { co with cycles := co.cycles + w64 n, scheds := co.scheds.map fun k => { k with issued := [] } }

/-- Time passes: REFTIME, while a die is powered (R4), and on the cores that are not in `idle` CYCLES (R5), what the schedulers count, and in each crew
the cycles left before a forced save (R325). -/
def tick (s : State) (cycles ticks : Nat) (idle : List Nat) : State :=
  let s1 := { s with reftime := s.reftime + if s.dies.any (·.powered) then ticks else 0 }
  if cycles == 0 then s1
  else
    let on (k : Nat) : Bool := !idle.contains k
    { s1 with
      cores := s1.cores.map fun e => if on e.1 then (e.1, e.2.pass cycles) else e,
      crews := s1.crews.map fun e => if on (coreKey e.2.die e.2.core) then (e.1, passCrew s cycles e.2) else e }

/-- A stream that has issued is no longer urgent, counts from 0 (R105), and has used its issue slot (R179). -/
def issued (s : State) (a : Agent) : State :=
  let mark (s : State) (u n : Nat) : State := match crewOf s u with
    | none => s
    | some c => modCore s c.die c.core fun co => { co with scheds := vmod co.scheds c.sched fun k => { k with issued := (u, n) :: k.issued } }
  match a with
  | .scalar u => mark (modCrew s u fun c => { c with fair := { c.fair with count := 0, urgent := false, fresh := true } }) u 64
  | .lane u n => mark (modCrew s u fun c =>
      { c with div := c.div.modFrag n fun f => { f with fair := { f.fair with count := 0, urgent := false, fresh := true } } }) u n
  | _ => s

/-- An agent's turn, with the mark that a stream has issued. -/
def take (s : State) (a : Agent) : Result :=
  match runAgent s a with
  | .next t => .next (if t.stalled then t else issued t a)
  | r => r

/-- The present cycle is over for `a`: the next begins. -/
def nextCycle (s : State) (a : Agent) : State := activate (tick s 1 0 []) a

/-- Time passes before a turn, and the scheduler of a stream that it names chooses; one more cycle passes where the present one has no issue slot
left. -/
def schedule (s : State) (t : Turn) : State × Option Agent :=
  let s := activate (tick s t.cycles t.ticks t.idle) t.who
  let s := if slotsUsed s t.who then nextCycle s t.who else s
  (s, (prefer s t.who).map (firstTrap s))

/-! ## The default order (log 3) -/

/-- What one crew may do next. -/
def crewAgents (c : Crew) : List Agent :=
  [.scalar c.uid] ++ c.div.frags.map (fun f => .lane c.uid f.1) ++
    [.event (.laneBlockComplete c.uid), .event (.loadDataReturn c.uid 0 allLanes), .event (.storePerformed c.uid 0 allLanes),
     .event (.teamBarrierReply c.uid), .event (.armedPushRetry c.uid), .event (.sideLogReplay c.uid)] ++
    (List.range 8).map fun n => .event (.batchComplete c.uid (Fin.ofNat 8 n))

/-- What one team may do next. -/
def teamAgents (t : Team) : List Agent :=
  [.event (.teamBarrierRequest t.uid 0)] ++ t.barSent.map (fun b => .event (.teamBarrierCompletion t.uid (b.1 / 512) (b.1 % 512))) ++
    t.granules.map (fun g => .event (.granuleFillComplete t.uid (granCore g.1) (g.1 % 65536))) ++
    t.granules.map (fun g => .event (.granuleWriteBackDone t.uid (granCore g.1) (g.1 % 65536))) ++
    [.event (.pdeadExpiry t.uid), .event (.teamSave t.uid), .event (.teamRetire t.uid)]

/-- What one core may do next. -/
def coreAgents (die core : Nat) : List Agent :=
  [.event (.copyComplete die core 0), .event (.mxmmaJointAccept die core)] ++
    (List.range 4).flatMap fun q => [.event (.mxEntryComplete die core (Fin.ofNat 4 q) 0), .event (.mxdrainComplete die core (Fin.ofNat 4 q) 0)]

/-- What one device may do next. -/
def devAgents (s : State) (d : Nat) : List Agent :=
  [.command (Fin.ofNat 3 d), .mailbox (Fin.ofNat 3 d), .event (.distributorStep (Fin.ofNat 3 d))] ++
    (devOf s d).queues.map fun q => .event (.waitSatisfied (Fin.ofNat 3 d) q.1)

/-- The cores that hold a crew. -/
def busyCores (s : State) : List Nat := dedup ((s.crews.map (·.2)).map fun c => coreKey c.die c.core)

/-- Every agent that the default order visits in turn. -/
def defaultAgents (s : State) : List Agent :=
  (s.crews.map (·.2)).flatMap crewAgents ++ (s.teams.map (·.2)).flatMap teamAgents ++
    (busyCores s).flatMap (fun k => coreAgents (k / 64) (k % 64)) ++ (List.range 3).flatMap (devAgents s) ++
    s.launches.map fun l => .event (.quiescenceEvent l.1)

/-- A journal ring that could not be written in this turn is a fatal error (R377, cause 4): the dump is written. -/
def settleFatal (s : State) (r : Result) : Result :=
  match r with
  | .next t =>
    if s.stopped != 3 && t.stopped == 3 && t.fatal == some 4 then
      let dev := (((List.range 3).find? fun d => (devOf t d).prepared && ringLost t d)).getD 0
      .next (dumpAll t 4 (devDie dev))
    else r
  | r => r

/-- The distributor whose step an agent is. -/
def stepOf : Agent → Option Nat
  | .event (.distributorStep d) => some d.val
  | _ => none

/-- The pages of rows that the turn has found without a spare (R374). -/
def settleRows (r : Result) : Result := match r with | .next t => .next (retireRows t) | r => r

/-- The requests that a unit sends across the Sound in the turn after their time-out have timed out (R382; log 90): later ones do not. -/
def settleLate (s : State) (r : Result) : Result := match r with | .next t => if s.late.isSome then .next { t with late := none } else r | r => r

/-- The agent of a turn does its work, after the distributor steps that fall due before it (R347). -/
def takeTurn (s : State) (t : Turn) : Result :=
  match schedule s t with
  | (s, some a) => take (dueSteps s (stepOf a)) a
  | (s, none) => stall s

/-- One turn: the head of the agenda, or the default order's next agent. -/
def turn (s : State) : Result :=
  let s := { s with stalled := false, cur := none, request := noRequest, message := .silent }
  match s.agenda with
  | t :: rest => settleFatal s <| settleLate s <| settleRows (takeTurn { s with agenda := rest } t)
  | [] =>
    let all := defaultAgents s
    match all[s.rr % all.length]? with
    | none => .next s
    | some a => settleFatal s <| settleLate s <| settleRows (takeTurn { s with rr := s.rr + 1 } { cycles := 1, ticks := flag (stepOf a).isSome, idle := [], who := a })

end Sys2Proof.Machine
end

