-- ==== Sys2Proof/Machine/Step.lean ====
section
/-!
DEFINITION. The step of the machine: one turn (log 2). `withFetchWord` places one instruction as the next to run (log 1).
-/

namespace Sys2Proof.Machine

/-- One step. -/
def step (s : State) : Host.Outcome State Fault Refusal := turn s

/-- The context that `withFetchWord` loads into (log 1): its first GiB is mapped to the first GiB of memory, with every
permission. -/
def fetchContext : Context :=
  { id := 0, dev := 0, pdead := 200000, fairt := 2048, faultQ := 0, serviceQ := none, saveBase := 0, saveSize := 0, images := [],
    ptes := [(pteKey 2 0, mkPte true true true true false true 0), (pteKey 3 0, mkPte false false false false false false 0),
             (pteKey 4 0, mkPte false false false false false false 0)],
    pteErr := [], unified := [], moving := [], barred := [], dying := false, unanswered := [], planted := [], wlCap := 0, wlBase := 0, lists := [], wlLaunch := none }

/-- A launch record with no optional part (R343). -/
def fetchRecord : LaunchRec :=
  { obj := 0, krec := 0, grid := 1, patch := 0, region := 0, wlbase := 0, wlcap := 0, auditk := 0, auditSeed := 0, coreset := 0,
    dataVa := 0, constVa := 0 }

/-- A kernel of one producer crew that owns every vector register (R30, R38). -/
def fetchKernel : KernelRec :=
  { entry := 0, crews := 1, shape := 1, prog := false, audit := false, matrix := false, energy := 0, barriers := 0, queues := 0,
    tileG := 0, scratchG := 16, fastG := [24, 24, 24, 24], slowG := [8, 8, 8, 8], patch0 := 0, patchN := 0, roles := [0] }

/-- The launch of the placed code (log 1). -/
def fetchLaunch (uid : Nat) (scode : List W32) (lcode : List (BitVec 96)) : Launch :=
  { uid := uid, ctx := 0, dev := 0, queue := 0, cmdIndex := 0, jIndex := 0, order := 0, record := fetchRecord, recAddr := 0, handle := 0,
    scode := scode, lcode := lcode, sBase := 0x10000, lBase := 0x20000, translated := false, bindings := [], patches := [],
    kernel := fetchKernel, regions := [], constMem := [], next := 1, back := [], retired := 0, failed := 0, quiet := false,
    aborted := false, complete := false, gang := none, armed := false, absent := [], audits := [], extra := 0 }

/-- The team of the placed code: one crew on logical core 0 of die 0. -/
def fetchTeam (uid launch : Nat) (age : Nat) : Team :=
  { uid := uid, avoid := [], launch := launch, index := 0, age := age, die := 0, cores := [0], scratch0 := [0], tile0 := [0], st := .resident,
    barriers := [], barReqs := [], barSeen := [], barSent := [], queues := [], granules := [], lost := [], halted := false, failure := none, reqReason := 0,
    drained := false, image := 0, run := .original, sigSum := 0, sigCount := 0, shadows := [], shadowMem := [], shadowBad := [] }

/-- A lane block at lane word 0. -/
def fetchBlock (stamp : Nat) : Block :=
  { ord := 1, stamp := stamp, start := 0, snap := Vector.replicate 15 0, skew := 0, tiles := Vector.replicate 16 0, cfence := 0 }

/-- The machine with one crew of the placed code, in a scalar or a running lane word at index 0. -/
def withCode (s : State) (scode : List W32) (lcode : List (BitVec 96)) (lane : Bool) : State :=
  let u := s.nextUid
  let stamp := s.nextStamp
  let crew : Crew := { Crew.reset with uid := u, team := u + 1, fast := 192, slow := 64 }
  let crew := if lane then
      { crew with laneQ := [fetchBlock stamp], nextBlock := 2,
                  div := { Diverge.reset with slots := Diverge.reset.slots.set 0 { gen := false, frag := some (newFrag allLanes 0 (stamp + 1) []) },
                                              started := true } }
    else crew
  { s with
    mode := 1, fwUp := true,
    contexts := kset s.contexts 0 fetchContext,
    launches := kset s.launches s.nextLaunch (fetchLaunch s.nextLaunch scode lcode),
    teams := kset s.teams (u + 1) (fetchTeam (u + 1) s.nextLaunch s.nextAge),
    crews := kset s.crews u crew,
    nextUid := u + 2, nextStamp := stamp + 2, nextLaunch := s.nextLaunch + 1, nextAge := s.nextAge + 1,
    agenda := { cycles := 0, ticks := 0, idle := [], who := if lane then .lane u 0 else .scalar u } :: s.agenda }

/-- The machine with one command in queue 0 of device 0, its ring in memory (R338). -/
def withCommand (s : State) (bs : List Byte) : State :=
  let q : SubQueue := { ctx := 0, desc := 0, base := 0x100000, log2n := 4, prio := 7, prod := 1, cons := 0, open_ := [], waiting := none,
                        accepted := false, waits := [], got := [] }
  let s := modDev s 0 fun d => { d with queues := [(0, q)] }
  { physWrite s none 0 0x100000 bs with
    mode := 1, fwUp := true, contexts := kset s.contexts 0 fetchContext,
    agenda := { cycles := 0, ticks := 0, idle := [], who := .command 0 } :: s.agenda }

/-- `s` with the instruction of bits `w` placed where the next step fetches it (log 1): a scalar or lane word at index 0 of a loaded
crew's code, a command at the head of a submission queue. -/
def State.withFetchWord (s : State) (nbits w : Nat) : State :=
  if nbits ≤ 32 then withCode s [BitVec.ofNat 32 w] [] false
  else if nbits ≤ 96 then withCode s [] [BitVec.ofNat 96 w] true
  else withCommand s (leBytes 64 w)

end Sys2Proof.Machine
end

