-- ==== Sys2Proof/Safety.lean ====
section
/-!
DEFINITION. The terms in which claims speak: the good states, the conditions under which a word runs, and what a word leaves alone.
-/

namespace Sys2Proof.Machine

/-! ## Good states -/

/-- Physical memory lists its bytes in canonical form. -/
def State.memoryOk (s : State) : Bool := Memory.wf s.mem

/-- A fragment executes only lanes it owns (R102). -/
def Frag.within (f : Frag) : Bool := f.exec &&& ~~~ f.owned == 0

/-- Two fragments own no lane in common (R98). -/
def Frag.apart (f g : Frag) : Bool := f.owned &&& g.owned == 0

/-- The fragments of a running block own disjoint lanes and execute lanes they own. -/
def Diverge.good (d : Diverge) : Bool :=
  d.frags.all (fun f => f.2.within) && d.frags.all fun f => d.frags.all fun g => f.1 == g.1 || f.2.apart g.2

/-- The outcome of a step is a next state. -/
def goesOn : Host.Outcome State Fault Refusal → Bool
  | .next _ => true
  | _ => false

/-! ## One turn -/

/-- The agent that a turn at the head of the agenda names acts in it itself (R104, R105): its time has passed, its scheduler has chosen it, and the
distributor steps that were due are over (R347). `s1` is the state in which it acts. -/
def Begins (s : State) (tn : Turn) (rest : List Turn) (s1 : State) : Prop :=
  ∃ s0, s.agenda = tn :: rest ∧
    schedule { s with stalled := false, cur := none, request := noRequest, message := .silent, agenda := rest } tn = (s0, some tn.who) ∧
    s1 = dueSteps s0 (stepOf tn.who)

/-- The end of a turn in which agent `a` did its work: a stream that has issued is marked (R105), the pages of rows without a spare are dealt with
(R374), a time-out of a unit is over (R382), and a lost journal ring is fatal (R377). -/
def ended (s : State) (a : Agent) (r : Result) : Result :=
  settleFatal s (settleLate s (settleRows (match r with
    | .next t => .next (if t.stalled then t else issued t a)
    | r => r)))

/-- The scalar word at the stream's place has been fetched from a present page, or was built by the translator (R42, R310, R373). -/
def scalarFetched (s : State) (c : Crew) (l : Launch) (s' : State) : Prop :=
  (l.translated = true ∧ readCode s l (crewDev s c) c.die 1 [(4 * c.spc, none)] = (s', false)) ∨
    ∃ s1 pa, l.translated = false ∧ checkHeld s c (l.sBase + w64 (4 * c.spc)) 4 .fetch false = (s1, .ok pa) ∧
      readCode s1 l (crewDev s1 c) c.die 1 [(4 * c.spc, some pa)] = (s', false)

/-- The same of the lane word at the place of a fragment, which may lie on two pages and in two lines. -/
def laneFetched (s : State) (c : Crew) (l : Launch) (fr : Frag) (s' : State) : Prop :=
  let va := l.lBase + w64 (12 * fr.lpc)
  (l.translated = true ∧ readCode s l (crewDev s c) c.die 2 [(12 * fr.lpc, none), (12 * fr.lpc + 11, none)] = (s', false)) ∨
    ∃ s1 ls pa pb, l.translated = false ∧
      checkLanes s c.die c.core (crewDev s c) l.ctx 1 .fetch false [(0, va), (0, va + 11)] = (s1, ls) ∧
      heldOut fr.held ls = [(0, va, .ok pa), (0, va + 11, .ok pb)] ∧
      readCode s1 l (crewDev s1 c) c.die 2 [(12 * fr.lpc, some pa), (12 * fr.lpc + 11, some pb)] = (s', false)

/-! ## Rounding -/

/-- The magnitude `a` rounded to a multiple of `u` in a mode and for a sign, as R54 and R57 name it. -/
def roundedTo (r : Rnd) (neg : Bool) (a u : Nat) : Nat :=
  let lo := a / u * u
  let up : Bool := match r.rm with
    | 0 => u < 2 * (a - lo) ∨ (u = 2 * (a - lo) ∧ a / u % 2 = 1)
    | 1 => false
    | 2 => lo < a ∧ neg = false
    | 3 => lo < a ∧ neg = true
    | _ => r.rb < (a - lo) * 2 ^ 32 / u
  if up then lo + u else lo

/-- The magnitude of a finite value, in units of 2^b. -/
def FVal.amount (b : Int) : FVal → Nat
  | .num _ m e => m * 2 ^ (e - b).toNat
  | _ => 0

/-- The pattern `y` of a format holds the finite value of sign `neg` and magnitude `v` units of 2^b. -/
def Fmt.holds (f : Fmt) (b : Int) (neg : Bool) (v y : Nat) : Prop :=
  y < 2 ^ f.width ∧ ((∃ m e, f.decode y = .num neg m e ∧ b ≤ e ∧ m * 2 ^ (e - b).toNat = v) ∨ (f.decode y = .zero neg ∧ v = 0))

/-! ## Running a word -/

/-- The crew `u`, which is `c`, runs a scalar word. -/
def RunsScalar (s : State) (u : Nat) (c : Crew) : Prop :=
  (∃ k : Cur, s.cur = some k ∧ k.lane = false ∧ k.crew = u) ∧ crewOf s u = some c

/-- It runs one whose registers wait for no data (R119). -/
def ScalarReady (s : State) (u : Nat) (c : Crew) (rs : List SReg) : Prop :=
  RunsScalar s u c ∧ c.free rs = true

/-- The word writes `x` to `s[d]`, and the stream goes on at the next word. -/
def writesNext (s : State) (u : Nat) (c : Crew) (d : SReg) (x : W64) : Result := .next (putCrew s u (c.ws d x).next)

/-- The stream goes on at word `i`. -/
def goesTo (s : State) (u : Nat) (c : Crew) (i : Nat) : Result := .next (putCrew s u (c.goto i))

/-- Two crews agree but for the scalar registers and what a word's end changes: SPC, the pages held, the breakpoint passed, and what a
waiting word had done. -/
def Crew.sameButScalars (a b : Crew) : Prop :=
  b = { a with s := b.s, spc := b.spc, held := b.held, bpPass := b.bpPass, await := b.await }

/-- `s'` is `s` but for crew `u`, which is `c'`: no byte of memory, no other crew, no core and no device changes. -/
def OnlyCrew (s s' : State) (u : Nat) (c' : Crew) : Prop :=
  crewOf s' u = some c' ∧ (∀ v, v ≠ u → crewOf s' v = crewOf s v) ∧ s' = { s with crews := s'.crews }

/-- The same, with the counter of the issue order moved on. -/
def OnlyCrewIssued (s s' : State) (u : Nat) (c' : Crew) : Prop :=
  crewOf s' u = some c' ∧ (∀ v, v ≠ u → crewOf s' v = crewOf s v) ∧
    s' = { s with crews := s'.crews, nextStamp := s'.nextStamp, free := s'.free }

/-- The counter of the issue order moves on by one. -/
def State.issue (s : State) : State := { s with nextStamp := s.nextStamp + 1 }

/-- The check of one address by the present crew (R130, R207), which passes: the state after the walk, and the physical address. -/
def passes (s : State) (c : Crew) (va : W64) (align : Nat) (acc : Acc) (hostBad : Bool) (s1 : State) (pa : Nat) : Prop :=
  checkLane s c.die c.core (crewDev s c) (crewCtx s c) va align acc hostBad = (s1, .ok pa)

/-- The same of a word that may have waited for the page: it has not been refused (R320). -/
def passesHeld (s : State) (c : Crew) (va : W64) (align : Nat) (acc : Acc) (hostBad : Bool) (s1 : State) (pa : Nat) : Prop :=
  passes s c va align acc hostBad s1 pa ∧ refused c.held (va.toNat / 4096) = false

/-- The crew's accesses enter no audit signature (R366, R370). -/
def Crew.unaudited (s : State) (c : Crew) : Prop := ∀ l, crewLaunch s c = some l → l.kernel.audit = false ∨ l.record.auditk = 0

/-- `s'` is `s` but for crew `u`, which is `c'`, and for what the loads of its core have read before their turn (R297; log 7). -/
def OnlyCrewRead (s s' : State) (u : Nat) (c' : Crew) : Prop :=
  crewOf s' u = some c' ∧ (∀ v, v ≠ u → crewOf s' v = crewOf s v) ∧ s' = { s with crews := s'.crews, cores := s'.cores } ∧
    ∀ die core, coreAt s' die core = { coreAt s die core with early := (coreAt s' die core).early }

/-- The store that a scalar word queues for an address of `n` bytes. -/
def scalarStoreEntry (s : State) (c : Crew) (x va : W64) (pa n : Nat) (waits : List PageWait) : StoreEntry :=
  { stamp := s.nextStamp, scalar := true, kind := .plain, space := .global, width := n, ty := .b32, op := 0, rm := 0, p := 0,
    lanes := [{ lane := 0, va := va, pa := pa, data := x, expect := 0, took := none, hi := none }], port := none, word := c.spc,
    slot := 0, block := 0, waits := waits, sent := none, wrote := [] }

/-! ## Writing granules back (R235, R237, R283, R284) -/

/-- A granule of a team is dirty, or is being written back. -/
def Team.unwritten (t : Team) (k : Nat) : Prop := (kgetD t.granules k Granule.empty).st = .dirty ∨ (kgetD t.granules k Granule.empty).st = .writing

/-- No write-back that crew `u` triggered has failed. -/
def Team.blameless (t : Team) (u : Nat) : Prop := ∀ g ∈ t.granules, ∀ f ∈ g.2.fail, f.1 ≠ u

/-- A word of crew `c`, which nothing else holds at `s1`, writes the dirty granules of its team back: `r` is its result, and `ends` says that it ends.
With nothing to write it ends; else it triggers every dirty granule, whose marked sectors are taken as they stand, and waits for them and for those
that are being written. -/
def flushBegins (s1 : State) (u : Nat) (c : Crew) (r : Result) (ends : State → Prop) : Prop :=
  ∀ t, teamOf s1 c.team = some t → t.blameless u →
    ((∀ k, ¬t.unwritten k) → ∃ s2, s2 = { s1 with teams := s2.teams } ∧ teamOf s2 c.team = some t ∧ ends s2) ∧
    (∀ k, t.unwritten k → ∃ s2 t2 todo writing, r = stall (putCrew s2 u { c with await := .flush todo writing }) ∧
      s2 = { s1 with teams := s2.teams } ∧ teamOf s2 c.team = some t2 ∧ ∀ k,
        let g := kgetD t.granules k Granule.empty
        let g' := kgetD t2.granules k Granule.empty
        (g.st = .dirty → k ∈ writing ∧ g'.st = .writing ∧ g'.wb = g.marks ∧ g'.marks = 0 ∧ g'.by_ = some u ∧
          g'.bytes = (scratchRead s1 t (granCore k) (granOff k) 256).1) ∧
        (g.st = .writing → k ∈ todo) ∧ (g.st ≠ .dirty → g' = g))

/-- The word has triggered its granules, and all of them are written: it ends, or raises the failure of the lowest address that one of its write-backs
met. -/
def flushEnds (s : State) (u : Nat) (c : Crew) (r : Result) (ends : State → Prop) : Prop :=
  ∀ t todo writing, c.await = .flush todo writing → teamOf s c.team = some t → (∀ k ∈ todo, ¬t.unwritten k) →
    (∀ k ∈ writing, (kgetD t.granules k Granule.empty).st ≠ .writing) →
    (t.blameless u → ∃ s2, s2 = { s with teams := s2.teams } ∧ teamOf s2 c.team = some t ∧ ends s2) ∧
    (¬t.blameless u → ∃ s2 cause va, r = raiseScalar (putCrew s2 u { c with await := .none }) u cause 3 0 va ∧ s2 = { s with teams := s2.teams } ∧
      (∃ g ∈ t.granules, (u, cause, va) ∈ g.2.fail) ∧ ∀ g ∈ t.granules, ∀ f ∈ g.2.fail, f.1 = u → va.toNat ≤ f.2.2.toNat)

/-! ## Running a lane word -/

/-- A fragment runs a lane word of its block, and `x` is all that the word sees before its own registers and lanes are known. -/
def RunsLane (s : State) (x : LaneCx) : Prop :=
  (∃ k : Cur, s.cur = some k ∧ k.lane = true ∧ k.crew = x.u ∧ k.slot = x.slot ∧ k.word = x.word) ∧ crewOf s x.u = some x.c ∧
    x.c.div.frag x.slot = some x.fr ∧ x.c.laneQ.head? = some x.blk ∧
    (∃ l : Launch, crewLaunch s x.c = some l ∧ x.win = x.fr.win.getD (openWindow l x.fr.lpc)) ∧ x.use = LaneUse.none ∧ x.lset = x.fr.exec

/-- The same once the word's registers and its lane set `m` are known. -/
def LaneCx.of (x : LaneCx) (i : Instr) (m : Crew → Frag → W64) : LaneCx := { x with use := laneUse i, lset := m x.c x.fr }

/-- Nothing is in the way of word `i` (R29, R30, R95, R96, R119, R145): its registers are the crew's, its lane set is not empty, it obeys the
window rules and waits for no load. Lanes of its latches that no word has written take free values (log 11): `x` is what the word then sees, and
`s1` the state that it works on, which is still `s`. Whether the crew may run the word at all is `privDetail`'s. -/
def LaneReady (s : State) (i : Instr) (m : Crew → Frag → W64) (s1 : State) (x : LaneCx) : Prop :=
  s1 = s ∧ ∃ x0 : LaneCx, RunsLane s x0 ∧ (x0.of i m).badReg = false ∧ (x0.of i m).lset ≠ 0 ∧ (x0.of i m).latchError = none ∧
    (x0.of i m).busy = false ∧ x = { x0.of i m with fr := fillLatches x0.latchLeft (m x0.c x0.fr) x0.fr (laneUse i).latches }

/-- The lane set of an unguardable word (R145). -/
def wholeExec (_ : Crew) (fr : Frag) : W64 := fr.exec

/-- Word `i` writes `r` in each lane of its set and raises no flag. -/
def laneGives (s : State) (i : Instr) (w : LaneWord) (r : LaneCx → Nat → W32) : Prop :=
  ∀ s1 x, LaneReady s i (guarded w) s1 x → exec i s = x.writeVec s1 w (lanesFn (r x)) 0

/-- Word `i` writes the predicate `r` in each lane of its set. -/
def laneTests (s : State) (i : Instr) (w : LaneWord) (r : LaneCx → Nat → Bool) : Prop :=
  ∀ s1 x, LaneReady s i (guarded w) s1 x → exec i s = x.writePred s1 w (maskOf (r x))

/-- Word `i` writes a result and raises the flags of the lanes in its set. -/
def laneRounds (s : State) (i : Instr) (w : LaneWord) (r : LaneCx → Nat → Nat × Nat) : Prop :=
  ∀ s1 x, LaneReady s i (guarded w) s1 x →
    exec i s = x.writeVec s1 w (lanesFn fun k => w32 (r x k).1) (lanesFlags x.lset fun k => (r x k).2)

/-- What a 32-bit pattern stands for (R44): a signed number under `.i32`, else an unsigned one. -/
def intOf (w : LaneWord) (a : W32) : Int := if w.ty = .i32 then a.toInt else a.toNat

/-- No fragment of the running block waits at a VSYNC. -/
def Diverge.noVsync (d : Diverge) : Prop := ∀ n f, d.frag n = some f → f.st ≠ .atVsync

/-- The crew waits for no trap, and no fragment of its block waits at a VSYNC. -/
def LaneCx.calm (x : LaneCx) : Prop := x.c.trapping = none ∧ x.c.div.noVsync

/-- The fragment after the present word, at index `i`: what it owns, executes and holds is unchanged. -/
def LaneCx.goesTo (x : LaneCx) (c' : Crew) (i : Nat) : Prop :=
  ∃ f, c'.div.frag x.slot = some f ∧ f.lpc = i ∧ f.owned = x.fr.owned ∧ f.exec = x.fr.exec ∧ f.stack = x.fr.stack ∧ f.stamp = x.fr.stamp ∧
    f.st = x.fr.st

/-- Two crews agree but for the vector registers, predicates, flags and fragments. -/
def Crew.sameButLanes (a b : Crew) : Prop := b = { a with v := b.v, p := b.p, astat := b.astat, div := b.div }

/-- The addresses of a global word's lanes, the index scaled by `sc`, and the physical addresses `pa` that their checks give (R204, R207). -/
def globalLanes (x : LaneCx) (w : LaneWord) (sc : Nat) : List (Nat × W64) := (lanesOf x.lset).map fun k => (k, x.globalVa w sc k)

/-- Every lane of the word passes its checks, and no page of them was refused to it. -/
def lanesPass (s : State) (x : LaneCx) (w : LaneWord) (sc align : Nat) (acc : Acc) (hostBad : Bool) (s1 : State) (pa : Nat → Nat) : Prop :=
  (∀ l ∈ globalLanes x w sc, refused x.fr.held (l.2.toNat / 4096) = false) ∧ checkLanes s x.c.die x.c.core (crewDev s x.c) (crewCtx s x.c) align acc hostBad (globalLanes x w sc) =
    (s1, (globalLanes x w sc).map fun l => (l.1, l.2, .ok (pa l.1)))

/-- The lanes of an access with what each carries. -/
def accLanes (x : LaneCx) (w : LaneWord) (sc : Nat) (pa : Nat → Nat) (data expect : Nat → W64) : List LaneAcc :=
  (lanesOf x.lset).map fun k => laneAcc k (x.globalVa w sc k) (pa k) (data k) (expect k)

/-! ## Requests and commands -/

/-- The mailbox of the present request's function has it to serve, and the firmware runs (R387, R392). -/
def Serving (s : State) : Prop := (devOf s s.request.fn.val).go = true ∧ s.fwUp = true

/-- The memory processor's writes to `n` bytes of a device's memory reach their homes (R386), and none is to time out across the Sound (R382). -/
def Reaches (s : State) (dev pa n : Nat) : Prop :=
  s.late = none ∧ ∀ i, i < n → ∃ k, homeKey dev (pa + i) = some k ∧ responder s (devDie dev) k = false

/-- It names a context of its function's device. -/
def ServingContext (s : State) (c : Context) : Prop :=
  Serving s ∧ ctxOf s (opNat s.request 0) = some c ∧ c.id = opNat s.request 0 ∧ c.dev = s.request.fn

/-- The step answers the present request with a status and results, having reached `t`. -/
def responds (r : Result) (t : State) (status : Nat) (results : List Byte) : Prop := r = .next (respond t status results)

/-- The keys of the entries that hold one page (R308, R309): 16 for a page of 64 KiB. -/
def pageKeys (va shift : Nat) : List Nat :=
  if shift = 16 then (List.range 16).map fun j => pteKey 0 (va + 4096 * j) else [pteKey (shiftLevel shift) va]

/-- The entries `m'` are those of `m` with `f` applied to the entries of some pages. -/
def pagesChanged (m m' : KMap W64) (pages : List (Nat × Nat)) (f : W64 → W64) : Prop :=
  (∀ p ∈ pages, ∀ k ∈ pageKeys p.1 p.2, kget m' k = (kget m k).map f) ∧
    ∀ k, (∀ p ∈ pages, k ∉ pageKeys p.1 p.2) → kget m' k = kget m k

end Sys2Proof.Machine
end

