-- ==== Sys2Proof/Certificates/Slice0/Obligations.lean ====
section
/-!
DEFINITION. The statements for the provers. Each docstring names the rules of spec/ that its statement formalises, or the log entry where a
clause is the model's own choice.
-/

open Sys2Proof Sys2Proof.Machine

/-! ## Scalar words that compute (R119 to R124) -/

/-- R120 and the cases of R45: what each ALU word writes, in terms of the integers its registers stand for. -/
def Obligations.ScalarAluWordsWriteTheirResults : Prop :=
  ∀ (s : State) (u : Nat) (c : Crew) (d a b : SReg), ScalarReady s u c [d, a, b] →
    let x := c.rs a
    let y := c.rs b
    let k := y.toNat % 64
    let done := writesNext s u c d
    exec (.add d a b) s = done (x + y) ∧ exec (.sub d a b) s = done (x - y) ∧
    exec (.andd d a b) s = done (x &&& y) ∧ exec (.orr d a b) s = done (x ||| y) ∧ exec (.xor d a b) s = done (x ^^^ y) ∧
    exec (.shl d a b) s = done (BitVec.ofNat 64 (x.toNat * 2 ^ k)) ∧
    exec (.shr d a b) s = done (BitVec.ofNat 64 (x.toNat / 2 ^ k)) ∧
    exec (.sra d a b) s = done (BitVec.ofInt 64 (x.toInt / 2 ^ k)) ∧
    exec (.slt d a b) s = done (if x.toInt < y.toInt then 1 else 0) ∧
    exec (.sltu d a b) s = done (if x.toNat < y.toNat then 1 else 0) ∧
    exec (.min d a b) s = done (BitVec.ofInt 64 (Min.min x.toInt y.toInt)) ∧
    exec (.max d a b) s = done (BitVec.ofInt 64 (Max.max x.toInt y.toInt)) ∧
    exec (.minu d a b) s = done (BitVec.ofNat 64 (Min.min x.toNat y.toNat)) ∧
    exec (.maxu d a b) s = done (BitVec.ofNat 64 (Max.max x.toNat y.toNat)) ∧
    exec (.mul d a b) s = done (BitVec.ofNat 64 (x.toNat * y.toNat)) ∧
    exec (.mulh d a b) s = done (BitVec.ofInt 64 (x.toInt * y.toInt / 2 ^ 64)) ∧
    exec (.mulhu d a b) s = done (BitVec.ofNat 64 (x.toNat * y.toNat / 2 ^ 64)) ∧
    exec (.div d a b) s = done (if y = 0 then BitVec.allOnes 64 else BitVec.ofInt 64 (x.toInt.tdiv y.toInt)) ∧
    exec (.divu d a b) s = done (if y = 0 then BitVec.allOnes 64 else BitVec.ofNat 64 (x.toNat / y.toNat)) ∧
    exec (.rem d a b) s = done (if y = 0 then x else BitVec.ofInt 64 (x.toInt.tmod y.toInt)) ∧
    exec (.remu d a b) s = done (if y = 0 then x else BitVec.ofNat 64 (x.toNat % y.toNat)) ∧
    exec (.addw d a b) s = done (((x + y).truncate 32).signExtend 64) ∧
    exec (.subw d a b) s = done (((x - y).truncate 32).signExtend 64)

/-- R121 to R124: what the immediate forms, SHI, and the words of one and of three sources write. -/
def Obligations.OtherScalarWordsWriteTheirResults : Prop :=
  (∀ (s : State) (u : Nat) (c : Crew) (d a : SReg) (i : Imm13) (k : Fin 64) (j : BitVec 19), ScalarReady s u c [d, a] →
     let x := c.rs a
     let n : W64 := i.signExtend 64
     let done := writesNext s u c d
     exec (.addi d a i) s = done (x + n) ∧ exec (.andi d a i) s = done (x &&& n) ∧ exec (.ori d a i) s = done (x ||| n) ∧
     exec (.xori d a i) s = done (x ^^^ n) ∧ exec (.shli d a k) s = done (BitVec.ofNat 64 (x.toNat * 2 ^ k.val)) ∧
     exec (.shri d a k) s = done (BitVec.ofNat 64 (x.toNat / 2 ^ k.val)) ∧
     exec (.srai d a k) s = done (BitVec.ofInt 64 (x.toInt / 2 ^ k.val)) ∧
     exec (.slti d a i) s = done (if x.toInt < i.toInt then 1 else 0) ∧
     exec (.sltiu d a i) s = done (if x.toNat < n.toNat then 1 else 0) ∧
     exec (.shi d j) s = done (BitVec.ofNat 64 ((c.rs d).toNat * 2 ^ 19 + j.toNat)) ∧
     encode (.shi d j) = some (32, 0x16000000 + d.val * 2 ^ 19 + j.toNat)) ∧
  (∀ (s : State) (u : Nat) (c : Crew) (d a b e : SReg) (k : Fin 8), ScalarReady s u c [d, a, b, e] →
     let x := c.rs a
     let done := writesNext s u c d
     (∃ k : Nat, k ≤ 64 ∧ exec (.clz d a) s = done (BitVec.ofNat 64 k) ∧ (∀ i < k, x.getLsbD (63 - i) = false) ∧ (k < 64 → x.getLsbD (63 - k) = true)) ∧
     (∃ k : Nat, k ≤ 64 ∧ exec (.ctz d a) s = done (BitVec.ofNat 64 k) ∧ (∀ i < k, x.getLsbD i = false) ∧ (k < 64 → x.getLsbD k = true)) ∧
     exec (.popc d a) s = done (BitVec.ofNat 64 ((List.range 64).filter fun i => x.getLsbD i).length) ∧
     (∃ v : W64, exec (.brev d a) s = done v ∧ ∀ i < 64, v.getLsbD i = x.getLsbD (63 - i)) ∧
     exec (.sextb d a) s = done ((x.truncate 8).signExtend 64) ∧ exec (.sexth d a) s = done ((x.truncate 16).signExtend 64) ∧
     exec (.sextw d a) s = done ((x.truncate 32).signExtend 64) ∧ exec (.zextw d a) s = done ((x.truncate 32).zeroExtend 64) ∧
     exec (.madd d a b e) s = done (x * c.rs b + c.rs e) ∧
     exec (.addsh d a b k) s = done (BitVec.ofNat 64 (x.toNat + (c.rs b).toNat * 2 ^ k.val)) ∧
     exec (.sel d a b e) s = done (if c.rs e = 0 then c.rs b else x))

/-! ## Control transfer (R125 to R129) -/

/-- R125 to R129: a taken branch goes to SPC + sext(disp13), one that is not taken to SPC + 1 without a check; BRA, CALL, JMPR and LOOP; s62 or s[d] takes
SPC + 1, LOOP tests the decremented value; a target outside `.scode` raises ILLEGAL with detail 3 and no register is written. -/
def Obligations.ControlTransfersGoWhereTheyShould : Prop :=
  (∀ (s : State) (u : Nat) (c : Crew) (a b : SReg) (i : Imm13), ScalarReady s u c [a, b] →
     let x := c.rs a
     let y := c.rs b
     let t : Int := c.spc + i.toInt
     let go : Prop → Result → Prop := fun taken r =>
       (¬taken → r = goesTo s u c (c.spc + 1)) ∧ (taken → 0 ≤ t → t < scodeSize s c → r = goesTo s u c t.toNat) ∧
       (taken → t < 0 ∨ (scodeSize s c : Int) ≤ t → r = raiseScalar s u 0x01 3 0 0)
     go (x = y) (exec (.beq a b i) s) ∧ go (x ≠ y) (exec (.bne a b i) s) ∧
     go (x.toInt < y.toInt) (exec (.blt a b i) s) ∧ go (y.toInt ≤ x.toInt) (exec (.bge a b i) s) ∧
     go (x.toNat < y.toNat) (exec (.bltu a b i) s) ∧ go (y.toNat ≤ x.toNat) (exec (.bgeu a b i) s)) ∧
  (∀ (s : State) (u : Nat) (c : Crew) (d a : SReg) (i : Imm13) (j : BitVec 25), RunsScalar s u c →
     let size : Int := scodeSize s c
     let n := c.rs a - 1
     let link : W64 := BitVec.ofNat 64 (c.spc + 1)
     let go : Int → Crew → Result → Prop := fun t c' r =>
       (0 ≤ t → t < size → r = goesTo s u c' t.toNat) ∧ (t < 0 ∨ size ≤ t → r = raiseScalar s u 0x01 3 0 0)
     go (c.spc + j.toInt) c (exec (.bra j) s) ∧
     (c.free [62] = true → go (c.spc + j.toInt) (c.ws 62 link) (exec (.call j) s)) ∧
     (c.free [d, a] = true → go (c.rs a + i.signExtend 64).toNat (c.ws d link) (exec (.jmpr d a i) s)) ∧
     (c.free [a] = true → n ≠ 0 → go (c.spc + i.toInt) (c.ws a n) (exec (.loopDec a i) s)) ∧
     (c.free [a] = true → n = 0 → exec (.loopDec a i) s = goesTo s u (c.ws a n) (c.spc + 1))) ∧
  (∀ (a b : SReg) (i : Imm13) (j : BitVec 25),
     let word := fun op : Nat => some (32, op + a.val * 2 ^ 19 + b.val * 2 ^ 13 + i.toNat)
     encode (.beq a b i) = word 0x20000000 ∧ encode (.bne a b i) = word 0x22000000 ∧ encode (.blt a b i) = word 0x24000000 ∧
     encode (.bge a b i) = word 0x26000000 ∧ encode (.bltu a b i) = word 0x28000000 ∧ encode (.bgeu a b i) = word 0x2A000000 ∧
     encode (.jmpr a b i) = word 0x30000000 ∧ encode (.bra j) = some (32, 0x2C000000 + j.toNat) ∧
     encode (.call j) = some (32, 0x2E000000 + j.toNat) ∧ encode (.loopDec a i) = some (32, 0x32000000 + a.val * 2 ^ 19 + i.toNat))

/-- R86, R119: a scalar word that writes a register changes no byte of memory, no other crew, no other register and no special register of
its crew; SPC goes on by one; s0 reads 0 and a write to it is discarded. -/
def Obligations.ScalarWritesLeaveTheRest : Prop :=
  ∀ (s : State) (u : Nat) (c : Crew) (d : SReg) (x : W64), crewOf s u = some c →
    ∃ s' c', writesNext s u c d x = .next s' ∧ OnlyCrew s s' u c' ∧ c.sameButScalars c' ∧ c'.spc = c.spc + 1 ∧ s'.mem = s.mem ∧
      (∀ r : SReg, c'.rs r = if r = d ∧ d ≠ 0 then x else c.rs r) ∧ c'.rs 0 = 0

/-! ## Scalar memory words (R130 to R138) -/

/-- R130, R132, R133, R316, R318, R320: SLDB, SLDH, SLDW, SLDD and SLDK. On a missing page SLDD writes one fault record, once, and waits; once it
was refused it raises PAGE, detail 8. An address with bits [63:56] set raises PAGE, detail 0, one off its alignment
ALIGN, each with the address in TADDR; a load that the crew's own log covers completes at once; one whose page is present is issued, once no
atomic or reduction of the crew's own stands in its bytes before the port, and its register keeps its value until the data returns.
Model choices: log 37 (ACCESS of the record). -/
def Obligations.ScalarLoadsAreIssued : Prop :=
  ∀ (s : State) (u : Nat) (c : Crew) (d a : SReg) (i : Imm13), ScalarReady s u c [d, a] →
    let va := c.rs a + i.signExtend 64
    let issues : State → Nat → Nat → Space → Bool → Result := fun s1 pa n sp fresh =>
      .next (putCrew s1.issue u { c with loads := c.loads ++ [scalarPending c s1.nextStamp d va pa n sp .zero none 0 0 fresh] }.next)
    let run : Nat → Result → Prop := fun n r =>
      (2 ^ 56 ≤ va.toNat → r = raiseScalar s u 0x0B 0 0 va) ∧
      (va.toNat < 2 ^ 56 → va.toNat % n ≠ 0 → r = raiseScalar s u 0x0A 0 0 va) ∧
      (∀ bs, va.toNat < 2 ^ 56 → va.toNat % n = 0 → loggedAll c s.nextStamp va.toNat n = some bs → r = writesNext s u c d (w64 (leNat bs))) ∧
      (∀ s1 pa, loggedAll c s.nextStamp va.toNat n = none → passesHeld s c va n .load false s1 pa → c.blindStore pa n = false →
        r = issues s1 pa n .global false)
    (c.acquiring = false → run 1 (exec (.sldb d a i) s) ∧ run 2 (exec (.sldh d a i) s) ∧ run 4 (exec (.sldw d a i) s) ∧
      run 8 (exec (.sldd d a i) s)) ∧
    (∀ s1 pa, passesHeld s c va 8 .load false s1 pa → exec (.sldk d a i) s = issues s1 pa 8 .constant (0 < c.cfence)) ∧
    (∀ s1, c.acquiring = false → loggedAll c s.nextStamp va.toNat 8 = none →
      checkLane s c.die c.core (crewDev s c) (crewCtx s c) va 8 .load false = (s1, .absent) →
      let vp := va.toNat / 4096
      (refused c.held vp = true → exec (.sldd d a i) s = raiseScalar s1 u 0x0B 8 0 va) ∧
      (refused c.held vp = false → waiting c.held vp = true → exec (.sldd d a i) s = stall (modCrew s1 u fun k => { k with held := c.held })) ∧
      (∀ s2, refused c.held vp = false → waiting c.held vp = false →
        writeRecords s1 (crewCtx s1 c) (crewRecords c false c.spc accLoad 0 [(vp, 0)]) = some s2 →
        exec (.sldd d a i) s = stall (modCrew s2 u fun k =>
          { k with held := c.held.filter (fun h => h.vp ≠ vp) ++ [{ vp := vp, answer := none }] })))

/-- R130, R132, R201: the data of the crew's oldest scalar load, if it carries no error, goes to its register zero-extended, and nothing
else of the crew and no byte of memory changes.
Model choices: logs 7 and 8 (the moment at which a load is performed, and what the core's loads have read before it). -/
def Obligations.LoadDataReachesTheRegister : Prop :=
  ∀ (s : State) (u : Nat) (c : Crew) (p : PendingLoad) (ps : List PendingLoad) (l : LaneAcc) (bs : List Byte), crewOf s u = some c →
    c.loads = p :: ps → p.scalar = true → p.lanes = [l] → l.lane = 0 → p.space = .global → p.atom = none → p.ext = .zero → c.trapping = none →
    loadReady s c p l = true → soundGone s c p.sent [l] = false → loadBytes s c p.stamp l.va.toNat l.pa p.width = (s, bs, false) →
      ∃ s' c', exec (.loadDataReturn u 0 1) s = .next s' ∧ OnlyCrewRead s s' u c' ∧
        c' = { c.ws (Fin.ofNat 64 p.reg) (w64 (leNat bs % 2 ^ (8 * p.width))) with loads := ps }

/-- R201, R317: SSTB, SSTH, SSTW and SSTD queue the low bytes of s[d] for their address; behind a side log that holds an entry, or on a page
that is missing, the store retires into the log, which has 64 entries, and a missing page gets its fault record (R320).
Model choices: log 37 (ACCESS of the record). -/
def Obligations.ScalarStoresAreQueued : Prop :=
  ∀ (s : State) (u : Nat) (c : Crew) (d a : SReg) (i : Imm13), ScalarReady s u c [d, a] → c.acquiring = false →
    let va := c.rs a + i.signExtend 64
    let run : Nat → Result → Prop := fun n r =>
      (∀ s1 pa, passes s c va n .store false s1 pa → c.sideLog = [] →
        r = .next (putCrew s1.issue u { c with storeQ := c.storeQ ++ [scalarStoreEntry s1 c (c.rs d) va pa n []] }.next)) ∧
      (∀ s1 pa, passes s c va n .store false s1 pa → c.sideLog ≠ [] → c.sideLog.length < 64 →
        r = .next (putCrew s1.issue u { c with sideLog := c.sideLog ++ [scalarStoreEntry s1 c (c.rs d) va pa n []] }.next)) ∧
      (∀ s1 s2, checkLane s c.die c.core (crewDev s c) (crewCtx s c) va n .store false = (s1, .absent) → c.sideLog.length < 64 →
        writeRecords s1 (crewCtx s c) (crewRecords c false c.spc accStore 0 [(va.toNat / 4096, 0)]) = some s2 →
        r = .next (putCrew s2.issue u { c with sideLog := c.sideLog ++
          [scalarStoreEntry s2 c (c.rs d) va 0 n [{ vp := va.toNat / 4096, answer := none }]] }.next))
    run 1 (exec (.sstb d a i) s) ∧ run 2 (exec (.ssth d a i) s) ∧ run 4 (exec (.sstw d a i) s) ∧ run 8 (exec (.sstd d a i) s)

/-- R296: the home of a queued store takes its bytes, and no other byte of memory changes. The home is in no poison responder, the
team is neither audited nor a replay, and a request across the Sound has not timed out.
Model choices: logs 8 and 16. -/
def Obligations.StoresReachTheirHomes : Prop :=
  ∀ (s : State) (u : Nat) (c : Crew) (e : StoreEntry) (es : List StoreEntry) (l : LaneAcc) (k : Nat), crewOf s u = some c →
    c.storeQ = e :: es → e.lanes = [l] → l.lane = 0 → e.space = .global → e.kind = .plain → e.port.isSome = true → storeReady s c e = true →
    (e.width = 1 ∨ e.width = 2 ∨ e.width = 4 ∨ e.width = 8) → l.pa % e.width = 0 →
    homeKey (crewDev s c) l.pa = some k → responder s c.die k = false → replayTeam s (some c.team) = none → c.unaudited s →
    soundGone s c e.sent [l] = false →
      ∃ s' c', exec (.storePerformed u 0 1) s = .next s' ∧ crewOf s' u = some c' ∧ c'.storeQ = es ∧ c'.s = c.s ∧ c'.spc = c.spc ∧
        ∀ a, cellsGet s'.mem a = if k ≤ a ∧ a < k + e.width then BitVec.ofNat 8 (l.data.toNat / 2 ^ (8 * (a - k))) else cellsGet s.mem a

/-- R319: the oldest entry of the side log is performed at its home once the store queue before it is empty and its pages have been
answered, and leaves the log. -/
def Obligations.SideLogIsReplayedInOrder : Prop :=
  ∀ (s : State) (u : Nat) (c : Crew) (e : StoreEntry) (es : List StoreEntry) (l : LaneAcc) (s1 : State) (pa : Nat), crewOf s u = some c →
    c.sideLog = e :: es → c.storeQ = [] → e.lanes = [l] → e.kind = .plain → waitsAnswered e.waits = true →
    refused e.waits (l.va.toNat / 4096) = false → storeReady s c e = true → passes s c l.va e.width .store false s1 pa →
    crewOf s1 u = some c → c.discard = none →
      exec (.sideLogReplay u) s =
        .next (modCrew (healStore (performLane s1 c e { l with pa := pa }) u e [{ l with pa := pa }]).1 u fun c => { c with sideLog := es })

/-- R134 to R138, R201: SATOM and SCAS wait while an acquire is pending, while the side log holds an entry and until the port has taken the crew's
stores; else the operation is issued with its operands. When its turn comes it is performed at the home: s[d] takes the old value, the home
the new one (SCAS: where the old value is the one expected), and no other byte of memory changes; one that was performed before its turn
(log 7) brings the value it took then. The home is in no poison responder and delivers no error, the team is neither audited nor a replay, and a
request across the Sound has not timed out.
Model choices: logs 7, 8 and 49 (the moment). -/
def Obligations.ScalarAtomicsAreIssued : Prop :=
  (∀ (s : State) (u : Nat) (c : Crew) (d a b : SReg) (ord : Bool) (scope : Fin 4) (w : Bool) (op : Fin 8) (s1 : State) (pa : Nat),
    ScalarReady s u c [d, a, b] →
    let n := if w then 8 else 4
    let waits := c.sideLog ≠ [] ∨ c.portClear = false
    let issued : AtomOp → State := fun o =>
      putCrew s1.issue u { c with loads := c.loads ++
        [scalarPending c s1.nextStamp d (c.rs a) pa n .global .zero (some o) (c.rs b) (c.rs d) false] }.next
    (c.acquiring = true → exec (.satom d a b ord scope w op) s = stall s ∧ exec (.scas d a b ord scope w) s = stall s) ∧
    (c.acquiring = false → passesHeld s c (c.rs a) n .atomic (op != 0 && op != 3) s1 pa →
      (waits → exec (.satom d a b ord scope w op) s = stall s1) ∧
      (¬waits → exec (.satom d a b ord scope w op) s = .next (issued { cas := false, op := op.val, ord := ord, scope := scope.val }))) ∧
    (c.acquiring = false → passesHeld s c (c.rs a) n .atomic false s1 pa →
      (waits → exec (.scas d a b ord scope w) s = stall s1) ∧
      (¬waits → exec (.scas d a b ord scope w) s = .next (issued { cas := true, op := 0, ord := ord, scope := scope.val })))) ∧
  (∀ (s : State) (u : Nat) (c : Crew) (p : PendingLoad) (ps : List PendingLoad) (a : AtomOp) (l : LaneAcc) (k : Nat) (bs : List Byte),
    crewOf s u = some c → c.loads = p :: ps → p.scalar = true → p.space = .global → p.ext = .zero → p.atom = some a → p.lanes = [l] → l.lane = 0 →
    c.trapping = none → loadReady s c p l = true → soundGone s c p.sent [l] = false →
      let returns := fun (t : State) (v : W64) => ∃ c', exec (.loadDataReturn u 0 1) s = .next t ∧ crewOf t u = some c' ∧ c'.loads = ps ∧ c'.spc = c.spc ∧
        c'.s = (c.ws (Fin.ofNat 64 p.reg) v).s
      let old := leNat bs
      let takes := a.cas = false ∨ old = l.expect.toNat % 2 ^ (8 * p.width)
      let new := if a.cas then l.data.toNat else atomNew a.op (8 * p.width) old l.data.toNat
      (l.took = none → (p.width = 4 ∨ p.width = 8) → l.pa % p.width = 0 → homeKey (crewDev s c) l.pa = some k → responder s c.die k = false →
        replayTeam s (some c.team) = none → c.unaudited s → readHome s (some c.team) (crewDev s c) c.die l.pa p.width = (s, bs, false) →
        ∃ s', returns s' (if a.cas then w64 old else atomOld a.op (8 * p.width) old) ∧
          ∀ x, cellsGet s'.mem x = if takes ∧ k ≤ x ∧ x < k + p.width then BitVec.ofNat 8 (new / 2 ^ (8 * (x - k))) else cellsGet s.mem x) ∧
      (∀ v, l.took = some (v, false) → ∃ s', returns s' v ∧ s'.mem = s.mem))

/-- R135: the new value of each atomic operation, and the returned old value, in 32 and 64 bits. -/
def Obligations.AtomicOperationsComputeTheirResults : Prop :=
  ∀ n, n = 32 ∨ n = 64 → ∀ x y : BitVec n,
    let new := fun op => BitVec.ofNat n (atomNew op n x.toNat y.toNat)
    new 0 = x + y ∧ new 1 = x &&& y ∧ new 2 = x ||| y ∧ new 3 = y ∧
    (new 4).toInt = Min.min x.toInt y.toInt ∧ (new 5).toInt = Max.max x.toInt y.toInt ∧
    (new 6).toNat = Min.min x.toNat y.toNat ∧ (new 7).toNat = Max.max x.toNat y.toNat ∧
    (∀ op, atomNew op n x.toNat y.toNat < 2 ^ n) ∧
    (∀ op, op < 8 → atomOld op n x.toNat = if op = 4 ∨ op = 5 then x.signExtend 64 else x.zeroExtend 64)

/-! ## Special registers and lane blocks (R80, R81, R116, R139 to R144) -/

/-- R67, R83, R116, R139, R140: SRD gives the register as it stands and SWR writes it; an unlisted number raises RESFIELD; SRD of ASTAT, and SWR
of ASTAT, SKEW and the tile registers, wait for the lane blocks.
R65, R111, R116, R183, R250: which bits of each special register a write changes; every other special register keeps its value.
R4, R5, R31, R37, R38, R116, R189: what the registers read that no word writes.
Model choices: log 30 (TLPC) and log 71: that a write to TSPC, TLPC, TEXEC, TINFO.SKIP or TSPLIT0 to TSPLIT7 reads back outside handler mode, where
R117 gives it no effect, is the model's choice. -/
def Obligations.SpecialRegistersAreReadAndWritten : Prop :=
  (∀ (s : State) (u : Nat) (c : Crew) (d a : SReg) (x : Fin 256), ScalarReady s u c [d, a] →
     (specialListed x.val = false → exec (.srd d x) s = raiseScalar s u 0x02 0 0 0) ∧
     (specialListed x.val = true → x ≠ 0x09 → exec (.srd d x) s = writesNext s u c d (readSpecial s c x.val)) ∧
     (x = 0x09 → c.laneQ = [] → exec (.srd d x) s = writesNext s u { c with synced := c.nextBlock - 1 } d c.astat) ∧
     (x = 0x09 → c.laneQ ≠ [] → exec (.srd d x) s = stall s) ∧
     let waits := x = 0x09 ∨ x = 0x0D ∨ (0x40 ≤ x.val ∧ x.val ≤ 0x4F)
     (specialListed x.val = false → exec (.swr a x) s = raiseScalar s u 0x02 0 0 0) ∧
     (specialListed x.val = true → ¬waits → exec (.swr a x) s = .next (putCrew s u (c.writeSpecial x.val (c.rs a)).next)) ∧
     (waits → c.laneQ = [] →
       exec (.swr a x) s = .next (putCrew s u ({ c with synced := c.nextBlock - 1 }.writeSpecial x.val (c.rs a)).next)) ∧
     (waits → c.laneQ ≠ [] → exec (.swr a x) s = stall s)) ∧
  (∀ (s : State) (c : Crew) (x y : Nat) (v : W64),
     let c' := c.writeSpecial x v
     let back := fun z : W64 => readSpecial s c' x = z
     (x = 0x09 → back (v &&& 0x13F)) ∧ (x = 0x0D → back (v &&& 0x3FFFFFFFFFFFF)) ∧ (x = 0x18 ∨ x = 0x19 → back v) ∧
     (x = 0x21 → back (v &&& 0x3FFFFF)) ∧
     (x = 0x22 → back (if v &&& 0xFFFFFFFF = 0xFFFFFFFF then 0xFFFFFFFF else v &&& 0x3FFFFF)) ∧
     (x = 0x23 → back v) ∧ (x = 0x25 → back ((c.tinfo &&& 0xFFFFFFFFFFFFFFFE) ||| (v &&& 1))) ∧ (x = 0x27 → back (v &&& 0x80000000003FFFFF)) ∧
     (0x28 ≤ x → x ≤ 0x2F → back v) ∧ (0x40 ≤ x → x ≤ 0x4F → back (v &&& 0xFFFFFFFFFFFF)) ∧
     (x ∉ [0x09, 0x0D, 0x18, 0x19, 0x21, 0x22, 0x23, 0x25, 0x27] → ¬(0x28 ≤ x ∧ x ≤ 0x2F) → ¬(0x40 ≤ x ∧ x ≤ 0x4F) → c' = c) ∧
     (y ≠ x → readSpecial s c' y = readSpecial s c y)) ∧
  (∀ (s : State) (c : Crew) (t : Team) (l : Launch) (k : Context) (n : Fin 8), teamOf s c.team = some t → crewLaunch s c = some l →
     ctxOf s (crewCtx s c) = some k →
     let reads := fun (x : Nat) (v : Nat) => readSpecial s c x = BitVec.ofNat 64 v
     reads 0x00 c.index ∧ reads 0x01 t.index ∧ reads 0x02 (l.kernel.crews + 2 ^ 16 * l.kernel.shape) ∧ reads 0x03 l.record.grid ∧ reads 0x04 c.role ∧
     reads 0x05 (c.core + 2 ^ 8 * (coreAt s c.die c.core).phys) ∧ reads 0x06 c.die ∧ reads 0x07 s.reftime ∧
     readSpecial s c 0x08 = (coreAt s c.die c.core).cycles ∧ reads 0x0A k.fairt ∧ reads 0x0C k.pdead ∧ (t.reqReason = 0 → reads 0x0B 0) ∧
     reads 0x10 0xFFFFFFFFFFFFFFFF ∧ reads 0x11 0xFFFFFFFF ∧ (2 ≤ n.val → reads (0x10 + n.val) 0) ∧ readSpecial s c 0x1A = l.record.dataVa ∧
     readSpecial s c 0x1B = l.record.constVa ∧ readSpecial s c 0x1C = c.tword[0] ∧ readSpecial s c 0x1D = c.tword[1] ∧
     readSpecial s c 0x20 = c.tcause ∧ readSpecial s c 0x24 = c.tfmask ∧ readSpecial s c 0x26 = c.taddr ∧
     readSpecial s c (0x30 + n.val) = (c.cc[n].done).zeroExtend 64 ∧ readSpecial s c (0x38 + n.val) = (c.cc[n].issued).zeroExtend 64)

/-- R80, R81, R141 to R144: a block with no fragment left completes once the data of its loads has returned, and the next one starts. LRUN and LRUNR put a block with its snapshot at the end of the queue, and start it when it is alone there;
an index outside `.lcode` raises ILLEGAL, detail 3. LSYNC, SGETP and SGETV run once the queue is empty. -/
def Obligations.LaneBlocksAreEnqueued : Prop :=
  ∀ (s : State) (u : Nat) (c : Crew) (a d : SReg) (i : BitVec 22) (p : Fin 16) (v : Fin 256), RunsScalar s u c →
    let block := fun start : Nat => c.newBlock start s.nextStamp
    let joins : Nat → Result → Prop := fun start r =>
      (lcodeSize s c ≤ start → r = raiseScalar s u 0x01 3 0 0) ∧
      (start < lcodeSize s c → c.laneQ.length < c.queueDepth → c.windowLoad = false → c.windowReply = false →
        ∃ s' c', r = .next s' ∧ OnlyCrewIssued s s' u c' ∧ c'.laneQ = c.laneQ ++ [block start] ∧ (block start).start = start ∧
          (∀ k : Fin 15, (block start).snap[k] = c.s[k.val + 1]) ∧ c'.spc = c.spc + 1 ∧ c'.s = c.s ∧
          (c.laneQ = [] → (∃ f, c'.div.frag 0 = some f ∧ f.owned = allLanes ∧ f.exec = allLanes ∧ f.lpc = start ∧ f.stack = []) ∧
            ∀ n, 0 < n → c'.div.frag n = none))
    let synced := { c with synced := c.nextBlock - 1 }
    joins i.toNat (exec (.lrun false i) s) ∧ (c.free [a] = true → joins (c.rs a).toNat (exec (.lrunr false a) s)) ∧
    (c.laneQ ≠ [] → exec (.lrun true i) s = stall s ∧ exec .lsync s = stall s) ∧
    (c.laneQ = [] → exec (.lrun true i) s = enqueueBlock s u synced i.toNat ∧ exec .lsync s = .next (putCrew s u synced.next)) ∧
    (c.laneQ = [] → c.free [d] = true → exec (.sgetp d p) s = writesNext s u synced d (c.rp p.val)) ∧
    (c.owns v.val = false → exec (.sgetv d a v) s = raiseScalar s u 0x02 0 0 0) ∧
    (c.owns v.val = true → c.laneQ = [] → c.free [d, a] = true →
      exec (.sgetv d a v) s = writesNext s u synced d ((laneGet (c.rv v.val) ((c.rs a).toNat % 64)).zeroExtend 64)) ∧
    (∀ b bs, c.blockOver = true → c.laneQ = b :: bs →
      ∃ s' c', exec (.laneBlockComplete u) s = .next s' ∧ OnlyCrewIssued s s' u c' ∧ c'.laneQ = bs ∧ c'.s = c.s ∧ c'.v = c.v ∧ c'.p = c.p ∧
        c'.div.serial = [] ∧ (bs = [] → ∀ n, c'.div.frag n = none) ∧
        (∀ b' bs', bs = b' :: bs' → ∃ f, c'.div.frag 0 = some f ∧ f.lpc = b'.start ∧ f.owned = allLanes ∧ f.exec = allLanes))

/-! ## Lane words (R92 to R97, R145, R146) -/

/-- R29, R30, R95, R96, R119, R145, R244: before a lane word acts, a register outside the allocation raises RESFIELD, a word that its crew may not run
raises PRIV, an empty lane set makes it do nothing, a broken window rule or an invalid latch raises LATCH, and a register whose load has not returned makes it wait.
Model choices: log 11 (latch lanes that nothing wrote). -/
def Obligations.LaneWordsAreGated : Prop :=
  ∀ (s : State) (i : Instr) (m : Crew → Frag → W64) (f : State → LaneCx → Result) (x : LaneCx), RunsLane s x →
    let y := x.of i m
    (y.badReg = true → laneWord s i m f = y.raise s 0x02 0 0 allLanes 0) ∧
    (∀ d, y.badReg = false → privDetail y.c i = some d → laneWord s i m f = y.raise s 0x04 d 0 allLanes 0) ∧
    (y.badReg = false → privDetail y.c i = none → y.lset = 0 → laneWord s i m f = y.finish s y.c) ∧
    (∀ d b, y.badReg = false → privDetail y.c i = none → y.lset ≠ 0 → y.latchError = some (d, b) →
      laneWord s i m f = y.raise s 0x09 d b allLanes 0) ∧
    (y.badReg = false → privDetail y.c i = none → y.lset ≠ 0 → y.latchError = none → y.busy = true → laneWord s i m f = stall s)

/-- R88, R92, R93, R95, R146: a vector result goes to vd in the lanes of the set unless WS = 1, and to its latch while the window lasts; other
lanes, registers and latches keep their values, and so does everything outside the crew.
R88, R149: a predicate result is written in the lanes of the set; p0 keeps its ones, and nothing else of the crew but the fragment's
place changes. -/
def Obligations.LaneResultsAreWritten : Prop :=
  (∀ (s : State) (x : LaneCx) (w : LaneWord) (d : Lanes) (flags : Nat), crewOf s x.u = some x.c → x.c.trapping = none → x.slot < 8 →
     ∃ s' c' f, x.writeVec s w d flags = .next s' ∧ OnlyCrew s s' x.u c' ∧ x.c.sameButLanes c' ∧ c'.p = x.c.p ∧
       c'.astat = x.c.astat ||| BitVec.ofNat 64 (flags % 64) ∧
       (∀ n k, k < 64 → laneGet (c'.rv n) k = if n = w.vd.val ∧ w.ws = false ∧ x.lset.getLsbD k then laneGet d k else laneGet (x.c.rv n) k) ∧
       c'.div.frag x.slot = some f ∧ (∀ n, n ≠ x.slot → c'.div.frag n = x.c.div.frag n) ∧ x.goesTo c' (x.fr.lpc + 1) ∧
       (x.win.done + 1 < x.win.len → (∀ b, b < 4 → f.latchOk.getLsbD b = (x.fr.latchOk.getLsbD b || b = w.ld.val)) ∧
         ∀ b k, b < 4 → k < 64 → laneGet (vget f.latch b zeroLanes) k =
           if b = w.ld.val ∧ x.lset.getLsbD k then laneGet d k else laneGet (vget x.fr.latch b zeroLanes) k) ∧
       (x.win.len ≤ x.win.done + 1 → f.latchOk = 0 ∧ f.win = none)) ∧
  (∀ (s : State) (x : LaneCx) (w : LaneWord) (d : W64), crewOf s x.u = some x.c → x.c.trapping = none → x.slot < 8 →
     ∃ s' c', x.writePred s w d = .next s' ∧ OnlyCrew s s' x.u c' ∧ x.c.sameButLanes c' ∧ c'.v = x.c.v ∧ c'.astat = x.c.astat ∧
       (∀ n k, n < 16 → k < 64 →
         (c'.rp n).getLsbD k = if n = w.vd.val ∧ n ≠ 0 ∧ x.lset.getLsbD k then d.getLsbD k else (x.c.rp n).getLsbD k) ∧
       c'.rp 0 = allLanes ∧ x.goesTo c' (x.fr.lpc + 1))

/-- R22, R24, R146, R204, R205: what the source codes supply to a lane, and the addresses of memory words. -/
def Obligations.SourcesSupplyTheirValues : Prop :=
  ∀ (x : LaneCx) (w : LaneWord) (k : Nat) (n : Fin 256) (b : Fin 4) (r : Fin 15) (sc : Nat),
    x.src w (.vreg n) k = laneGet (x.c.rv n.val) k ∧ x.src w (.latch b) k = laneGet (vget x.fr.latch b.val zeroLanes) k ∧
    x.src w (.snap r) k = BitVec.ofNat 32 (x.blk.snap[r].toNat) ∧ x.src w .zero k = 0 ∧ x.src w .laneId k = BitVec.ofNat 32 k ∧
    x.src w .imm k = w.imm ∧ x.src w .crewId k = BitVec.ofNat 32 x.c.index ∧
    (x.src64 w (.vreg n) k).toNat = (laneGet (x.c.rv n.val) k).toNat + 2 ^ 32 * (laneGet (x.c.rv (n.val + 1)) k).toNat ∧
    x.globalVa w sc k = BitVec.ofInt 64 ((x.base w k).toInt + (x.src w w.c k).toInt * 2 ^ sc + w.imm.toInt) ∧
    (w.wa = true → x.base w k = x.src64 w w.a k) ∧ (w.wa = false → w.a = .zero → x.base w k = 0) ∧
    (w.wa = false → w.a = .snap r → x.base w k = x.blk.snap[r]) ∧
    x.scratchVa w k = BitVec.ofInt 32 ((x.src w w.a k).toInt + (x.src w w.c k).toInt * 2 ^ scaleOf w + w.imm.toInt)

/-- R148, R150, R151: what the integer lane words write, by the numbers their sources stand for. -/
def Obligations.LaneIntegerWordsWriteTheirResults : Prop :=
  ∀ (s : State) (w : LaneWord),
    let A := fun (x : LaneCx) k => x.src w w.a k
    let B := fun (x : LaneCx) k => x.src w w.b k
    let C := fun (x : LaneCx) k => x.src w w.c k
    let n := fun (x : LaneCx) k => (B x k).toNat % 32
    let off := fun (x : LaneCx) k => (B x k).toNat % 32
    let len := fun (x : LaneCx) k => Min.min ((B x k).toNat / 2 ^ 8 % 64) (32 - off x k)
    laneGives s (.vadd w) w (fun x k => A x k + B x k) ∧ laneGives s (.vsub w) w (fun x k => A x k - B x k) ∧
    laneGives s (.vmul w) w (fun x k => BitVec.ofNat 32 ((A x k).toNat * (B x k).toNat)) ∧
    laneGives s (.vmulh w) w (fun x k => BitVec.ofInt 32 (intOf w (A x k) * intOf w (B x k) / 2 ^ 32)) ∧
    laneGives s (.vmad w) w (fun x k => BitVec.ofNat 32 ((A x k).toNat * (B x k).toNat + (C x k).toNat)) ∧
    laneGives s (.vand w) w (fun x k => A x k &&& B x k) ∧ laneGives s (.vor w) w (fun x k => A x k ||| B x k) ∧
    laneGives s (.vxor w) w (fun x k => A x k ^^^ B x k) ∧
    laneGives s (.vshl w) w (fun x k => BitVec.ofNat 32 ((A x k).toNat * 2 ^ n x k)) ∧
    laneGives s (.vshr w) w (fun x k => BitVec.ofInt 32 (intOf w (A x k) / 2 ^ n x k)) ∧
    laneGives s (.vmin w) w (fun x k => BitVec.ofInt 32 (Min.min (intOf w (A x k)) (intOf w (B x k)))) ∧
    laneGives s (.vmax w) w (fun x k => BitVec.ofInt 32 (Max.max (intOf w (A x k)) (intOf w (B x k)))) ∧
    laneGives s (.vabs w) w (fun x k => BitVec.ofNat 32 (A x k).toInt.natAbs) ∧
    laneGives s (.vsel w) w (fun x k => if (x.c.rp (w.fn.toNat % 16)).getLsbD k then A x k else B x k) ∧
    laneGives s (.vclz w) w (fun x k => BitVec.ofNat 32 (if A x k = 0 then 32 else 31 - Nat.log2 (A x k).toNat)) ∧
    laneGives s (.vpopc w) w (fun x k => BitVec.ofNat 32 ((List.range 32).filter fun i => (A x k).getLsbD i).length) ∧
    laneGives s (.vbfe w) w (fun x k =>
      let z := (A x k).toNat / 2 ^ off x k % 2 ^ len x k
      if w.ty = .i32 then BitVec.ofInt 32 (Int.bmod z (2 ^ len x k)) else BitVec.ofNat 32 z) ∧
    laneGives s (.vbfi w) w (fun x k => BitVec.ofNat 32
      ((C x k).toNat - (C x k).toNat / 2 ^ off x k % 2 ^ len x k * 2 ^ off x k + (A x k).toNat % 2 ^ len x k * 2 ^ off x k)) ∧
    laneGives s (.vmov w) w A ∧ laneGives s (.vneg w) w (fun x k => BitVec.ofInt 32 (-(A x k).toInt)) ∧
    laneGives s (.vaddc w) w (fun x k => BitVec.ofNat 32 (((A x k).toNat + (B x k).toNat + (C x k).toNat % 2) / 2 ^ 32)) ∧
    laneTests s (.vcmp w) w (fun x k =>
      let a := intOf w (A x k)
      let b := intOf w (B x k)
      match w.fn.toNat % 8 with
      | 0 => a = b | 1 => a ≠ b | 2 => a < b | 3 => a ≤ b | 4 => b < a | _ => b ≤ a)

/-- R62, R64, R147, R152 to R156: the floating lane words compute in the type's format, with the word's rounding mode, the flush to zero of ASTAT and,
under SR, the random bits of the lane, and raise the flags of their lanes. Sums, products and fused sums round the exact value once; zeros, infinities, NaNs
and the operands that a function names give the results that R62 and R64 name.
Model choices: logs 18 and 36. -/
def Obligations.LaneFloatWordsRoundTheirResults : Prop :=
  ∀ (s : State) (w : LaneWord),
    let f := fmtOf w.ty
    let r := fun (x : LaneCx) k => laneRnd x.c x.blk.snap w k 0
    let a := fun (x : LaneCx) k => f.read x.c.ftz (x.src w w.a k).toNat
    let b := fun (x : LaneCx) k => f.read x.c.ftz (x.src w w.b k).toNat
    let c := fun (x : LaneCx) k => f.read x.c.ftz (x.src w w.c k).toNat
    let bits := fun (x : LaneCx) (o : Src) k => (x.src w o k).toNat
    laneRounds s (.fadd w) w (fun x k => f.add (r x k) (a x k) (b x k)) ∧
    laneRounds s (.fsub w) w (fun x k => f.add (r x k) (a x k) (b x k).neg) ∧
    laneRounds s (.fmul w) w (fun x k => f.mul (r x k) (a x k) (b x k)) ∧
    laneRounds s (.ffma w) w (fun x k => f.fma (r x k) (a x k) (b x k) (c x k)) ∧
    laneRounds s (.fscale w) w (fun x k => f.scale (r x k) (a x k) (x.src w w.b k).toInt) ∧
    laneRounds s (.fmin w) w (fun x k => (f.minMax x.c.ftz false (bits x w.a k) (bits x w.b k), 0)) ∧
    laneRounds s (.fmax w) w (fun x k => (f.minMax x.c.ftz true (bits x w.a k) (bits x w.b k), 0)) ∧
    laneTests s (.fcmp w) w (fun x k => (a x k).compare (b x k) (w.fn.toNat % 8)) ∧
    laneRounds s (.frcp w) w (fun x k => fRcp f (r x k) (a x k)) ∧ laneRounds s (.frsq w) w (fun x k => fRsqrt f (r x k) (a x k)) ∧
    laneRounds s (.fsqrt w) w (fun x k => fSqrt f (r x k) (a x k)) ∧ laneRounds s (.fexp2 w) w (fun x k => fExp2 f (r x k) (a x k)) ∧
    laneRounds s (.flog2 w) w (fun x k => fLog2 f (r x k) (a x k)) ∧ laneRounds s (.fsin w) w (fun x k => fSin f (r x k) (a x k)) ∧
    laneRounds s (.fcos w) w (fun x k => fCos f (r x k) (a x k)) ∧ laneRounds s (.frnd w) w (fun x k => f.integral (r x k) (a x k)) ∧
    laneRounds s (.fclass w) w (fun x k => (f.classify (bits x w.a k), 0)) ∧
    (∀ (g : Fmt) (d : Rnd) (v : FVal) (p q : Bool) (m n : Nat) (i j : Int), g ∈ [fp32, fp16, bf16] → 0 < m → 0 < n → -149 ≤ i →
      let low := min i j
      let sum := signed p m * 2 ^ (i - low).toNat + signed q n * 2 ^ (j - low).toNat
      (g.add d .nan v = (g.nan, 0) ∧ g.add d v .nan = (g.nan, 0) ∧ g.mul d .nan v = (g.nan, 0) ∧ g.mul d v .nan = (g.nan, 0)) ∧
      g.add d (.inf p) (.inf q) = (if p = q then (g.inf p, 0) else (g.nan, fNV)) ∧
      (g.add d (.inf p) (.zero q) = (g.inf p, 0) ∧ g.add d (.zero q) (.inf p) = (g.inf p, 0) ∧
        g.add d (.inf p) (.num q n j) = (g.inf p, 0) ∧ g.add d (.num q n j) (.inf p) = (g.inf p, 0)) ∧
      g.add d (.zero p) (.zero q) = (g.signBit (if p = q then p else d.rm == 3), 0) ∧
      (g.add d (.zero p) (.num q n j) = g.round d q n j false ∧ g.add d (.num q n j) (.zero p) = g.round d q n j false) ∧
      g.add d (.num p m i) (.num q n j) = (if sum = 0 then (g.signBit (d.rm == 3), 0) else g.round d (sum < 0) sum.natAbs low false) ∧
      (g.mul d (.inf p) (.zero q) = (g.nan, fNV) ∧ g.mul d (.zero q) (.inf p) = (g.nan, fNV)) ∧
      (∀ a b, a ≠ .nan → b ≠ .nan → (∃ p, a = .inf p) ∨ (∃ p, b = .inf p) → (∀ p, a ≠ .zero p) → (∀ p, b ≠ .zero p) →
        g.mul d a b = (g.inf (a.sign != b.sign), 0)) ∧
      (∀ a b, a ≠ .nan → b ≠ .nan → (∃ p, a = .zero p) ∨ (∃ p, b = .zero p) → (∀ p, a ≠ .inf p) → (∀ p, b ≠ .inf p) →
        g.mul d a b = (g.signBit (a.sign != b.sign), 0)) ∧
      g.mul d (.num p m i) (.num q n j) = g.round d (p != q) (m * n) (i + j) false ∧
      (g.fma d (.num p m i) (.num q n j) v = g.add d (.num (p != q) (m * n) (i + j)) v ∧ g.fma d (.inf p) (.zero q) v = (g.nan, fNV) ∧
        g.fma d (.zero p) (.inf q) v = (g.nan, fNV) ∧ g.fma d (.inf p) (.num q n j) v = g.add d (.inf (p != q)) v ∧
        g.fma d (.zero p) (.num q n j) v = g.add d (.zero (p != q)) v) ∧
      (∀ h ∈ [fRcp, fSqrt, fRsqrt, fExp2, fLog2, fSin, fCos], h g d .nan = (g.nan, 0)) ∧
      (fRcp g d (.zero p) = (g.inf p, fDZ) ∧ fRcp g d (.inf p) = (g.signBit p, 0)) ∧
      (fSqrt g d (.zero p) = (g.signBit p, 0) ∧ fSqrt g d (.inf false) = (g.inf false, 0)) ∧
      (fRsqrt g d (.zero p) = (g.inf p, fDZ) ∧ fRsqrt g d (.inf false) = (0, 0)) ∧
      (fExp2 g d (.inf true) = (0, 0) ∧ fExp2 g d (.inf false) = (g.inf false, 0) ∧
        ∀ z : Int, i ≤ 0 → signed p m = z * 2 ^ (-i).toNat → fExp2 g d (.num p m i) = g.round d false 1 z false) ∧
      (fLog2 g d (.zero p) = (g.inf true, fDZ) ∧ fLog2 g d (.inf false) = (g.inf false, 0) ∧
        (i ≤ 0 → m = 2 ^ (-i).toNat → fLog2 g d (.num false m i) = (0, 0))) ∧
      (∀ h ∈ [fSqrt, fRsqrt, fLog2], h g d (.inf true) = (g.nan, fNV) ∧ h g d (.num true n j) = (g.nan, fNV)) ∧
      (fSin g d (.inf p) = (g.nan, fNV) ∧ fSin g d (.zero p) = (g.signBit p, 0) ∧
        (0 ≤ i ∨ m % 2 ^ (-i).toNat = 0 → fSin g d (.num p m i) = (g.signBit p, 0))) ∧
      (fCos g d (.inf p) = (g.nan, fNV) ∧
        (i < 0 → 2 * (m % 2 ^ (-i).toNat) = 2 ^ (-i).toNat → fCos g d (.num p m i) = (0, 0))))

/-- R58 to R61, R157, R158: conversions between formats and integers, and the packing of narrow elements into slots.
Model choice: log 80 (the flush of a subnormal source of FCVT in the targets that FTZ never affects). -/
def Obligations.ConversionWordsConvert : Prop :=
  ∀ (s : State) (w : LaneWord) (from_ : Ty), Ty.ofCode (w.imm.toNat % 16) = some from_ →
    let f := fmtOf w.ty
    let g := fmtOf from_
    let r := fun (x : LaneCx) k => laneRnd x.c x.blk.snap w k 0
    let a := fun (x : LaneCx) k => (x.src w w.a k).toNat
    let e := w.imm.toNat % 8
    let n := slotBits w.ty
    (w.ty ≠ from_ → laneRounds s (.fcvt w) w (fun x k => f.convert (r x k) (g.read x.c.ftz (a x k)))) ∧
    (w.ty = from_ → laneRounds s (.fcvt w) w (fun x k =>
      (if f.decode (a x k) = .nan then f.nan else f.flushed (x.c.ftz && f.flushes) (a x k), 0))) ∧
    (∀ s1 x, LaneReady s (.ftoi w) (guarded w) s1 x →
      let z := fun k => toInteger (r x k) w.ty (g.read x.c.ftz (a x k))
      exec (.ftoi w) s = x.writeVec s1 w (lanesFn fun k => BitVec.ofInt 32 (z k).1) (lanesFlags x.lset fun k => (z k).2)) ∧
    laneRounds s (.itof w) w (fun x k => f.ofInteger (r x k) (readInt from_ (x.src w w.a k))) ∧
    (∀ s1 x, LaneReady s (.qpack w) (guarded w) s1 x → e < 32 / n →
      ∃ d, exec (.qpack w) s = x.writeVec s1 w d (lanesFlags x.lset fun k =>
          (f.convert (laneRnd x.c x.blk.snap w k e) ((fp32.read (x.c.ftz && f.flushes) (a x k)).shift (-(x.src w w.b k).toInt))).2) ∧
        ∀ k, k < 64 → ∀ j, j < 32 →
          (laneGet d k).getLsbD j =
            if n * e ≤ j ∧ j < n * (e + 1) then
              (f.convert (laneRnd x.c x.blk.snap w k e) ((fp32.read (x.c.ftz && f.flushes) (a x k)).shift (-(x.src w w.b k).toInt))).1.testBit (j - n * e)
            else (x.src w w.c k).getLsbD j) ∧
    laneRounds s (.qunpk w) w (fun x k =>
      fp32.scale (r x k) (f.read x.c.ftz (a x k / 2 ^ (n * e) % 2 ^ n)) (x.src w w.b k).toInt) ∧
    (∀ (h : Fmt) (d : Rnd) (p : Bool) (m : Nat) (i : Int) (t : Ty), h ∈ [fp32, fp16, bf16, e4m3, e5m2, e2m1] →
      let lo : Int := if t ∈ [.i32, .i16, .i8, .i64] then -2 ^ (bitsTy t - 1) else 0
      let hi : Int := if t ∈ [.i32, .i16, .i8, .i64] then 2 ^ (bitsTy t - 1) - 1 else 2 ^ bitsTy t - 1
      h.convert d .nan = (if h = e2m1 then (0, fNV) else (h.nan, 0)) ∧
      h.convert d (.inf p) = (if h = e2m1 ∨ d.sat = true then (h.maxF p, fSA) else if h = e4m3 then (h.nan, 0) else (h.inf p, 0)) ∧
      h.convert d (.zero p) = (h.signBit p, 0) ∧ h.convert d (.num p m i) = h.round d p m i false ∧
      toInteger d t .nan = (0, fNV) ∧ toInteger d t (.inf p) = (if p then lo else hi, fNV + fSA) ∧ toInteger d t (.zero p) = (0, 0) ∧
      (0 < m → d.rm ≤ 4 →
        let u := 2 ^ (-i).toNat
        let a := m * 2 ^ i.toNat
        let z := signed p (roundedTo d p a u / u)
        toInteger d t (.num p m i) =
          if z < lo then (lo, fNV + fSA) else if hi < z then (hi, fNV + fSA) else (z, if roundedTo d p a u = a then 0 else fNX)))

/-- R46, R49, R54 to R57, R59, R60, R63: a nonzero value is rounded to the neighbour that the mode names, at the spacing of its own exponent. It overflows when that exceeds
the largest finite magnitude; below the smallest normal magnitude it is rounded at the subnormal spacing instead, or flushed; the flags are those of
the case. A value that the format holds keeps its own pattern and raises no flag. -/
def Obligations.RoundingGivesTheNeighbour : Prop :=
  (∀ (f : Fmt) (r : Rnd) (neg : Bool) (mag : Nat) (exp : Int), f ∈ [fp32, fp16, bf16, e4m3, e5m2, e2m1] → r.rm ≤ 4 → r.rb < 2 ^ 32 → 0 < mag →
    let b : Int := min exp f.minQ - f.mbits
    let a := mag * 2 ^ (exp - b).toNat
    let u := 2 ^ (Nat.log2 a - f.mbits)
    let unit := 2 ^ (f.minQ - b).toNat
    let top := (f.decode (f.maxF false)).amount b
    let low := 2 ^ f.mbits * unit
    let v := roundedTo r neg a u
    let w := roundedTo r neg a unit
    let y := f.round r neg mag exp false
    let clamps := r.sat = true ∨ f = e2m1
    let infinite := if f = e4m3 then f.nan else f.inf neg
    (top < v → y = if clamps then (f.maxF neg, fOF + fNX + fSA) else
      (match r.rm with
       | 1 => f.maxF neg
       | 2 => if neg then f.maxF neg else infinite
       | 3 => if neg then infinite else f.maxF neg
       | _ => infinite, fOF + fNX)) ∧
    (v ≤ top → low ≤ v → f.holds b neg v y.1 ∧ y.2 = if v = a then 0 else fNX) ∧
    (v < low → r.ftz = true → f ∈ [fp32, fp16, bf16] → y = (f.signBit neg, fUF + fNX)) ∧
    (v < low → r.ftz = false ∨ f ∉ [fp32, fp16, bf16] → f.holds b neg w y.1 ∧ y.2 = if w = a then 0 else fUF + fNX)) ∧
  (∀ (f : Fmt) (r : Rnd) (x : Nat) (neg : Bool) (mag : Nat) (exp : Int), f ∈ [fp32, fp16, bf16, e4m3, e5m2, e2m1] → x < 2 ^ f.width →
    f.decode x = .num neg mag exp → r.ftz = false → r.rm ≤ 4 → f.round r neg mag exp false = (x, 0)) ∧
  [fp32, fp16, bf16, e5m2, e4m3, e2m1].map (·.maxF false) = [0x7F7FFFFF, 0x7BFF, 0x7F7F, 0x7B, 0x7E, 0x7] ∧
  [fp32, fp16, bf16, e5m2, e4m3].map Fmt.nan = [0x7FC00000, 0x7E00, 0x7FC0, 0x7E, 0x7F] ∧
  [fp32, fp16, bf16, e5m2].map (·.inf false) = [0x7F800000, 0x7C00, 0x7F80, 0x7C]

/-! ## Exchange words and predicates (R159 to R169) -/

/-- R159, R160, R166 to R168: VSHFL, VVOTE, PLOG, PSET and EXECRD. -/
def Obligations.ExchangeWordsWriteTheirResults : Prop :=
  ∀ (s : State) (w : LaneWord),
    let mode := w.fn.toNat % 4
    let A := fun (x : LaneCx) k => x.src w w.a k
    let B := fun (x : LaneCx) k => x.src w w.b k
    laneGives s (.vshfl w) w (fun x k =>
      let j : Int := match mode with
        | 0 => ((B x k).toNat % 64 : Nat) | 1 => k - (B x k).toNat | 2 => k + (B x k).toNat | _ => (k ^^^ ((B x k).toNat % 64) : Nat)
      if 0 ≤ j ∧ j ≤ 63 ∧ x.lset.getLsbD j.toNat then A x j.toNat else x.src w w.c k) ∧
    (mode = 0 → laneTests s (.vvote w) w (fun x _ => ∃ j ∈ lanesOf x.lset, A x j ≠ 0)) ∧
    (mode = 1 → laneTests s (.vvote w) w (fun x _ => ∀ j ∈ lanesOf x.lset, A x j ≠ 0)) ∧
    (mode = 2 → laneTests s (.vvote w) w (fun x _ => ∀ j ∈ lanesOf x.lset, ∀ k ∈ lanesOf x.lset, A x j = A x k)) ∧
    laneTests s (.plog w) w (fun x k =>
      let bit := fun o => if (x.c.rp (predSrc o)).getLsbD k then 1 else 0
      w.fn.getLsbD (4 * bit w.a + 2 * bit w.b + bit w.c)) ∧
    (∀ r, w.a = .snap r → laneTests s (.pset w) w (fun x k => x.blk.snap[r].getLsbD k)) ∧
    (w.a = .imm → laneTests s (.pset w) w (fun _ k => (w.imm.signExtend 64).getLsbD k)) ∧
    (w.a ≠ .imm → (∀ r, w.a ≠ .snap r) → laneTests s (.pset w) w (fun x k => A x k ≠ 0)) ∧
    laneGives s (.execrd w) w (fun x _ =>
      if w.fn.getLsbD 0 then BitVec.ofNat 32 (x.fr.exec.toNat / 2 ^ 32) else BitVec.ofNat 32 x.fr.exec.toNat)

/-- R161: VFOLD runs the fixed tree of six levels, absent lanes passing the other operand on; in the integer types that is the fold of the
lanes' values in ascending order.
R162: VSCAN runs over the lanes of the set in ascending order, each step rounded; the exclusive form gives each lane the value before
its own step, and its first lane C. -/
def Obligations.FoldsAndScansRunInTheirOrder : Prop :=
  (∀ (s : State) (w : LaneWord) (s1 : State) (x : LaneCx), LaneReady s (.vfold w) (guarded w) s1 x →
     let op := fun a b : W32 => match w.fn.toNat % 16 with
       | 0 => a + b
       | 1 => BitVec.ofInt 32 (Min.min (intOf w a) (intOf w b))
       | 2 => BitVec.ofInt 32 (Max.max (intOf w a) (intOf w b))
       | 3 => a &&& b
       | 4 => a ||| b
       | _ => a ^^^ b
     ∃ (n : Nat → Nat → Option W32) (v : W32) (fl : Nat), exec (.vfold w) s = x.writeVec s1 w (lanesFn fun _ => v) fl ∧ n 6 0 = some v ∧
       (w.ty = .b32 ∨ w.ty = .i32 → fl = 0 ∧ ∃ a as, (lanesOf x.lset).map (fun k => x.src w w.a k) = a :: as ∧ v = as.foldl op a) ∧
       (∀ k, k < 64 → n 0 k = if x.lset.getLsbD k then some (lowTy w.ty (x.src w w.a k)) else none) ∧
       ∀ l k, l < 6 → k < 2 ^ (5 - l) → n (l + 1) k = match n l (2 * k), n l (2 * k + 1) with
         | none, q => q
         | p, none => p
         | some p, some q => some (foldOp w x.c.ftz p q).1) ∧
  (∀ (s : State) (w : LaneWord) (s1 : State) (x : LaneCx), LaneReady s (.vscan w) (guarded w) s1 x →
     let ls := lanesOf x.lset
     let A := fun t => lowTy w.ty (x.src w w.a (ls.getD t 0))
     ∃ (acc : Nat → W32) (d : Lanes) (fl : Nat), exec (.vscan w) s = x.writeVec s1 w d fl ∧ acc 0 = A 0 ∧
       (∀ t, t + 1 < ls.length → acc (t + 1) = (foldOp w x.c.ftz (acc t) (A (t + 1))).1) ∧
       fl = (List.range (ls.length - 1)).foldl (fun m t => m ||| (foldOp w x.c.ftz (acc t) (A (t + 1))).2) 0 ∧
       ∀ t, t < ls.length → laneGet d (ls.getD t 0) =
         if w.fn.getLsbD 7 = false then acc t else if t = 0 then lowTy w.ty (x.src w w.c (ls.getD 0 0)) else acc (t - 1))

/-- R163, R164: a VSYNC whose lanes all name a set that has arrived whole leaves at once, the fragment going on at its next word; one that breaks no
rule and none of whose sets is whole waits at its word; one whose own lane is missing from its mask raises SYNCMASK, detail 1, in those lanes. -/
def Obligations.VsyncWaitsForItsSets : Prop :=
  ∀ (s : State) (w : LaneWord) (s1 : State) (x : LaneCx), LaneReady s (.vsync w) (guarded w) s1 x → x.c.trapping = none →
    let mask := fun k : Nat => x.src w w.b k ++ x.src w w.a k
    let bare := maskOf fun k => x.lset.getLsbD k && !(mask k).getLsbD k
    let c' : Crew := { x.c with div := x.c.div.setFrag x.slot (some (x.frNext
      { x.fr with st := .atVsync, arrivals := (lanesOf x.lset).map fun k => (k, mask k), vlanes := x.lset } x.fr.lpc)) }
    (x.c.div.noVsync → (∀ k, x.lset.getLsbD k = true → mask k = x.lset) →
      ∃ s' d f, exec (.vsync w) s = .next s' ∧ crewOf s' x.u = some ({ x.c with div := d }.syncLoads s1.nextStamp x.lset) ∧ s'.mem = s.mem ∧
        d.frag x.slot = some f ∧ f.st = .ready ∧ f.lpc = x.fr.lpc + 1 ∧ f.exec = x.fr.exec ∧ f.owned = x.fr.owned) ∧
    (c'.div.maskError (some x.slot) = none → c'.div.complete = [] → c'.div.waitError = none → exec (.vsync w) s = .next (putCrew s1 x.u c')) ∧
    (bare ≠ 0 → ∃ i, exec (.vsync w) s = .next (raise (putCrew s1 x.u c') x.u i) ∧ i.cause = 0x07 ∧ i.detail = 1 ∧ i.lane = true ∧
      i.slot = x.slot ∧ i.tfmask = bare ∧ i.tlpc = w64 x.fr.lpc ∧ i.texec = x.fr.exec)

/-! ## Divergence (R98 to R102, R169 to R174) -/

/-- R99, R101, R170: BRL. Lanes that all agree take their path; else the fragment splits into a free slot, or runs its arms one after the other
where no slot is free, four joins are pending or a serial entry is held; a join or target outside `.lcode` raises ILLEGAL, detail 3. -/
def Obligations.BranchesSplitFragments : Prop :=
  ∀ (s : State) (w : LaneWord) (s1 : State) (x : LaneCx) (join target : Nat), LaneReady s (.brl w) wholeExec s1 x → x.calm →
    let t := x.fr.exec &&& guardMask x.c w.pg w.pn
    let rest := x.fr.exec &&& ~~~t
    let at_ := fun d : Nat => x.laneTarget s1 d
    let arm : SerialEntry := { join := join, resume := x.fr.lpc + 1, maskN := rest, ran := x.fr.exec, slot := x.slot, second := false }
    let serial := x.c.div.freeSlot = none ∨ 4 ≤ x.fr.stack.length ∨ (x.c.div.serialOf x.slot).isSome = true
    (at_ (w.imm.toNat / 2 ^ 16) = none ∨ at_ (w.imm.toNat % 2 ^ 16) = none → exec (.brl w) s = x.raise s1 0x01 3 0 allLanes 0) ∧
    (at_ (w.imm.toNat / 2 ^ 16) = some join → at_ (w.imm.toNat % 2 ^ 16) = some target →
      (t = 0 → ∃ s' c', exec (.brl w) s = .next s' ∧ OnlyCrew s1 s' x.u c' ∧ x.goesTo c' (x.fr.lpc + 1)) ∧
      (t = x.fr.exec → ∃ s' c', exec (.brl w) s = .next s' ∧ OnlyCrew s1 s' x.u c' ∧ x.goesTo c' target) ∧
      (∀ g, t ≠ 0 → t ≠ x.fr.exec → x.c.div.freeSlot = some g → ¬serial →
        ∃ s' c' f h e, exec (.brl w) s = .next s' ∧ OnlyCrewIssued s1 s' x.u c' ∧ c'.div.frag x.slot = some f ∧ c'.div.frag g = some h ∧
          f.owned = x.fr.owned &&& ~~~t ∧ f.exec = rest ∧ f.lpc = x.fr.lpc + 1 ∧ h.owned = t ∧ h.exec = t ∧ h.lpc = target ∧
          f.stack = e :: x.fr.stack ∧ h.stack = e :: x.fr.stack ∧ e.join = join ∧ e.id = 2 * x.slot + flag (x.c.div.gen x.slot) ∧
          h.stamp = s1.nextStamp ∧ s'.nextStamp = s1.nextStamp + 1 ∧ f.stamp = x.fr.stamp ∧ (∀ k, k < g → x.c.div.frag k ≠ none) ∧
          c'.div.gen x.slot = !x.c.div.gen x.slot ∧ (∀ n, n ≠ x.slot → n ≠ g → c'.div.frag n = x.c.div.frag n)) ∧
      (t ≠ 0 → t ≠ x.fr.exec → serial → x.c.div.serial.length < 16 →
        ∃ s' c' f, exec (.brl w) s = .next s' ∧ OnlyCrew s1 s' x.u c' ∧ c'.div.frag x.slot = some f ∧ f.exec = t ∧ f.owned = x.fr.owned ∧
          f.lpc = target ∧ c'.div.serial = arm :: x.c.div.serial) ∧
      (t ≠ 0 → t ≠ x.fr.exec → serial → 16 ≤ x.c.div.serial.length → exec (.brl w) s = x.raise s1 0x01 4 0 allLanes 0))

/-- R100, R101, R171: JOIN. A join that is not the fragment's most recent one lets it pass; the end of the first serial arm starts the second,
the end of the second restores every owned lane, or with an older serial entry left the lanes that ran the BRL; a fragment whose pending join it is parks there, and
the last of its holders to do so completes the fusion.
Model choices: logs 22 and 33. -/
def Obligations.JoinsEndTheirArms : Prop :=
  ∀ (s : State) (w : LaneWord) (s1 : State) (x : LaneCx), LaneReady s (.joinWord w) wholeExec s1 x → x.calm →
    let passes_ := ∃ s' c', exec (.joinWord w) s = .next s' ∧ OnlyCrew s1 s' x.u c' ∧ x.goesTo c' (x.fr.lpc + 1)
    (∀ e, x.c.div.serialOf x.slot = some e → e.join ≠ x.fr.lpc → passes_) ∧
    (x.c.div.serialOf x.slot = none → (∀ e, x.fr.stack.head? = some e → e.join ≠ x.fr.lpc) → passes_) ∧
    (∀ e, x.c.div.serialOf x.slot = some e → e.join = x.fr.lpc → e.second = false → e.maskN &&& x.fr.owned ≠ 0 →
      ∃ s' c' f, exec (.joinWord w) s = .next s' ∧ OnlyCrew s1 s' x.u c' ∧ c'.div.frag x.slot = some f ∧ f.exec = e.maskN &&& x.fr.owned ∧
        f.lpc = e.resume ∧ c'.div.serialOf x.slot = some { e with second := true }) ∧
    (∀ e, x.c.div.serialOf x.slot = some e → e.join = x.fr.lpc → e.second = true → x.fr.owned ≠ 0 →
      (popSerial x.slot x.c.div.serial).find? (·.slot == x.slot) = none →
      ∃ s' c' f, exec (.joinWord w) s = .next s' ∧ OnlyCrew s1 s' x.u c' ∧ c'.div.frag x.slot = some f ∧ f.exec = x.fr.owned ∧
        f.lpc = x.fr.lpc + 1 ∧ c'.div.serial = popSerial x.slot x.c.div.serial) ∧
    (∀ e older, x.c.div.serialOf x.slot = some e → e.join = x.fr.lpc → e.second = true → e.ran &&& x.fr.owned ≠ 0 →
      (popSerial x.slot x.c.div.serial).find? (·.slot == x.slot) = some older →
      ∃ s' c' f, exec (.joinWord w) s = .next s' ∧ OnlyCrew s1 s' x.u c' ∧ c'.div.frag x.slot = some f ∧ f.exec = e.ran &&& x.fr.owned ∧
        f.owned = x.fr.owned ∧ f.lpc = x.fr.lpc + 1 ∧ c'.div.serialOf x.slot = some older) ∧
    (∀ e es g h, x.c.div.serialOf x.slot = none → x.fr.stack = e :: es → e.join = x.fr.lpc → g ≠ x.slot → x.c.div.frag g = some h →
      (e :: es).isSuffixOf h.stack = true → h.st = .ready → (∀ n k, x.c.div.frag n = some k → k.st ≠ .parked) → x.c.div.serial = [] →
      ∃ s' c' f, exec (.joinWord w) s = .next s' ∧ OnlyCrew s1 s' x.u c' ∧ c'.div.frag x.slot = some f ∧ f.st = .parked ∧
        f.lpc = x.fr.lpc ∧ f.owned = x.fr.owned ∧ c'.div.frag g = some h) ∧
    (∀ e es g h, x.c.div.serialOf x.slot = none → x.fr.stack = e :: es → e.join = x.fr.lpc → g ≠ x.slot → x.c.div.frag g = some h →
      h.stack = e :: es → h.st = .parked → x.fr.owned ||| h.owned ≠ 0 → x.c.div.serial = [] →
      (∀ n k, n ≠ x.slot → n ≠ g → x.c.div.frag n = some k → k.st ≠ .parked ∧ (e :: es).isSuffixOf k.stack = false) →
      ∃ s' c' f, exec (.joinWord w) s = .next s' ∧ OnlyCrew s1 s' x.u c' ∧ c'.div.frag (Nat.min x.slot g) = some f ∧
        f.owned = x.fr.owned ||| h.owned ∧ f.exec = f.owned ∧ f.lpc = x.fr.lpc + 1 ∧ f.st = .ready ∧ f.stack = es ∧
        f.stamp = Nat.min x.fr.stamp h.stamp ∧ c'.div.frag (Nat.max x.slot g) = none ∧
        ∀ n, n ≠ x.slot → n ≠ g → c'.div.frag n = x.c.div.frag n)

/-- R100: once every holder of an entry is parked at it, they fuse into one fragment in the lowest of their slots, with all their lanes, the
oldest of their stamps and the rest of the stack, at the word after the join; other fragments are untouched. Holders that have no lane left
and no other pending join end (R102).
Model choices: log 22. -/
def Obligations.ParkedFragmentsFuse : Prop :=
  ∀ (d : Diverge) (join : Nat → Bool) (e : JoinEntry) (a b : Nat) (f g : Frag) (es : List JoinEntry), a < b → d.frag a = some f →
    d.frag b = some g → (∀ n h, d.frag n = some h → n ≠ a → n ≠ b → (e :: es).isSuffixOf h.stack = false) → f.st = .parked → g.st = .parked →
    f.stack = e :: es → g.stack = e :: es →
      let d' := d.fuse join (e :: es)
      (f.owned ||| g.owned ≠ 0 → ∃ h, d'.frag a = some h ∧ h.owned = f.owned ||| g.owned ∧ h.exec = h.owned ∧ h.lpc = e.join + 1 ∧
        h.st = .ready ∧ h.stack = es ∧ h.stamp = Min.min f.stamp g.stamp ∧ h.latchOk = 0) ∧
      (f.owned ||| g.owned = 0 → es = [] → d'.frag a = none) ∧ d'.frag b = none ∧ ∀ n, n ≠ a → n ≠ b → d'.frag n = d.frag n

/-- R102, R104 to R107, R169, R172 to R174: EXECWR over the guard's lanes that the fragment owns; LEND; LYIELD, which under `.prog on` ranks its fragment below every
candidate that is urgent or not demoted for 64 cycles of its core, and under `.prog off`, where age alone ranks, does nothing, as LNOP; LTRAP in the lanes of its set. -/
def Obligations.FlowWordsActOnTheirFragment : Prop :=
  ∀ (s : State) (w : LaneWord) (s1 : State) (x : LaneCx), x.calm →
    let passes_ := fun i => ∃ s' c', exec i s = .next s' ∧ OnlyCrew s1 s' x.u c' ∧ x.goesTo c' (x.fr.lpc + 1)
    (LaneReady s (.execwr w) (fun c _ => guardMask c w.pg w.pn) s1 x →
      let g := guardMask x.c w.pg w.pn
      let e := ((x.fr.exec &&& ~~~g) ||| (x.c.rp (predSrc w.a) &&& g)) &&& x.fr.owned
      e ≠ 0 → ∃ s' c' f, exec (.execwr w) s = .next s' ∧ OnlyCrew s1 s' x.u c' ∧ c'.div.frag x.slot = some f ∧ f.exec = e ∧
        f.owned = x.fr.owned ∧ f.lpc = x.fr.lpc + 1) ∧
    (LaneReady s (.lend w) wholeExec s1 x → x.c.div.serial = [] → (∀ n f, x.c.div.frag n = some f → f.st = .ready) →
      ∃ s' c', exec (.lend w) s = .next s' ∧ OnlyCrew s1 s' x.u c' ∧ c'.div.frag x.slot = none ∧
        ∀ n, n ≠ x.slot → c'.div.frag n = x.c.div.frag n) ∧
    (LaneReady s (.lyield w) wholeExec s1 x → ∃ s' c' f, exec (.lyield w) s = .next s' ∧ OnlyCrew s1 s' x.u c' ∧ x.goesTo c' (x.fr.lpc + 1) ∧
      c'.div.frag x.slot = some f ∧ f.fair = if crewProg s1 x.c then { x.fr.fair with demote := 66 } else x.fr.fair) ∧
    (∀ (f : Fair) (b : Bool) (n : Nat), f.demote = 66 → (1 < (f.pass b n).demote ↔ n ≤ 64)) ∧
    (∀ j k : Candidate, crewProg s j.crew = true → crewProg s k.crew = true → 1 < k.fair.demote → k.urgent s = false →
      j.urgent s = true ∨ j.fair.demote ≤ 1 → j.above s k = true ∧ k.above s j = false) ∧
    (∀ j k : Candidate, crewProg s j.crew = false → crewProg s k.crew = false → (j.above s k = true ↔ j.key < k.key)) ∧
    (LaneReady s (.lnop w) wholeExec s1 x → passes_ (.lnop w)) ∧
    (LaneReady s (.ltrap w) (guarded w) s1 x → exec (.ltrap w) s = x.raise s1 0x05 0 (w.imm.toNat % 2 ^ 19) x.lset 0)

/-- R98, R102: running any BRL, JOIN, EXECWR or LEND leaves the fragments of the block with disjoint lanes, each executing lanes it owns, if
they were so before. -/
def Obligations.DivergenceKeepsLanesApart : Prop :=
  ∀ (s : State) (w : LaneWord) (s1 : State) (x : LaneCx) (i : Instr) (m : Crew → Frag → W64), x.calm → x.c.div.good = true →
    (i, m) ∈ [(Instr.brl w, wholeExec), (.joinWord w, wholeExec), (.lend w, wholeExec)] ∨
      (i = .execwr w ∧ m = fun c _ => guardMask c w.pg w.pn) →
    LaneReady s i m s1 x → ∃ s' c', exec i s = .next s' ∧ crewOf s' x.u = some c' ∧ c'.div.good = true

/-! ## Barriers and queues (R192 to R198, R226 to R233, R286) -/

/-- R192 to R195, R226 to R229, on a barrier of the crew's own core: an arrival counts, and the last one flips the parity and empties the count; BARA
gives the parity that its phase will have, BARW and BARAW wait for a parity and give 0, or 1 once the barrier is abandoned; BARINIT sets EXPECTED
and clears the count and ABND; ids, EXPECTED = 0 and operands out of range raise BARRIER; an arrival and BARINIT wait for an acquire (R138).
Model choices: logs 31 and 49. -/
def Obligations.BarriersCountTheirArrivals : Prop :=
  ∀ (s : State) (u : Nat) (c : Crew) (d a b : SReg) (i : Imm13) (t : Team) (l : Launch), ScalarReady s u c [d, a, b] →
    teamOf s c.team = some t → crewLaunch s c = some l →
    let id := c.rs a + i.signExtend 64
    let n := id.toNat
    let k := t.barrier c.coreIdx n
    let last := k.count + 1 = k.expected
    let after := (k.arrive (markNow s u c)).1
    let s1 := putTeam s c.team (t.putBarrier c.coreIdx n after)
    let bad := l.kernel.barriers ≤ n ∧ ¬(1 < l.kernel.shape ∧ 448 ≤ n ∧ n ≤ 511)
    let idle := c.await = .none ∧ c.reply.any (·.waits) = false
    (bad → exec (.bara d a i) s = raiseScalar s u 0x0E 0 (n % 2 ^ 32) 0 ∧ exec (.barw d a i) s = raiseScalar s u 0x0E 0 (n % 2 ^ 32) 0 ∧
      (idle → exec (.baraw d a i) s = raiseScalar s u 0x0E 0 (n % 2 ^ 32) 0)) ∧
    (c.acquiring = true → n < l.kernel.barriers → exec (.bara d a i) s = stall s ∧ (idle → exec (.baraw d a i) s = stall s)) ∧
    (c.acquiring = false → n < l.kernel.barriers → n < 448 →
      (k.abnd = false → k.expected = 0 → exec (.bara d a i) s = raiseScalar s u 0x0E 1 n 0 ∧
        (idle → exec (.baraw d a i) s = raiseScalar s u 0x0E 1 n 0)) ∧
      (k.abnd = true ∨ k.expected ≠ 0 → exec (.bara d a i) s = .next (putCrew s1 u (c.ws d (if k.par then 0 else 1)).next) ∧
        (k.abnd = true → after = k) ∧
        (k.abnd = false → after.expected = k.expected ∧ after.abnd = false ∧ (last → after.par = !k.par ∧ after.count = 0) ∧
          (¬last → after.par = k.par ∧ after.count = k.count + 1)) ∧
        (idle → k.abnd = true → exec (.baraw d a i) s = .next (putCrew (acquire s1 u) u (c.observed.ws d 1).next)) ∧
        (idle → k.abnd = false → ¬last → exec (.baraw d a i) s = .next (putCrew s1 u { c with await := .phase (!k.par) })) ∧
        (idle → k.abnd = false → last → after.past.all (markReleased s1 1) = true →
          exec (.baraw d a i) s = .next (putCrew (acquire s1 u) u (c.observed.ws d 0).next)))) ∧
    (n < l.kernel.barriers → n < 448 →
      let p := (c.rs d).getLsbD 0
      (c.acquiring = true → exec (.barw d a i) s = stall s) ∧
      (c.acquiring = false → k.abnd = true → exec (.barw d a i) s = writesNext (acquire s u) u c.observed d 1) ∧
      (c.acquiring = false → k.abnd = false → k.par = p → k.past.all (markReleased s 1) = true →
        exec (.barw d a i) s = writesNext (acquire s u) u c.observed d 0) ∧
      (k.abnd = false → k.par ≠ p → exec (.barw d a i) s = stall s)) ∧
    (let m := (c.rs a).toNat
     let e := (c.rs b).toNat
     (m < l.kernel.barriers → c.acquiring = true → exec (.barinit a b) s = stall s) ∧
     (m < l.kernel.barriers → c.acquiring = false → e = 0 ∨ 65535 < e → exec (.barinit a b) s = raiseScalar s u 0x0E 2 (m % 2 ^ 32) 0) ∧
     (m < l.kernel.barriers → c.acquiring = false → 0 < e → e ≤ 65535 → exec (.barinit a b) s =
       .next (putCrew (putTeam s c.team (t.putBarrier c.coreIdx m
         { t.barrier c.coreIdx m with expected := e, count := 0, abnd := false, marks := [] })) u c.next)))

/-- R286: a team barrier's arrival from another core than the leader travels to the leader's port; the port applies it, and its answer and
the completed phase travel back; an arrival that finds EXPECTED = 0 there raises BARRIER, detail 1, at its own word.
Model choices: log 25. -/
def Obligations.TeamBarriersTravel : Prop :=
  ∀ (s : State) (u : Nat) (c : Crew) (d a : SReg) (i : Imm13) (t : Team) (l : Launch) (team : Nat) (q : BarReq) (core id : Nat) (p : Bool)
      (ps : List Bool),
    (ScalarReady s u c [d, a] → teamOf s c.team = some t → crewLaunch s c = some l → c.coreIdx ≠ 0 → c.acquiring = false →
      let n := (c.rs a + i.signExtend 64).toNat
      l.kernel.barriers ≤ n → 1 < l.kernel.shape → 448 ≤ n → n ≤ 511 → leaderLost s t = false →
      ∃ s' c', exec (.bara d a i) s = .next s' ∧ crewOf s' u = some c' ∧ c'.spc = c.spc + 1 ∧ c'.s = c.s ∧
        c'.reply = c.reply ++ [{ reg := d, id := n, tag := s.nextTag, par := none, waits := false }] ∧ s'.mem = s.mem) ∧
    (teamOf s team = some t → t.barReqs = [q] → leaderLost s t = false → q.op = .arrive → crewOf s q.crew = some c →
      let b := t.barrier 0 q.id
      (b.expected ≠ 0 → c.reply = [{ reg := d, id := q.id, tag := q.tag, par := none, waits := false }] →
        ∃ s' t' c', exec (.teamBarrierRequest team 0) s = .next s' ∧ teamOf s' team = some t' ∧ t'.barReqs = [] ∧
          t'.barrier 0 q.id = (b.arrive q.mark).1 ∧ crewOf s' q.crew = some c' ∧
          c'.reply = [{ reg := d, id := q.id, tag := q.tag, par := some (!b.par), waits := false }]) ∧
      (b.expected = 0 → b.abnd = false → c.trapping = none →
        exec (.teamBarrierRequest team 0) s = .next (raise
          (modCrew (putTeam s team { t with barReqs := [] }) q.crew fun c => { c with reply := c.reply.filter (·.tag != q.tag) }) q.crew
          { scalarTrap q.word 0x0E 1 (q.id % 2 ^ 32) 0 none with at_ := some q.spc }))) ∧
    (teamOf s team = some t → kgetD t.barSent (512 * core + id) [] = p :: ps →
      ∃ s' t', exec (.teamBarrierCompletion team core id) s = .next s' ∧ teamOf s' team = some t' ∧
        kgetD t'.barSeen (512 * core + id) true = p ∧ kgetD t'.barSent (512 * core + id) [] = ps ∧ s'.crews = s.crews) ∧
    (∀ r, crewOf s u = some c → c.trapping = none → c.reply = [r] → r.par = some p →
      (r.waits = false → exec (.teamBarrierReply u) s = .next (putCrew s u { c.ws r.reg (if p then 1 else 0) with reply := [] })) ∧
      (r.waits = true → exec (.teamBarrierReply u) s = .next (putCrew s u { c with reply := [], await := .phase p })))

/-- R196 to R198, R230 to R233: a queue of the crew's core is a ring of handles in its scratchpad. QPUSH and QTRY push store the low half of s[a] at
the tail and take an allowance, QPOP and QTRY pop give the oldest handle and return one; what cannot be done at once waits, or answers all ones in
the QTRY forms, and raises QUEUE detail 1 in the blocking forms of a team with a halted crew; every queue word waits for an acquire, and for the crew's
earlier scratchpad accesses before it reaches its ring (R138, R277), a push for all of its crew's earlier accesses at core scope (R197); a handle that
carries an error halts the crew (R202); QINIT empties the queue; QUEUE names the faults.
Model choices: logs 26 and 40. -/
def Obligations.QueuesHoldTheirHandles : Prop :=
  ∀ (s : State) (u : Nat) (c : Crew) (d a b : SReg) (n : Fin 64) (t : Team) (l : Launch), ScalarReady s u c [d, a, b] →
    teamOf s c.team = some t → crewLaunch s c = some l →
    let q := t.queue c.coreIdx n.val
    let free := canPush s c q n.val = true
    let some_ := canPop s c q n.val = true
    let reaches := fun (off : Nat) (s1 : State) => c.scratchClear = true ∧ touchRange s c.team c.scalarTouch c.coreIdx off 4 = .go s1
    let pushed := fun s1 : State => pushHandle s1 c.team c.coreIdx n.val q ((c.rs a).truncate 32)
    let open_ := c.scratchClear = true ∧ released c c.synced s.nextStamp 0 = true
    (l.kernel.queues ≤ n.val → exec (.qpush a n) s = raiseScalar s u 0x0D 0 n.val 0 ∧ exec (.qpop d n) s = raiseScalar s u 0x0D 0 n.val 0 ∧
      exec (.qtryPush d a n) s = raiseScalar s u 0x0D 0 n.val 0 ∧ exec (.qtryPop d n) s = raiseScalar s u 0x0D 0 n.val 0 ∧
      exec (.qinit a b n) s = raiseScalar s u 0x0D 0 n.val 0) ∧
    (n.val < l.kernel.queues → c.acquiring = true → exec (.qpush a n) s = stall s ∧ exec (.qpop d n) s = stall s ∧
      exec (.qtryPush d a n) s = stall s ∧ exec (.qtryPop d n) s = stall s ∧ exec (.qinit a b n) s = stall s) ∧
    (n.val < l.kernel.queues → c.acquiring = false →
      (free → ¬open_ → exec (.qpush a n) s = stall s ∧ exec (.qtryPush d a n) s = stall s) ∧
      (∀ s1, free → open_ → reaches q.tail s1 → exec (.qpush a n) s = .next (putCrew (pushed s1) u c.next) ∧
        exec (.qtryPush d a n) s = .next (putCrew (pushed s1) u (c.ws d 0).next)) ∧
      (¬free → q.init = true → exec (.qtryPush d a n) s = writesNext s u c d allLanes) ∧
      (¬free → q.init = true → t.halted = false → exec (.qpush a n) s = stall (putCrew s u { c with await := .blocked true n.val })) ∧
      (¬free → t.halted = true → exec (.qpush a n) s = raiseScalar s u 0x0D 1 n.val 0) ∧
      (¬some_ → t.halted = true → exec (.qpop d n) s = raiseScalar s u 0x0D 1 n.val 0) ∧
      (q.init = false → t.halted = false → exec (.qpush a n) s = raiseScalar s u 0x0D 4 n.val 0 ∧
        exec (.qpop d n) s = raiseScalar s u 0x0D 4 n.val 0) ∧
      (q.init = false → exec (.qtryPush d a n) s = raiseScalar s u 0x0D 4 n.val 0 ∧ exec (.qtryPop d n) s = raiseScalar s u 0x0D 4 n.val 0) ∧
      (∀ s1 t1, some_ → reaches q.front s1 → teamOf s1 c.team = some t1 →
        let taken := popHandle s1 t1 c.coreIdx n.val q
        let lost := .next (haltCrew taken.1 u 1 (2 ^ 22 * c.coreIdx + q.front))
        let given := .next (putCrew (acquire taken.1 u) u (c.observed.ws d (taken.2.1.zeroExtend 64)).next)
        (taken.2.2 = false → exec (.qpop d n) s = given ∧ exec (.qtryPop d n) s = given) ∧
        (taken.2.2 = true → exec (.qpop d n) s = lost ∧ exec (.qtryPop d n) s = lost)) ∧
      (¬some_ → q.init = true → exec (.qtryPop d n) s = writesNext s u c d allLanes) ∧
      (¬some_ → q.init = true → t.halted = false → exec (.qpop d n) s = stall (putCrew s u { c with await := .blocked false n.val })) ∧
      (let off := (c.rs a).toNat
       let depth := (c.rs b).toNat
       (depth = 0 ∨ 256 < depth → exec (.qinit a b n) s = raiseScalar s u 0x0D 2 n.val 0) ∧
       (1 ≤ depth → depth ≤ 256 → off % 4 ≠ 0 ∨ scratchSize l < off + 4 * depth → exec (.qinit a b n) s = raiseScalar s u 0x0D 3 n.val 0) ∧
       (1 ≤ depth → depth ≤ 256 → off % 4 = 0 → off + 4 * depth ≤ scratchSize l →
         ∃ s' t', exec (.qinit a b n) s = .next s' ∧ teamOf s' c.team = some t' ∧ s'.mem = s.mem ∧ s'.cores = s.cores ∧
           t'.queue c.coreIdx n.val = { ring := off, depth := depth, count := 0, head := 0, allow := depth, init := true })))

/-! ## Counters, system words and traps (R108 to R115, R189 to R191, R220 to R225, R241, R242, R326, R327, R334, R335) -/

/-- R189 to R191, R220 to R225: BATCH closes the open batch, or an empty one, and advances ISSUED; batches complete in order, DONE rising by
their number; WAITC and LWAITC go on when their condition on DONE holds, after raising the oldest failure that the counter carries; CYIELD parks the
crew until then; ARMC checks its operand, arms at most four operations, and answers all ones when there is no room; a push that waits is retried.
Model choices: logs 49 and 77 (what a wait makes known). -/
def Obligations.CountersCountBatches : Prop :=
  ∀ (s : State) (u : Nat) (c : Crew) (d a b : SReg) (n : Fin 8) (i : Imm13) (w : Fin 4) (kind : Fin 4) (lw : LaneWord) (s1 : State) (x : LaneCx)
      (l : Launch),
    let k := c.counter n.val
    let v : W32 := (c.rs a).truncate 32
    let ge := fun (q : Counter) (v : W32) => 0 ≤ (q.done - v).toInt
    let m := lw.fn.toNat % 8
    let op : Armed := ⟨v, armKind w kind, c.rs b, s.nextStamp, c.synced, c.spc⟩
    (LaneReady s (.batch lw) wholeExec s1 x →
      exec (.batch lw) s = x.finish s1 (x.c.modCC m Counter.close) ∧ (x.c.counter m).close.issued = (x.c.counter m).issued + 1) ∧
    (LaneReady s (.lwaitc lw) wholeExec s1 x →
      let q := x.c.counter m
      let v := x.literal lw
      let holds := if lw.fn.toNat / 8 % 2 = 0 then ge q v else (q.issued - q.done).toNat < v.toNat
      (¬holds → exec (.lwaitc lw) s = stall s1) ∧ (holds → q.carried = [] → exec (.lwaitc lw) s =
        x.finish (acquire (observeOld s1 x.u (some (x.blk.ord, x.fr.owned))) x.u) x.c.observed) ∧
      (∀ f fs, holds → q.carried = f :: fs → exec (.lwaitc lw) s =
        x.raise (modCrew s1 x.u fun c => c.modCC m Counter.uncarry) f.cause f.detail 0 allLanes f.addr)) ∧
    (ScalarReady s u c [d, a, b] →
      (¬ge k v → exec (.waitc a n) s = stall s) ∧ (ge k v → k.carried = [] → exec (.waitc a n) s =
        .next (putCrew (acquire (observeOld s u none) u) u c.observed.next)) ∧
      (∀ f fs, ge k v → k.carried = f :: fs →
        exec (.waitc a n) s = raiseScalar (putCrew s u (c.modCC n.val Counter.uncarry)) u f.cause f.detail 0 f.addr) ∧
      (let t : Int := c.spc + i.toInt
       let c1 := { c with synced := c.nextBlock - 1 }
       (t < 0 ∨ (scodeSize s c : Int) ≤ t → exec (.cyield n a i) s = raiseScalar s u 0x01 3 0 0) ∧
       (0 ≤ t → t < scodeSize s c → c.laneQ = [] → ge k v →
         exec (.cyield n a i) s = .next (putCrew (acquire (observeOld s u none) u) u (c1.observed.goto t.toNat))) ∧
       (0 ≤ t → t < scodeSize s c → c.laneQ = [] → ¬ge k v →
         exec (.cyield n a i) s = .next (putCrew s u { c1 with st := .parkedOn n v t.toNat }))) ∧
      (crewLaunch s c = some l →
        (∀ cause detail arg addr, armCheck l kind.val (c.rs b) = some (cause, detail, arg, addr) →
          exec (.armc d a b w kind n) s = raiseScalar s u cause detail arg addr) ∧
        (armCheck l kind.val (c.rs b) = none → c.acquiring = true → exec (.armc d a b w kind n) s = stall s) ∧
        (armCheck l kind.val (c.rs b) = none → c.acquiring = false → 4 ≤ c.armedCount n.val → exec (.armc d a b w kind n) s = writesNext s u c d allLanes) ∧
        (armCheck l kind.val (c.rs b) = none → c.acquiring = false → c.armedCount n.val < 4 → ¬ge k v → (∀ o ∈ k.armed, ¬ge k o.threshold) → c.firing = [] →
          ∃ s' c', exec (.armc d a b w kind n) s = .next s' ∧ OnlyCrewIssued s s' u c' ∧ c'.spc = c.spc + 1 ∧
            (∀ r, c'.rs r = if r = d then 0 else c.rs r) ∧
            (c'.counter n.val).armed = k.armed ++ [op]))) ∧
    (crewOf s u = some c →
      (k.ripe ≠ [] → (c.wakes n.val = false →
          exec (.batchComplete u n) s = .next (fireCounter (putCrew s u (c.modCC n.val Counter.complete).wake) u n.val k.done)) ∧
        (c.wakes n.val = true → exec (.batchComplete u n) s =
          .next (fireCounter (putCrew (acquire (observeOld s u none) u) u (c.observed.modCC n.val Counter.complete).wake) u n.val k.done)) ∧
        k.complete.done = k.done + BitVec.ofNat 32 k.ripe.length ∧ k.complete.issued = k.issued) ∧
      (c.firing ≠ [] → exec (.armedPushRetry u) s = .next (fireAll 64 s u)))

/-- R105 to R107, R115, R116, R241, R242, R325 to R327, R334, R335: PCHK, YIELD, PYIELD, END, TRAP, BKPT and SYSC, the words that R29 and R32 refuse, and
how a candidate becomes urgent and a demotion ends.
Model choices: log 24 (tags). -/
def Obligations.SystemWordsAct : Prop :=
  ∀ (s : State) (u : Nat) (c : Crew) (d : SReg) (code : BitVec 19) (g : Fin 16) (h : Fin 32) (y : BitVec 25) (z : BitVec 88) (bits : BitVec 96)
      (x : LaneCx) (e : Nat),
    (ScalarReady s u c [d, 1, 2, 3, 4, 5, 6, 7, 8] →
      let synced := { c with synced := c.nextBlock - 1 }
      let asked := preqOf s c ≠ 0 ∧ c.handler = false
      exec (.pchk d) s = writesNext s u c d (BitVec.ofNat 64 (preqOf s c)) ∧
      exec .yield s = .next (putCrew s u (if crewProg s c then { c with fair := { c.fair with demote := 66 } } else c).next) ∧
      (¬asked → exec .pyield s = .next (putCrew s u c.next)) ∧ (asked → c.laneQ ≠ [] → exec .pyield s = stall s) ∧
      (asked → c.laneQ = [] → c.loads = [] → c.reply = [] → exec .pyield s = .next (putCrew s u { synced.next with st := .yielded })) ∧
      (let closed := if c.await = .ending then synced else synced.closeAll
       (c.laneQ = [] → c.loads = [] → c.reply = [] → closed.allDone = true → c.handler = false →
         exec .endCrew s = .next (endTeamIf (putCrew s u closed.finishEnd) c.team) ∧ closed.finishEnd.st = .ended) ∧
       (c.laneQ = [] → closed.allDone = false → exec .endCrew s = stall (putCrew s u { closed with await := .ending }))) ∧
      (c.laneQ ≠ [] → exec .endCrew s = stall s) ∧
      exec (.trap code) s = raiseScalar s u 0x05 0 code.toNat 0 ∧ exec (.bkpt code) s = raiseScalar s u 0x06 0 code.toNat 0 ∧
      (∀ k, c.await = .none → ctxOf s (crewCtx s c) = some k → k.serviceQ = none → exec (.sysc d code) s = raiseScalar s u 0x04 2 0 0) ∧
      (∀ k cb, c.await = .none → ctxOf s (crewCtx s c) = some k → k.serviceQ = some cb → ringFree s k.dev.val cb ≠ 0 →
        exec (.sysc d code) s = .next (putCrew { ringPut s k.dev.val cb 128 (serviceBytes s c s.nextTag code.toNat) with nextTag := s.nextTag + 1 } u
          { c with await := .sysc s.nextTag none })) ∧
      (∀ tag v, c.await = .sysc tag (some v) → exec (.sysc d code) s = writesNext s u c d v) ∧
      (∀ tag, c.await = .sysc tag none → exec (.sysc d code) s = stall s)) ∧
    (∀ k, s.cur = some k → k.lane = false → k.crew = u → crewOf s u = some c →
      (bindingOf s c (96 + g.val) = none → exec (.gatedScalarOpcode g y) s = raiseScalar s u 0x01 2 0 0) ∧
      (bindingOf s c (96 + g.val) = some e →
        exec (.gatedScalarOpcode g y) s = .next (raise s u (scalarTrap k.word 0x03 0 (96 + g.val) 0 (some e)))) ∧
      exec (.undecodableWord false bits .opcode) s = raiseScalar s u 0x01 0 0 0 ∧
      exec (.undecodableWord false bits .function) s = raiseScalar s u 0x01 1 0 0 ∧
      exec (.undecodableWord false bits .field) s = raiseScalar s u 0x02 0 0 0) ∧
    (RunsLane s x →
      (bindingOf s x.c (112 + h.val) = none → exec (.gatedLaneOpcode h z) s = x.raise s 0x01 2 0 allLanes 0) ∧
      (bindingOf s x.c (112 + h.val) = some e → exec (.gatedLaneOpcode h z) s = x.raiseWith s 0x03 0 (112 + h.val) allLanes 0 (some e)) ∧
      exec (.undecodableWord true bits .opcode) s = x.raise s 0x01 0 0 allLanes 0 ∧
      exec (.undecodableWord true bits .function) s = x.raise s 0x01 1 0 allLanes 0 ∧
      exec (.undecodableWord true bits .field) s = x.raise s 0x02 0 0 allLanes 0) ∧
    (crewOf s u = some c → ∀ (slot : Option (Fin 8)) (f : Fair), c.fairOf slot = some f →
      (crewProg s c = true → fairtOf s c ≤ f.count → f.urgent = false →
        exec (.fairtUrgent u slot) s = .next (putCrew s u (c.putFair { f with urgent := true } slot))) ∧
      (f.demote = 1 → exec (.yieldDemotionEnd u slot) s = .next (putCrew s u (c.putFair { f with demote := 0 } slot))))

/-- R41, R97, R108, R111 to R114: a trap of a scalar or lane word, with the crew quiet and a handler, saves the cause, SPC, TINFO, TADDR and the word; TLPC
and TEXEC are all ones and 0 and TFMASK 0 for a scalar word, and for a lane word the first word of its window, the fragment's EXEC and the lanes of the
fault; it freezes the lane queue and the divergence state, enters handler mode and goes to the binding's entry for EMUL, else to TVEC's index; without a
handler, or in handler mode, the crew halts; the general registers and every other special register keep their values.
Model choices: log 68. -/
def Obligations.TrapEntrySavesTheCrew : Prop :=
  let keeps := fun c c' : Crew => c'.s = c.s ∧ c'.v = c.v ∧ c'.p = c.p ∧ c'.t = c.t ∧ c'.astat = c.astat ∧ c'.skew = c.skew ∧ c'.tvec = c.tvec ∧
    c'.tscr = c.tscr ∧ c'.cc = c.cc
  let starts := fun (c : Crew) (entry : Option Nat) (h : Nat) => entry = some h ∨ (entry = none ∧ c.tvec.getLsbD 63 = true ∧ h = bitsOf c.tvec 21 0)
  (∀ (s : State) (u : Nat) (c : Crew) (k : Cur) (cause detail arg : Nat) (addr : W64) (entry : Option Nat) (h : Nat), s.cur = some k →
    crewOf s u = some c → c.alive = true → c.trapping = none → c.quiet = true → detail < 256 → arg < 2 ^ 32 →
    let r : Result := .next (raise s u (scalarTrap k.word cause detail arg addr entry))
    (entry = none → raiseScalar s u cause detail arg addr = r) ∧
    (c.handler = false → starts c entry h → ∃ s' c', r = .next s' ∧ OnlyCrew s s' u c' ∧ keeps c c' ∧
      c'.spc = h ∧ c'.handler = true ∧ c'.tcause = BitVec.ofNat 64 cause ∧ c'.tspc = BitVec.ofNat 64 c.spc ∧
      c'.tlpc = 0xFFFFFFFF ∧ c'.texec = 0 ∧ c'.tfmask = 0 ∧ c'.taddr = addr &&& 0xFFFFFFFFFFFFFF ∧ c'.tword = #v[BitVec.ofNat 64 k.word, 0] ∧
      c'.tinfo = BitVec.ofNat 64 (4 + 256 * detail + 2 ^ 32 * arg) ∧
      (∀ n : Fin 8, c'.tsplit[n] = match c.div.frag n.val with | some f => f.owned | none => 0) ∧
      c'.laneQ = [] ∧ (∀ n, c'.div.frag n = none) ∧ (c'.frozen.map fun f => (f.laneQ, f.div)) = some (c.laneQ, c.div.stop)) ∧
    (c.handler = true → r = .next (haltCrew s u 2 0)) ∧ (c.handler = false → entry = none → c.tvec.getLsbD 63 = false → r = .next (haltCrew s u 3 0))) ∧
  (∀ (s : State) (x : LaneCx) (cause detail arg : Nat) (mask addr : W64) (entry : Option Nat) (h : Nat), RunsLane s x → x.c.alive = true →
    x.c.trapping = none → x.c.loads = [] → (∀ r ∈ x.c.reply, r.waits = true) →
    (∀ n f, n ≠ x.slot → x.c.div.frag n = some f → f.win = none) → detail < 256 → arg < 2 ^ 32 → x.win.done < 4 →
    x.c.handler = false → starts x.c entry h →
    ∃ s' c' fz f, x.raiseWith s cause detail arg mask addr entry = .next s' ∧ OnlyCrew s s' x.u c' ∧ keeps x.c c' ∧ c'.spc = h ∧ c'.handler = true ∧
      c'.tcause = BitVec.ofNat 64 cause ∧ c'.tspc = BitVec.ofNat 64 x.c.spc ∧ c'.tlpc = BitVec.ofNat 64 x.win.start ∧ c'.texec = x.fr.exec ∧
      c'.tfmask = mask ∧ c'.taddr = addr &&& 0xFFFFFFFFFFFFFF ∧ c'.tword = #v[BitVec.ofNat 64 x.word, BitVec.ofNat 64 (x.word / 2 ^ 64)] ∧
      c'.tinfo = BitVec.ofNat 64 (6 + 8 * x.slot + 64 * x.win.done + 256 * detail + 2 ^ 32 * arg) ∧
      (∀ n : Fin 8, c'.tsplit[n] = match x.c.div.frag n.val with | some f => f.owned | none => 0) ∧
      c'.laneQ = [] ∧ (∀ n, c'.div.frag n = none) ∧ c'.frozen = some fz ∧ fz.laneQ = x.c.laneQ ∧ fz.div.serial = x.c.div.serial ∧
      fz.div.frag x.slot = some f ∧ f.lpc = x.win.start ∧ f.latchOk = 0 ∧ f.owned = x.fr.owned ∧ f.exec = x.fr.exec ∧ f.stack = x.fr.stack)

/-- R115: RTE outside handler mode raises PRIV; in it, it waits for the handler's block, then leaves handler mode, clears TINFO's handler bit, restores the
lane queue, and goes to TSPC, or past the trapping scalar word when SKIP is set; fragments keep the lanes that TSPLIT holds.
Model choices: log 68. -/
def Obligations.RteRestoresTheCrew : Prop :=
  ∀ (s : State) (u : Nat) (c : Crew) (fr : Frozen), RunsScalar s u c →
    (c.handler = false → exec .rte s = raiseScalar s u 0x04 0 0 0) ∧
    (c.handler = true → c.frozen = some fr → c.laneQ ≠ [] → exec .rte s = stall s) ∧
    (c.handler = true → c.frozen = some fr → c.laneQ = [] → c.reply = [] →
      ∃ s' c', exec .rte s = .next s' ∧ OnlyCrew s s' u c' ∧ c'.handler = false ∧ c'.frozen = none ∧ c'.laneQ = fr.laneQ ∧
        c'.tinfo = c.tinfo &&& ~~~4#64 ∧ c'.s = c.s ∧ c'.v = c.v ∧ c'.p = c.p ∧ c'.astat = c.astat ∧ c'.tcause = c.tcause ∧
        c'.spc = bitsOf c.tspc 21 0 + (if c.tinfo.getLsbD 0 ∧ !c.tinfo.getLsbD 1 ∧ !c.tinfo.getLsbD 16 then 1 else 0) ∧
        (c.tinfo.getLsbD 1 = false → ∀ n f, n < 8 → fr.div.frag n = some f → f.exec &&& f.owned &&& vget c.tsplit n 0 ≠ 0 →
          ∃ f', (c.returnTrap fr).div.frag n = some f' ∧ f'.owned = vget c.tsplit n 0 &&& f.owned ∧ f'.exec = f.exec &&& f'.owned))

/-- R238 to R240, R353, R354: WLAPP appends one item a lane in ascending order, each list taking what it has room for, and holds its fragment while
items remain; WLPOP moves up to 64 items to the scratchpad and counts them as held, waits while the list is empty, and gives 0 once the launch is
quiescent; WLDONE returns items; QUEUE, ALIGN and PERM name the faults; a launch is quiescent when its teams are placed, its lists empty and its
crews idle with nothing held and no WLAPP in flight.
Model choices: log 39. -/
def Obligations.WorkListsHoldTheirItems : Prop :=
  ∀ (s : State) (u : Nat) (c : Crew) (d a : SReg) (n : Fin 256) (k : Context) (l : Launch) (lw : LaneWord) (s1 s2 : State) (x : LaneCx) (launch : Nat)
      (ctx stamp blk : Nat) (v : W32),
    (LaneReady s (.wlapp lw) (guarded lw) s1 x → ctxOf s1 (crewCtx s1 x.c) = some k → crewLaunch s1 x.c = some l →
      let before := x.fr.appended.getD 0
      let items := (lanesOf (x.lset &&& ~~~ before)).map fun j => (j, (x.src lw lw.a j).toNat, x.src lw lw.b j)
      let r := appendLanes s1.issue x.c k.id s1.nextStamp x.blk.stamp items
      let all := before ||| r.2
      (l.record.wlcap = 0 → exec (.wlapp lw) s = x.raise s1 0x0D 0 (x.src lw lw.a (lowLane x.lset)).toNat x.lset 0) ∧
      (l.record.wlcap ≠ 0 → (∀ j, x.lset.getLsbD j = true → (x.src lw lw.a j).toNat ≤ 255) → x.c.laneAcquiring = false →
        (all = x.lset → exec (.wlapp lw) s = x.finish r.1 x.c) ∧
        (all ≠ x.lset → exec (.wlapp lw) s =
          stall (modCrew r.1 x.u fun c => { c with div := c.div.modFrag x.slot fun f => { f with appended := some all } })))) ∧
    (ctxOf s ctx = some k →
      let i : WorkItem := ⟨v, k.place n.val, c.uid, stamp, blk⟩
      (k.wlCap ≤ (k.list n.val).length → appendItem s c ctx n.val v stamp blk = (s, false)) ∧
      ((k.list n.val).length < k.wlCap → appendItem s c ctx n.val v stamp blk =
        (storeItem (modCtx s ctx fun y => { y with lists := kset y.lists n.val (k.list n.val ++ [i]) }) c k n.val i, true))) ∧
    (ScalarReady s u c [d, a] → ctxOf s (crewCtx s c) = some k → crewLaunch s c = some l →
      let va := c.rs a
      let items := (k.list n.val).take 64
      (l.record.wlcap = 0 → exec (.wlpop d a n) s = raiseScalar s u 0x0D 0 n.val 0) ∧
      (l.record.wlcap ≠ 0 → va.toNat % 4 ≠ 0 → exec (.wlpop d a n) s = raiseScalar s u 0x0A 0 0 va) ∧
      (l.record.wlcap ≠ 0 → va.toNat % 4 = 0 → scratchSize l < va.toNat + 256 → exec (.wlpop d a n) s = raiseScalar s u 0x0C 1 0 va) ∧
      (l.record.wlcap ≠ 0 → va.toNat % 4 = 0 → va.toNat + 256 ≤ scratchSize l →
        (l.quiet = true → exec (.wlpop d a n) s = .next (putCrew (acquire s u) u (c.ws d 0).next)) ∧
        (items = [] → l.quiet = false → exec (.wlpop d a n) s = stall (putCrew s u { c with await := .popping n.val })) ∧
        (items ≠ [] → l.quiet = false → items.all (itemReady s) = true → popAhead s c n.val = false → c.scratchClear = true → c.acquiring = false →
          touchRange s c.team c.scalarTouch c.coreIdx va.toNat 256 = .go s2 →
          let s3 := modCtx (scratchWrite s2 c.team c.coreIdx va.toNat (items.flatMap fun i => leBytes 4 i.value.toNat)) k.id
            fun k => { k with lists := kset k.lists n.val ((k.list n.val).drop 64) }
          exec (.wlpop d a n) s = .next (putCrew (acquire s3 u) u
            ({ c with holds := kset c.holds n.val (kgetD c.holds n.val 0 + items.length) }.ws d (BitVec.ofNat 64 items.length)).next)))) ∧
    (ScalarReady s u c [a] →
      let m := (c.rs a).toNat
      let held := kgetD c.holds n.val 0
      (held < m → exec (.wldone a n) s = raiseScalar s u 0x0D 5 n.val 0) ∧
      (m ≤ held → exec (.wldone a n) s = .next (putCrew s u { c with holds := kset c.holds n.val (held - m) }.next))) ∧
    (launchOf s launch = some l → ctxOf s l.ctx = some k → l.next = l.record.grid → l.back = [] →
      (∀ e ∈ s.saved, e.2.1.launch ≠ launch) → 0 < l.record.wlcap → l.quiet = false → (∀ e ∈ k.lists, e.2 = []) →
      (∀ e ∈ s.crews, teamLaunch s e.2.team = launch →
        e.2.passive = true ∧ (e.2.alive = true → e.2.appending = false ∧ ∀ h ∈ e.2.holds, h.2 = 0)) →
      exec (.quiescenceEvent launch) s = .next (putLaunch s launch { l with quiet := true }))

/-! ## Fences, lane memory words and engines (R185 to R188, R199 to R219, R234 to R266, R281 to R285) -/

/-- R234 to R237, R281 to R284, R300, R405: a FENCE that waits for nothing drains its core's buffers and, below die scope, ends, a release leaving its mark
in the issue order; from die scope on, as RFLUSH, it writes its team's dirty granules back first; CFENCE moves the crew's constant reads on; FENCEP ends
when no remote command is outstanding; a fill brings a granule's bytes from its global address, and a write-back sends its marked sectors there.
Model choices: log 49. -/
def Obligations.FencesAndRegionsOrder : Prop :=
  ∀ (s : State) (u : Nat) (c : Crew) (w : Bool) (k : Fin 4) (sc : Fin 8) (t : Team) (l : Launch) (team core granule : Nat) (r : RegionEntry)
      (s1 : State) (pa : Nat),
    (ScalarReady s u c [] →
      let c1 := if w then { c with synced := c.nextBlock - 1 } else c
      let scope := if s.mode = 2 ∧ sc.val = 3 then 4 else sc.val
      let ends := fun s2 : State =>
        (k.val ≠ 0 → exec (.fenceWord w k sc) s = .next (putCrew (acquire s2 u) u c1.next)) ∧
        (k.val = 0 → exec (.fenceWord w k sc) s = .next (putCrew s2.issue u (c1.markFence s2.nextStamp scope).next))
      (c.await = .none → (w = true → c.laneQ = []) → c.sideLog = [] → c.loads = [] →
        (k.val = 2 → released c1 c1.synced s.nextStamp scope = true) → (k.val ≠ 0 → atomOpen s c1 = false) →
        drainBuffers s c.die c.core (fun _ => true) = some s1 →
        (scope < 2 → ends s1) ∧ (2 ≤ scope → c1.scratchClear = true → flushBegins s1 u c1 (exec (.fenceWord w k sc) s) ends)) ∧
      ((w = true → c.laneQ = []) → flushEnds s u c1 (exec (.fenceWord w k sc) s) ends) ∧
      (c.sideLog ≠ [] → w = false → c.await = .none → exec (.fenceWord w k sc) s = stall s) ∧
      (c.storeQ = [] → c.sideLog = [] → exec .cfence s = .next (putCrew s u { c with cfence := c.cfence + 1 }.next)) ∧
      (c.storeQ ≠ [] ∨ c.sideLog ≠ [] → exec .cfence s = stall s) ∧
      (let c2 := { c with synced := c.nextBlock - 1 }
       let passes := fun s2 : State => exec .rflush s = .next (putCrew s2 u c2.next)
       (c.await = .none → c.laneQ = [] → c2.scratchClear = true → drainBuffers s c.die c.core (fun _ => true) = some s1 →
         flushBegins s1 u c2 (exec .rflush s) passes) ∧
       (c.laneQ = [] → flushEnds s u c2 (exec .rflush s) passes)) ∧
      ((∀ o ∈ (fabricOf s (crewDev s c)).out, o.crew ≠ u) → exec .fencep s = .next (putCrew s u c.next)) ∧
      (c.await = .none → (∃ o ∈ (fabricOf s (crewDev s c)).out, o.crew = u ∧ o.cmd < s.nextCmd) →
        exec .fencep s = stall (putCrew s u { c with await := .fencep s.nextCmd }))) ∧
    (teamOf s team = some t → launchOfTeam s t = some l → regionAt l core (256 * granule) = some r →
      let free := fun write => engineWaits s1 l.dev.val t.die (t.coreOf core) write pa 256 = false
      let key := granKey core (256 * granule)
      let g := kgetD t.granules key Granule.empty
      let va := granGlobal t r (256 * granule)
      let near := homedFar l.dev.val t.die pa = true → overdue s1 g.sent = false
      (g.st = .filling → mapGranule s t l key va .load 0x21 = (s1, .ok pa) → free false → near →
        exec (.granuleFillComplete team core granule) s = .next (fillGranule s1 t l key pa)) ∧
      (g.st = .writing → mapGranule s t l key va .store 0x22 = (s1, .ok pa) → free true → near →
        exec (.granuleWriteBackDone team core granule) s = .next (modTeam ((wbSectors g).foldl (fun s i => writeSector s t l g va pa i) s1) team
          fun t => t.modGran key fun g => g.written none)))

/-- R200 to R215: lane memory words whose lanes pass their checks. VLD, VLDK, VATOM and VCAS are issued with the addresses and operands of their lanes,
VST, VRDX and VATOM without return are queued as one entry, VRED's contributions go to the atomic buffer, VLDS and VSTS, skewed or not, go to the
owner cores' ports, VPREF does nothing; the earliest failing check raises its cause in the lanes that fail it.
Model choices: logs 8, 49 and 65; log 81 for the bytes of a skewed access. -/
def Obligations.LaneMemoryWordsAreIssued : Prop :=
  ∀ (s : State) (w : LaneWord) (s1 s2 s3 : State) (x : LaneCx) (pa : Nat → Nat) (fl : Nat) (t t1 : Team) (l : Launch) (home : Nat → Nat)
      (place : Nat → Nat) (hi : Nat → Option Nat),
    let sc := scaleOf w
    let n := widthOf w.ty
    let zero := fun _ : Nat => (0 : W64)
    let op : AtomOp := ⟨false, w.fn.toNat / 16 % 8, w.fn.getLsbD 3, w.fn.toNat / 128⟩
    let host := op.op != 0 && op.op != 3
    let loads := fun (space : Space) (a : Option AtomOp) (ls : List LaneAcc) (fresh : Bool) =>
      x.finish s2.issue { x.c with loads := x.c.loads ++ [x.pending s2 w s2.nextStamp space n (extendOf w.ty) a ls fresh] }
    let checked := (globalLanes x w sc).map fun l => (l.1, l.2, LaneCheck.ok (pa l.1))
    let queues := fun f : StoreSpec => x.finish s2.issue { x.c with storeQ := x.c.storeQ ++ [x.storeEntry s2 w f s2.nextStamp checked []] }
    let free := fun n => ∀ j, x.lset.getLsbD j = true → x.c.blindStore (pa j) n = false
    0 < n → x.c.laneAcquiring = false → x.c.sideLog = [] →
      (w.ty ≠ .xa96 → LaneReady s (.vld w) (guarded w) s1 x → lanesPass s1 x w sc n .load false s2 pa → free n →
        exec (.vld w) s = loads .global none (accLanes x w sc pa zero zero) false) ∧
      (∀ bad f, w.ty ≠ .xa96 → LaneReady s (.vld w) (guarded w) s1 x →
        checkLanes s1 x.c.die x.c.core (crewDev s1 x.c) (crewCtx s1 x.c) n .load false (globalLanes x w sc) = (s2, bad) → firstFail bad = some f →
        (∀ l ∈ globalLanes x w sc, refused x.fr.held (l.2.toNat / 4096) = false) → f.detail ≠ 6 → f.detail ≠ 7 → exec (.vld w) s = x.raise s2 f.cause f.detail 0 f.mask f.addr) ∧
      (w.ty = .xa96 → LaneReady s (.vld w) (guarded w) s1 x → lanesPass s1 x w 4 16 .load false s2 pa → free 16 →
        exec (.vld w) s = x.finish s2.issue { x.c with loads := x.c.loads ++
          [x.pending s2 w s2.nextStamp .global 16 (.exact w.xaP) none (accLanes x w 4 pa zero zero) false] }) ∧
      (LaneReady s (.vldk w) (guarded w) s1 x → lanesPass s1 x w sc n .load false s2 pa →
        exec (.vldk w) s = loads .constant none (accLanes x w sc pa zero zero) (0 < x.blk.cfence)) ∧
      (LaneReady s (.vatom w) (guarded w) s1 x → lanesPass s1 x w sc n .atomic host s2 pa → x.c.portClear = true →
        exec (.vatom w) s = loads .global (some op) (accLanes x w sc pa (x.dataOf w) (x.destOf w)) false) ∧
      (LaneReady s (.vcas w) (guarded w) s1 x → lanesPass s1 x w sc n .atomic false s2 pa → x.c.portClear = true →
        exec (.vcas w) s = loads .global (some { op with cas := true }) (accLanes x w sc pa (x.dataOf w) (x.destOf w)) false) ∧
      (LaneReady s (.vst w) (guarded w) s1 x → lanesPass s1 x w sc n .store false s2 pa →
        exec (.vst w) s = queues ⟨.plain, n, sc, 0, 0, 0⟩) ∧
      (LaneReady s (.vatomNoReturn w) (guarded w) s1 x → lanesPass s1 x w sc n .atomic host s2 pa →
        exec (.vatomNoReturn w) s = queues ⟨.vatom, n, sc, op.op, flag op.ord, x.blk.stamp⟩) ∧
      (LaneReady s (.vrdx w) (guarded w) s1 x → checkLanes s1 x.c.die x.c.core (crewDev s1 x.c) (crewCtx s1 x.c) 16 .store true (globalLanes x w 4) =
          (s2, (globalLanes x w 4).map fun l => (l.1, l.2, .ok (pa l.1))) →
        exec (.vrdx w) s = x.finish s2.issue { x.c with storeQ := x.c.storeQ ++ [x.storeEntry s2 w ⟨.vrdx, 16, 4, 0, 0, w.xaP⟩ s2.nextStamp
          ((globalLanes x w 4).map fun l => (l.1, l.2, .ok (pa l.1))) []] }) ∧
      (LaneReady s (.vred w) (guarded w) s1 x → lanesPass s1 x w sc 4 .store true s2 pa →
        let es : List BufEntry := (lanesOf x.lset).map fun k =>
          ⟨x.u, x.globalVa w sc k, pa k, w.ty, w.fn.toNat / 16 % 4, w.fn.toNat / 64, x.src w w.b k, none⟩
        contributeAll s2 x.c es = some (s3, fl) →
        exec (.vred w) s = x.finish (es.foldl (fun s e => signAccess s x.c.team e.va (leBytes 4 e.value.toNat)) s3) (x.c.raiseFlags fl)) ∧
      (LaneReady s (.vpref w) (guarded w) s1 x → exec (.vpref w) s = x.finish s1 x.c) ∧
      (let tile := if w.fn.getLsbD 3 then skewTile x.blk.skew else none
       let acc := fun (data : Nat → W64) k => (home k, { laneAcc k ((x.scratchVa w k).zeroExtend 64) (place k) (data k) 0 with hi := hi k })
       let lanes := fun data => (lanesOf x.lset).map (acc data)
       let near := fun data => (lanes data).filter fun e => !coreLost s1 t e.1
       let touches := fun data => scratchBad t x.toucher n (near data) = none ∧
         scratchTouch (Toucher.waits s1) l x.toucher n t (near data) = (t1, true)
       let s4 := (putTeam s1 x.c.team (t1.passed x.toucher)).issue
       let read := fun e : Nat × List LaneAcc => x.pending s1 w s1.nextStamp (.scratch e.1) n (extendOf w.ty) none e.2 false
       let write := fun e : Nat × List LaneAcc =>
         { x.storeEntry s1 w ⟨.plain, n, 0, 0, 0, 0⟩ s1.nextStamp [] [] with space := .scratch e.1, lanes := e.2 }
       teamOf s1 x.c.team = some t → crewLaunch s1 x.c = some l → (w.fn.getLsbD 3 = true → tile ≠ none ∧ bitsOf x.blk.skew 7 0 = 0) →
        (∀ k, x.lset.getLsbD k = true → checkScratch l.kernel.shape (scratchSize l) n tile (x.scratchVa w k) = .ok (home k) (place k) (hi k)) →
        (LaneReady s (.vlds w) (guarded w) s1 x → touches zero →
          exec (.vlds w) s = x.finish s4 { x.c with loads := x.c.loads ++ (byCore (lanes zero)).map read }) ∧
        (LaneReady s (.vsts w) (guarded w) s1 x → touches (x.dataOf w) →
          exec (.vsts w) s = x.finish s4 { x.c with storeQ := x.c.storeQ ++ (byCore (lanes (x.dataOf w))).map write }))

/-- R207: of the lanes of a word, those that fail the earliest check that any lane fails take the trap; its address is that of the lowest of them. -/
def Obligations.EarliestCheckIsReported : Prop :=
  ∀ (ls : List (Nat × W64 × LaneCheck)) (f : CheckFail), firstFail ls = some f →
    ∃ n, 1 ≤ n ∧ n ≤ 4 ∧ (∀ l ∈ ls, ∀ k c d, l.2.2 = .fail k c d → 1 ≤ k → n ≤ k) ∧
      (∀ i, i < 64 → (f.mask.getLsbD i = true ↔ ∃ l ∈ ls, l.1 = i ∧ ∃ c d, l.2.2 = .fail n c d)) ∧
      ∃ pre l post, ls = pre ++ l :: post ∧ l.2.1 = f.addr ∧ l.2.2 = .fail n f.cause f.detail ∧ ∀ p ∈ pre, ∀ c d, p.2.2 ≠ .fail n c d

/-- R186, R187, R189, R216, R218, R219: CPY, CPYM and CPYT take a descriptor that passes its checks into the core's copy queue as one command of its
counter's open batch, once the accesses before it are performed, and raise the cause of the first check that fails; the command completes, in its
batch, once each of its elements is written.
Model choices: log 82 (TADDR of a check that fails is the descriptor's offset, 0 for RESFIELD); log 90 (no element waits for its sending). -/
def Obligations.CopiesAreAcceptedAndComplete : Prop :=
  ∀ (s : State) (w : LaneWord) (s1 s2 : State) (x : LaneCx) (t : Team) (l : Launch) (bs : List Byte) (die core n : Nat) (k : CopyCmd),
    let off := (x.literal w).toNat
    let takes : Nat → Instr → Prop := fun kind i =>
      LaneReady s i (guarded w) s1 x → teamOf s1 x.c.team = some t → crewLaunch s1 x.c = some l → (coreAt s1 x.c.die x.c.core).copyQ.length < 32 →
        accessesDone x.c s1.nextStamp x.blk.stamp 0 = true → readDesc s1.issue x.c l x.toucher off = .ok s2 bs false → crewOf s2 x.u = some x.c →
        (kget s2.cores (coreKey x.c.die x.c.core)).isSome = true →
        (∀ cause detail, descCheck kind off (scratchSize l) (tileRows l) l.kernel.shape bs = some (cause, detail) →
          exec i s = x.raise s2 cause detail 0 allLanes (if cause = 0x02 then 0 else BitVec.ofNat 64 off)) ∧
        (descCheck kind off (scratchSize l) (tileRows l) l.kernel.shape bs = none →
          let cmd : CopyCmd :=
            { id := s2.nextCmd, crew := x.u, kind := kind, desc := copyDesc bs, stamp := s1.nextStamp, scalarTo := x.blk.stamp, blockTo := 0,
              word := faultWord true x.fr.lpc, data := [], doneEl := [], sent := [], wrote := [], waits := [], failure := none }
          ∃ s3 c3, exec i s = x.finish s3 c3 ∧ c3 = x.c.modCC (copyDesc bs).cc (fun q => q.join s2.nextCmd) ∧
            (coreAt s3 x.c.die x.c.core).copyQ = (coreAt s2 x.c.die x.c.core).copyQ ++ [cmd] ∧ s3.mem = s2.mem ∧ s3.nextCmd = s2.nextCmd + 1)
    takes 0 (.cpy w) ∧ takes 1 (.cpym w) ∧ takes 2 (.cpyt w) ∧
    ((coreAt s die core).copyQ[n]? = some k → n < 8 → k.ordered s = true →
      let own := match crewOf s k.crew with | some c => c.coreIdx | none => 0
      ∀ k', copyElements s die core n ((k.elements own).filter fun e => !k.doneEl.contains e) = (s1, true) → (coreAt s1 die core).copyQ[n]? = some k' →
      exec (.copyComplete die core n) s =
        .next (finishCommand (modCore s1 die core fun co => { co with copyQ := ldel co.copyQ n }) k.crew k.id k'.failure))

/-- R244 to R249, R255, R261 to R266: M words of a matrix crew whose fragment holds all 64 lanes. MXDRAIN, MXZERO and MXSTAT enter their quadrant's queue
when it has room; MXFENCE sets the fence flag; MXMMA waits at its word until the four crews of the core wait, and then all four enter their queues, or
trap together when their fields differ or a fence is missing; entries complete in their slot's order: the four entries of an accepted MXMMA leave their queues together,
each slot holding what its products give, and MXZERO clears its slot and loads C, masked rows reading nothing.
Model choice: log 83 (an MXMMA's descriptor is checked before whether a crew of its quad has ended). -/
def Obligations.MatrixWordsAreQueued : Prop :=
  ∀ (s : State) (w : MWord) (s1 : State) (x : LaneCx) (t : Team) (l : Launch) (die core : Nat) (q : Fin 4) (n : Nat) (e : MxEntry) (c : Crew)
      (four : List (LaneCx × MWord)),
    let all := fun (_ : Crew) (_ : Frag) => allLanes
    let enters : MxOp → Instr → Nat → Prop := fun op i off =>
      LaneReady s i all s1 x → x.c.laneAcquiring = false → x.c.fencesClear false 0 x.blk.ord = true →
        (quadOf s1 x.c.die x.c.core x.c.quadrant).queue.length < 4 →
        exec i s = x.finish (modQuad { s1 with nextCmd := s1.nextCmd + 1 } x.c.die x.c.core x.c.quadrant
          fun d => { d with queue := d.queue ++ [mxEntry s1.nextCmd x.u op w x.blk off (tileReads x.c.capture)] }) (x.c.modCC w.cc.val fun k => k.join s1.nextCmd)
    (LaneReady s (.mxstat w) all s1 x → x.c.kind ≠ 2 → exec (.mxstat w) s = x.raise s1 0x04 1 0 allLanes 0) ∧
    (LaneReady s (.mxstat w) all s1 x → x.c.kind = 2 → x.fr.owned ≠ allLanes → exec (.mxstat w) s = x.raise s1 0x08 2 0 allLanes 0) ∧
    (x.c.kind = 2 → x.fr.owned = allLanes → teamOf s1 x.c.team = some t → crewLaunch s1 x.c = some l →
      enters .stat (.mxstat w) 0 ∧
      (w.init = true ∨ imageBad (tileRows l) (mxBytes w.tyC) (x.blk.tiles[w.tA.val]) = false → enters .zero (.mxzero w) 0) ∧
      (w.dst = 2 ∨ (w.dst = 0 ∧ imageBad (tileRows l) (mxBytes (drainTy w)) (x.blk.tiles[w.tA.val]) = false) → enters .drain (.mxdrain w) 0) ∧
      (let off := (vget x.blk.snap (w.sreg - 1) 0).toNat % 2 ^ 32
       w.dst = 1 → off % 4 = 0 → off + 4096 * mxBytes (drainTy w) ≤ scratchSize l → enters .drain (.mxdrain w) off) ∧
      (LaneReady s (.mxfence w) all s1 x → x.c.loads.any (fun l => !l.scalar) = false →
        exec (.mxfence w) s = x.finish s1 { x.c with fenceFlag := true, capture := tileReads x.c.capture }) ∧
      (LaneReady s (.mxmma w) all s1 x →
        (∀ d, descDetail w (tileRows l) (x.blk.tiles[w.tA.val]) (vget x.blk.tiles (w.tA.val + 1) 0) = some d →
          exec (.mxmma w) s = x.raise s1 0x02 d 0 allLanes 0) ∧
        (descDetail w (tileRows l) (x.blk.tiles[w.tA.val]) (vget x.blk.tiles (w.tA.val + 1) 0) = none →
          (∀ k ∈ quadCrews s1 x.c, k.uid ≠ x.u → k.alive = true) → x.c.laneAcquiring = false → x.c.fencesClear false 0 x.blk.ord = true →
          exec (.mxmma w) s = stall (modCrew s1 x.u fun c => { c with mma := some w })))) ∧
    (let crews := (coreCrews s die core).filter (waitsMma s)
     four = (List.range 4).filterMap (fun q => (crews.find? (·.quadrant == q)).bind (mmaCx s)) → four.length = 4 →
     (∀ q, q < 4 → (quadOf s die core q).queue.length < 4) → (∀ y ∈ four, ∀ z ∈ four, y.1.c.team = z.1.c.team) →
       ((∃ y ∈ four, ∃ z ∈ four, mmaKey y.2 ≠ mmaKey z.2) → exec (.mxmmaJointAccept die core) s = .next (mmaTrap s 1 four)) ∧
       ((∀ y ∈ four, ∀ z ∈ four, mmaKey y.2 = mmaKey z.2) → (∃ y ∈ four, y.1.c.fenceFlag = false) →
         exec (.mxmmaJointAccept die core) s = .next (mmaTrap s 3 four)) ∧
       ((∀ y ∈ four, ∀ z ∈ four, mmaKey y.2 = mmaKey z.2) → (∀ y ∈ four, y.1.c.fenceFlag = true) →
         exec (.mxmmaJointAccept die core) s = .next (mmaAccept s four))) ∧
    ((quadOf s die core q.val).queue[n]? = some e → entryReady (quadOf s die core q.val).queue n e = true → crewOf s e.crew = some c →
      let sl := (quadOf s die core q.val).slot e.word.slot
      (e.op = .stat → exec (.mxEntryComplete die core q n) s =
        .next (leaveQueue (modQuad (modCrew s e.crew fun c => (c.engineWrote [e.word.vB.val]).wv e.word.vB.val (~~~ BitVec.ofNat 64 (kgetD e.drained 0 0)) (statLanes sl)) die core q.val fun d => d.putSlot e.word.slot
          (if e.word.init then { sl with counts := Vector.replicate 4 0, shifts := Vector.replicate 4 0 } else sl)) die core q.val n)) ∧
      (e.op = .zero → e.word.init = true → (teamOf s c.team).isSome = true → exec (.mxEntryComplete die core q n) s =
        .next (leaveQueue (modQuad s die core q.val fun d => d.putSlot e.word.slot { MxSlot.reset with fields := e.word.lvl }) die core q.val n)) ∧
      (e.op = .zero → e.word.init = false → teamOf s c.team = some t → tornC s t c.coreIdx e = false →
        let loaded := zeroSlot s t c.coreIdx e
        exec (.mxEntryComplete die core q n) s = .next (haltBad
          (leaveQueue (modQuad s die core q.val fun d => d.putSlot e.word.slot loaded.1) die core q.val n) e.crew loaded.2) ∧
        loaded.1.fields = e.word.lvl ∧ loaded.1.kind = (if e.word.tyC = 4 then .integer else .floating) ∧
        ∀ m k, m < 64 → k < 64 →
          let cell := kgetD loaded.1.cells (64 * m + k) Cell.zero
          let x := (imageElem s t c.coreIdx e m k).1
          (e.rows ≤ m → cell = Cell.zero) ∧
          (m < e.rows → e.word.tyC = 4 → cell = { Cell.zero with sum := BitVec.ofNat 32 x }) ∧
          (m < e.rows → e.word.tyC ≠ 4 → e.word.tyC ≠ 8 → cell = match (mxFmt e.word.tyC).decode x with
            | .nan => { Cell.zero with nan := true }
            | .inf p => if p then { Cell.zero with ninf := true } else { Cell.zero with pinf := true }
            | .zero _ => Cell.zero
            | .num p a i =>
              let l := level3 e.word.lvl
              let r := levelAdd .zero { neg := p, mag := a, exp := i } l.width l.rne l.rtz
              { Cell.zero with lv3 := r.value, ufl := r.ufl }) ∧
          (m < e.rows → e.word.tyC = 8 → cell = (loadInternal e.word.lvl Cell.zero Monitors.zero x).1)) ∧
      (e.op = .drain → drainRows s die core q.val n (List.range 64) = (s1, true) →
        let sl := (quadOf s1 die core q.val).slot e.word.slot
        exec (.mxdrainComplete die core q n) s =
          .next (leaveQueue (modQuad (modCrew s1 e.crew fun c => c.raiseFlags (drainFlags e.word sl)) die core q.val
            fun d => d.putSlot e.word.slot (drainedSlot e.word sl)) die core q.val n))) ∧
    (let es := (List.range 4).filterMap (oldestMma s die core)
     let cols := (es.flatMap fun y => (List.range 16).map fun j => bCol y.2.1 y.2.2 j).toArray
     let after := fun (i : Nat) (y : Nat × MxEntry × Crew) (t : Team) =>
       mmaSlot s t y.2.2.coreIdx y.2.1 cols ((quadOf s die core i).slot y.2.1.word.slot)
     es.length = 4 → (kget s.cores (coreKey die core)).isSome = true →
      (∀ i y, es[i]? = some y → entryReady (quadOf s die core i).queue y.1 y.2.1 = true ∧
        ∃ t, teamOf s y.2.2.team = some t ∧ tornA s t y.2.2.coreIdx y.2.1 = false ∧ (after i y t).2 = none) →
      (quadOf s die core q.val).queue[n]? = some e → e.op = .mma → entryReady (quadOf s die core q.val).queue n e = true →
      ∃ s', exec (.mxEntryComplete die core q n) s = .next s' ∧ s'.mem = s.mem ∧ ∀ i y t, es[i]? = some y → teamOf s y.2.2.team = some t →
        (quadOf s' die core i).queue = (quadOf s die core i).queue.eraseIdx y.1 ∧
        (quadOf s' die core i).slot y.2.1.word.slot = (after i y t).1) ∧
    ((quadOf s die core q.val).queue[n]? = some e → entryReady (quadOf s die core q.val).queue n e = false →
      exec (.mxEntryComplete die core q n) s = stall s ∧ exec (.mxdrainComplete die core q n) s = stall s)

/-- R69 to R77, R256, R263: an integer MXMMA adds to each cell of its slot the sum of the row's and the column's products, as signed bytes, modulo 2^32, an element that is
not valid counting as 0; nothing else of a cell and no monitor changes, unless the word clears the slot first. A floating one feeds each cell its products chunk by
chunk: NaN and infinite products set flags, a zero product takes no part, the others are aligned to the chunk's greatest exponent and summed, or summed exactly and
scaled for MXFP4; each chunk sum enters level 1, each full group the next level, rounded to its width; and a drain closes the tree and converts level 3. -/
def Obligations.MatrixProductsAreSummed : Prop :=
  (∀ (s : State) (t : Team) (idx : Nat) (e : MxEntry) (cols : Array (List Nat × List Nat)) (col : List Nat × List Nat) (sl : MxSlot) (m n : Nat),
    e.word.tyA = 4 → m < 64 → n < 64 → cols[n]? = some col → col.1.length = mxLen e.word →
    let cell := fun x : MxSlot => kgetD x.cells (64 * m + n) Cell.zero
    let before := if e.word.init = true ∨ (sl.kind ≠ .empty ∧ sl.kind ≠ .integer) then MxSlot.reset else sl
    let after := (mmaSlot s t idx e cols sl).1
    let product := fun k : Nat => match elemA s t idx e m k with
      | none => (0 : Int)
      | some a => (BitVec.ofNat 8 a.1).toInt * (BitVec.ofNat 8 (col.1.getD k 0)).toInt
    after.kind = .integer ∧ after.fields = e.word.lvl ∧ after.counts = before.counts ∧ after.shifts = before.shifts ∧
    cell after = { cell before with sum := (cell before).sum + BitVec.ofInt 32 ((List.range (mxLen e.word)).map product).sum }) ∧
  (∀ (s : State) (t : Team) (idx : Nat) (e : MxEntry) (cols : Array (List Nat × List Nat)) (col : List Nat × List Nat) (sl : MxSlot) (m n : Nat),
    e.word.tyA ≠ 4 → m < 64 → n < 64 → cols[n]? = some col → col.1.length = mxLen e.word →
    let f := e.word.lvl
    let cell := fun x : MxSlot => kgetD x.cells (64 * m + n) Cell.zero
    let before := if e.word.init = true ∨ (sl.kind ≠ .empty ∧ sl.kind ≠ .floating) then MxSlot.reset else sl
    let after := (mmaSlot s t idx e cols sl).1
    let sa := fun k => if scaledA e.word = true ∧ m < e.rows then (scaleA s t idx e (k / 32) m).1 else 127
    let scale := fun k : Nat => (sa k : Int) + (col.2.getD (k / 32) 127 : Nat) - 254
    let product := fun k : Nat => match elemA s t idx e m k with
      | none => Term.none
      | some a => term (sa k == 0xFF || col.2.getD (k / 32) 127 == 0xFF) (if e.word.tyA = 2 ∧ e.word.tyB = 2 then 0 else scale k)
          ((mxFmt e.word.tyA).decode a.1) ((mxFmt e.word.tyB).decode (col.1.getD k 0))
    after.kind = .floating ∧ after.fields = f ∧
    ∃ cs : Nat → Cell, cs 0 = cell before ∧ cell after = cs ((mxLen e.word + chunkLen f - 1) / chunkLen f) ∧
      ∀ i, i * chunkLen f < mxLen e.word →
        let ts := (List.range (Nat.min (chunkLen f) (mxLen e.word - i * chunkLen f))).map fun j => product (i * chunkLen f + j)
        let nums := ts.filterMap fun t => match t with | .num x => some x | _ => none
        let sum := if e.word.tyA = 2 ∧ e.word.tyB = 2 then exactChunk (scale (i * chunkLen f)) nums else (level0 f Monitors.zero nums).1
        let flagged := { cs i with nan := (cs i).nan || ts.any fun t => match t with | .nan => true | _ => false,
                                   pinf := (cs i).pinf || ts.any fun t => match t with | .inf false => true | _ => false,
                                   ninf := (cs i).ninf || ts.any fun t => match t with | .inf true => true | _ => false }
        cs (i + 1) = (closeChunk f flagged Monitors.zero sum).1) ∧
  (∀ (bad : Bool) (sc : Int) (a b : FVal) (p q : Bool) (m n : Nat) (i j : Int),
    term true sc a b = .nan ∧ term bad sc .nan b = .nan ∧ term bad sc a .nan = .nan ∧ term bad sc (.inf p) (.zero q) = .nan ∧ term bad sc (.zero p) (.inf q) = .nan ∧
    term false sc (.inf p) (.inf q) = .inf (p != q) ∧ term false sc (.inf p) (.num q n j) = .inf (p != q) ∧ term false sc (.num p m i) (.inf q) = .inf (p != q) ∧
    term false sc (.zero p) (.num q n j) = .none ∧ term false sc (.num p m i) (.zero q) = .none ∧ term false sc (.zero p) (.zero q) = .none ∧
    term false sc (.num p m i) (.num q n j) = .num { neg := p != q, mag := m * n, exp := i + j + sc }) ∧
  (∀ (x : Machine.Dyadic) (q units : Int) (w : Nat) (rne rtz : Bool), 0 < w →
    let mode := fun even : Bool => ({ rm := if even then 0 else 1, rb := 0, ftz := false, sat := false } : Rnd)
    let b := min q x.exp
    let a := x.mag * 2 ^ (x.exp - b).toNat
    let u := 2 ^ (q - b).toNat
    x.align q rne = (signed x.neg (roundedTo (mode rne) false a u / u), decide (a % u ≠ 0)) ∧
    fitUnits 0 q w rtz = (.zero, false) ∧
    (units ≠ 0 →
      let v := roundedTo (mode !rtz) false units.natAbs (2 ^ (Nat.log2 units.natAbs + 1 - w))
      (q + Nat.log2 v < -511 → fitUnits units q w rtz = (.zero, true)) ∧
      (-511 ≤ q + Nat.log2 v → ∃ y, fitUnits units q w rtz = (y, false) ∧ y.neg = decide (units < 0) ∧ q ≤ y.exp ∧ y.mag * 2 ^ (y.exp - q).toNat = v))) ∧
  (∀ (f : BitVec 31) (m : Monitors) (xs : List Machine.Dyadic), level0 f m [] = (.zero, m) ∧
    (xs ≠ [] → ∃ emax : Int, (∃ x ∈ xs, x.expOf = emax) ∧ (∀ x ∈ xs, x.expOf ≤ emax) ∧
      let part := fun x : Machine.Dyadic => x.align (emax - (12 + f.toNat / 4 % 16 : Nat)) (f.getLsbD 6)
      level0 f m xs = (Machine.Dyadic.ofInt (xs.map fun x => (part x).1).sum (emax - (12 + f.toNat / 4 % 16 : Nat)),
        xs.foldl (fun m x => m.see 0 (emax - x.expOf).toNat (part x).2) m))) ∧
  (∀ (acc x : Machine.Dyadic) (w : Nat) (rne rtz : Bool),
    let r := levelAdd acc x w rne rtz
    (x.mag = 0 → r.value = acc ∧ r.ufl = false ∧ r.event = none) ∧
    (x.mag ≠ 0 → ∃ big small : Machine.Dyadic, (big, small) = (if acc.mag = 0 ∨ acc.expOf < x.expOf then (x, acc) else (acc, x)) ∧
      let q := big.expOf - w + 1
      let fitted := fitUnits ((big.align q rne).1 + (small.align q rne).1) q w rtz
      r.value = fitted.1 ∧ r.ufl = fitted.2 ∧
      r.event = some (if small.mag = 0 then 0 else (big.expOf - small.expOf).toNat, (big.align q rne).2 || (small.align q rne).2))) ∧
  (∀ (f : BitVec 31) (c : Cell) (m : Monitors) (x : Machine.Dyadic),
    let add := fun (l : Level) (acc x : Machine.Dyadic) => levelAdd acc x l.width l.rne l.rtz
    let one := add (level1 f) c.lv1 x
    let two := add (level2 f) c.lv2 one.value
    let three := add (level3 f) c.lv3 two.value
    (level1 f).width = 14 + f.toNat / 2 ^ 10 % 16 ∧ (level2 f).width = 16 + f.toNat / 2 ^ 19 % 16 ∧ (level3 f).width = 16 + f.toNat / 2 ^ 25 % 16 ∧
    (c.n1 + 1 < group1 f → closeChunk f c m x = ({ c with lv1 := one.value, n1 := c.n1 + 1, ufl := c.ufl || one.ufl }, m.event 1 one.event)) ∧
    (group1 f ≤ c.n1 + 1 → c.n2 + 1 < group2 f → closeChunk f c m x =
      ({ c with lv1 := .zero, n1 := 0, lv2 := two.value, n2 := c.n2 + 1, ufl := c.ufl || one.ufl || two.ufl }, (m.event 1 one.event).event 2 two.event)) ∧
    (group1 f ≤ c.n1 + 1 → group2 f ≤ c.n2 + 1 → closeChunk f c m x =
      ({ c with lv1 := .zero, n1 := 0, lv2 := .zero, n2 := 0, lv3 := three.value, ufl := c.ufl || one.ufl || two.ufl || three.ufl },
        ((m.event 1 one.event).event 2 two.event).event 3 three.event))) ∧
  (∀ (m : Monitors) (n k shift : Nat) (lost : Bool), n < 4 → k < 4 →
    vget (m.see n shift lost).counts k 0 = (if k = n ∧ lost = true then min 0xFFFFFFFF (vget m.counts k 0 + 1) else vget m.counts k 0) ∧
    vget (m.see n shift lost).shifts k 0 = (if k = n then max (vget m.shifts k 0) (min 0xFFFF shift) else vget m.shifts k 0)) ∧
  (∀ (w : MWord) (sl : MxSlot) (i : Nat), sl.kind ≠ .integer →
    let c := kgetD sl.cells i Cell.zero
    let add := fun (l : Level) (acc x : Machine.Dyadic) => levelAdd acc x l.width l.rne l.rtz
    let two := add (level2 sl.fields) c.lv2 c.lv1
    let three := add (level3 sl.fields) c.lv3 two.value
    let d := closedCell sl i
    let v := if d.nan = true ∨ (d.pinf = true ∧ d.ninf = true) then FVal.nan else if d.pinf = true then .inf false else if d.ninf = true then .inf true
      else if d.lv3.mag = 0 then .zero false else .num d.lv3.neg d.lv3.mag d.lv3.exp
    let r : Rnd := { rm := if sl.fields.getLsbD 30 then 1 else 0, rb := 0, ftz := false, sat := w.sat }
    let uf := fun fl => fl ||| if d.ufl then fUF else 0
    d = { c with lv1 := .zero, n1 := 0, lv2 := .zero, n2 := 0, lv3 := three.value, ufl := c.ufl || two.ufl || three.ufl } ∧
    (w.tyC ≠ 8 → w.tyD ≠ 4 → drainValue w sl d = (((mxFmt w.tyD).convert r v).1, uf ((mxFmt w.tyD).convert r v).2)) ∧
    (w.tyC ≠ 8 → w.tyD = 4 → drainValue w sl d = (((toInteger r .i32 v).1.emod (2 ^ 32)).toNat, uf (toInteger r .i32 v).2)) ∧
    (w.tyC = 8 →
      let q := d.lv3.expOf - (level3 sl.fields).width + 1
      let marks := 2 ^ 44 * ((if d.nan then 1 else 0) + (if d.pinf then 2 else 0) + (if d.ninf then 4 else 0) + if d.ufl then 8 else 0)
      (d.lv3.mag = 0 → (drainValue w sl d).1 = marks) ∧
      (d.lv3.mag ≠ 0 → q ≤ d.lv3.exp → (drainValue w sl d).1 =
        d.lv3.mag * 2 ^ (d.lv3.exp - q).toNat + 2 ^ 32 * (q.emod 2048).toNat + (if d.lv3.neg then 2 ^ 43 else 0) + marks)))

/-! ## Requests of system software (R312 to R315, R320, R335 to R337, R387 to R395) -/

/-- R376, R387 to R390, R392, R393, R395: the response repeats the tag, holds STATUS and the results, and GO falls. DEVICE_INIT starts a journal at SEQ 0
with HEAD 0; CREATE_CONTEXT answers 2, 3 or 1 in that order of its checks, else the lowest free id, with empty queues; DESTROY_CONTEXT drops the context, or first
asks its resident teams to save themselves, where their images fit the save region; PWRCAP takes 1,500 to 3,400 W; FW_STAGE refuses an image that does not verify; FW_ACTIVATE changes the slots or leaves
them; ATTEST writes its report; a malformed request has STATUS 3.
Model choices: logs 10, 12, 27 and 63. -/
def Obligations.MailboxRequestsAreAnswered : Prop :=
  ∀ (s : State) (c : Context),
    let r := s.request
    let fn := r.fn.val
    let op := opNat r
    (∀ st rs, let t := respond s st rs
      (devOf t fn).go = false ∧ (devOf t fn).status = st ∧ (devOf t fn).mboxRsp = padBytes 256 (leBytes 4 r.tag.toNat ++ rs) ∧
      t.mem = s.mem ∧ t.crews = s.crews ∧ t.contexts = s.contexts ∧ t.cores = s.cores) ∧
    (Serving s →
      responds (exec .malformedMailboxRequest s) s 3 [] ∧
      (1500 ≤ op 0 → op 0 ≤ 3400 → responds (exec .pwrcap s) { s with cap := op 0 } 0 []) ∧
      (op 0 < 1500 ∨ 3400 < op 0 → responds (exec .pwrcap s) s 3 []) ∧
      (servesContext s fn = true → responds (exec .deviceInit s) s 1 []) ∧
      (servesContext s fn = false → initOk fn r = false → responds (exec .deviceInit s) s 3 []) ∧
      (servesContext s fn = false → initOk fn r = true → ∃ t, responds (exec .deviceInit s) t 0 [] ∧
        (devOf t fn).prepared = true ∧ (devOf t fn).jBase = op 0 ∧ (devOf t fn).jLog = op 1 ∧ (devOf t fn).seq = 0 ∧
        (devOf t fn).dumpBase = op 2 ∧ (devOf t fn).dumpSize = op 3 ∧ (∀ w, winOf t fn w = WinState.reset) ∧ (Reaches s fn (op 0 - 64) 8 → physNat t fn (op 0 - 64) 8 = 0) ∧
        ∀ die ∈ fnDies fn, (dieOf t die).injb = if op 4 = 0 then 2048 else op 4) ∧
      ((devOf s fn).prepared = false → responds (exec .createContext s) s 2 []) ∧
      (let s1 := touchCreate s r
       (devOf s fn).prepared = true →
       (createOk s1 r = false → responds (exec .createContext s) s1 3 []) ∧
       (createOk s1 r = true → createBusy s1 r = true → responds (exec .createContext s) s1 1 []) ∧
       (createOk s1 r = true → createBusy s1 r = false → ∃ t id k, responds (exec .createContext s) t 0 (leBytes 8 id) ∧
        ctxOf s1 id = none ∧ (∀ j, j < id → (ctxOf s1 j).isSome = true) ∧ ctxOf t id = some k ∧ k.dev = r.fn ∧ t.mode = (if fn = 0 then 1 else 2) ∧
        k.pdead = (if op 1 = 0 then 200000 else op 1) ∧ k.fairt = (if op 2 = 0 then 2048 else op 2) ∧ k.faultQ = op 3 ∧ k.saveBase = op 5 ∧
        k.saveSize = op 6 ∧ k.ptes = [] ∧
        ∀ i, i < op 8 → ∃ q, queueOf t fn (leAt (descBytes s1 fn (op 7) i) 0x0A 2) = some q ∧ q.ctx = id ∧ q.cons = 0 ∧ q.prod = 0)) ∧
      (inMap fn (op 0) (op 1) = false → responds (exec .fwStage s) s 3 []) ∧
      (s.fwStaged = [] → responds (exec .fwActivate s) s 2 []) ∧
      (s.fwStaged ≠ [] → accepting s = true → exec .fwActivate s = stall s) ∧
      (s.fwStaged ≠ [] → accepting s = false → ∃ t, responds (exec .fwActivate s) t 0 [] ∧
        ((t.fwActive = s.fwStaged ∧ t.fwStaged = if s.fwActive = [] then Config.bootActive else s.fwActive) ∨
          (t.fwActive = s.fwActive ∧ t.fwStaged = s.fwStaged))) ∧
      (inMap fn (op 0) 32 = true → inMap fn (op 1) 2676 = true →
        let s1 := mpTouch s fn (op 0) 32
        let nonce := mpRead s fn (op 0) 32
        let head := reportHead s1 nonce
        responds (exec .attest s) (mpWrite s1 fn (op 1) (head ++ padBytes 2420 (Config.identitySign (sha3 head)))) 0 [] ∧
          head.length = 256 ∧ leAt head 0 4 = 0x4E5A5254 ∧ leAt head 4 4 = 2676 ∧ (head.drop 8).take 32 = nonce ∧
          leAt head 0xC8 8 = s.reftime % 2 ^ 64 ∧ leAt head 0xD0 1 = s.mode % 256)) ∧
    ((devOf s fn).go = true → s.fwUp = true ∨ r.code = 13 → inMap fn (op 0) (op 1) = true →
      let s1 := mpTouch s fn (op 0) (op 1)
      let image := mpBlock s1 fn (op 0) (op 1)
      (op 1 < 2420 ∨ Config.firmwareVerifies image = false → responds (exec .fwStage s) s1 2 []) ∧
      (2420 ≤ op 1 → Config.firmwareVerifies image = true → responds (exec .fwStage s) { s1 with fwStaged := sha3 (image.take (op 1 - 2420)) } 0 [])) ∧
    (ServingContext s c →
      let ls := ctxLaunches s c.id
      let teams := (s.teams.map (·.2)).filter fun t => ls.contains t.launch
      (teams = [] → responds (exec .destroyContext s) (eraseContext s c) 0 [] ∧ (eraseContext s c).contexts = kdel s.contexts c.id ∧
        ∀ e ∈ (eraseContext s c).launches, e.1 ∉ ls) ∧
      (teams ≠ [] → exec .destroyContext s =
        stall (teams.foldl (fun s t => if t.askable then raiseReq s t.uid 2 else s) (modCtx s c.id fun k => { k with dying := true })))) ∧
    (∀ team reason t l, teamOf s team = some t → launchOf s t.launch = some l → ctxOf s l.ctx = some c →
      (imagePlace s l = none → raiseReq s team reason = s) ∧
      (∀ place, imagePlace s l = some place → raiseReq s team reason = (teamCrews s team).foldl (fun s k => putCrew s k.uid { k with reqLeft := c.pdead })
        (putTeam (modCtx s l.ctx fun k => { k with images := k.images ++ [(place, imageSize l)] }) team
          { t with reqReason := reason, image := c.saveBase + place })))

/-- R309, R312, R313, R315, R320, R322: MAP writes the entries of each page of its range with the frame and permissions given, or answers 3 (a frame in no range then
bars the range) or 2; UNMAP writes 0 and PROTECT changes R, W and X, and each completes once the shootdown of its range is over, which leaves no cached translation
of it; RESOLVE answers the page; TRANSLATE tells what a walk finds; a page of a unified range migrates in two turns, and the memory processor places a missing one;
software frees ring entries by CONS.
Model choices: logs 10, 14, 27, 50 and 63. -/
def Obligations.PageRequestsChangeTables : Prop :=
  ∀ (s : State) (c : Context) (ctx : Nat) (va frame : W64),
    let r := s.request
    let op := opNat r
    let dev := c.dev.val
    (ServingContext s c →
      let a := op 1
      let size := op 2
      let p := mapPerm (r.op 4)
      let shift := sizeShift p.size
      let page := 2 ^ shift
      let limits := rangeOk a size = true ∧ a % page = 0 ∧ size % page = 0 ∧ op 3 % page = 0
      let free := (∀ i, i < size / page → pageFree c.ptes (a + page * i) shift = true) ∧ ∀ e ∈ movingIn c a (a + size), e.2.1 = shift
      let met := fun e : Nat × W64 => (movingIn c a (a + size)).contains (movingPage e)
      (¬limits → responds (exec .mapPages s) s 3 []) ∧
      (limits → inMap dev (op 3) size = false → ∃ t k, responds (exec .mapPages s) t 3 [] ∧ ctxOf t c.id = some k ∧ k.ptes = c.ptes ∧
        ∀ x, a ≤ x → x < a + size → barredAt t c.id x = true) ∧
      (limits → inMap dev (op 3) size = true → ¬free → responds (exec .mapPages s) s 2 []) ∧
      (limits → inMap dev (op 3) size = true → free → ∃ t k, responds (exec .mapPages s) t 0 [] ∧ ctxOf t c.id = some k ∧ t.mem = s.mem ∧
        k.moving = c.moving.filter (fun e => !met e) ∧
        ∀ i, i < size / page → ∃ e, leafAt k.ptes (a + page * i) = some (shiftLevel shift, shift, e) ∧ pteFrame e = op 3 + page * i ∧
          permits e .load = p.r ∧ permits e .store = p.w ∧ permits e .fetch = p.x ∧ e.getLsbD 6 = p.u) ∧
      (let changes : Instr → List (Nat × Nat) → KMap W64 → (W64 → W64) → Prop := fun i barred moving f =>
        (rangeOk a size = false → responds (exec i s) s 3 []) ∧
        (rangeOk a size = true → movingWhole c a (a + size) = false → responds (exec i s) s 2 []) ∧
        (rangeOk a size = true → leavesIn c.ptes (a + size) (size / 4096) a = none → responds (exec i s) s 2 []) ∧
        (∀ pages, rangeOk a size = true → movingWhole c a (a + size) = true → leavesIn c.ptes (a + size) (size / 4096) a = some pages → ∃ m, pagesChanged c.ptes m pages f ∧
          let t := shootdown (modCtx s c.id fun k => { k with ptes := m, moving := moving, barred := barred }) c.id a (a + size)
          (shootBusy t c.id a (a + size) = true → exec i s = stall t) ∧ (shootBusy t c.id a (a + size) = false → responds (exec i s) t 0 []))
       let q := mapPerm (r.op 3)
       let bits := w64 (4 * flag q.r + 8 * flag q.w + 16 * flag q.x)
       let protect := fun e : W64 => (e &&& ~~~0x1C#64) ||| bits
       changes .unmapPages (cutRanges a (a + size) c.barred) (c.moving.filter fun e => !met e) (fun _ => 0) ∧
         changes .protectPages c.barred (c.moving.map fun e => if met e then (e.1, protect e.2) else e) protect) ∧
      (size ≤ 1 → a < 2 ^ 56 → responds (exec .resolvePage s) (answerAll s c.id (a / 4096) (size == 1)) 0 []) ∧
      (1 < size ∨ 2 ^ 56 ≤ a → responds (exec .resolvePage s) s 3 []) ∧
      (∀ s1 leaf sh, a < 2 ^ 56 → walkFrom s (devDie r.fn.val) c.id a 4 = (s1, .present leaf sh) →
        responds (exec .translatePage s) s1 0 (leBytes 8 (leafPa leaf sh a) ++ leBytes 8 (1 + 2 * bitsOf leaf 4 2))) ∧
      (∀ s1, a < 2 ^ 56 → walkFrom s (devDie r.fn.val) c.id a 4 = (s1, .absent) → responds (exec .translatePage s) s1 0 (leBytes 16 0))) ∧
    (∀ lo hi, let t := shootdown s ctx lo hi
      (∀ k co e, kget t.cores k = some co → e ∈ co.tcache → e.ctx = ctx → overlaps (e.vp * 2 ^ e.shift) (2 ^ e.shift) lo (hi - lo) = false) ∧
      (∀ d : Fin 2, ∀ e ∈ t.dies[d].tcache, e.ctx = ctx → overlaps (e.vp * 2 ^ e.shift) (2 ^ e.shift) lo (hi - lo) = false)) ∧
    (ctxOf s ctx = some c →
      let a := va.toNat / 4096 * 4096
      (∀ lv shift leaf, kget c.moving (a / 4096) = none → leafAt c.ptes a = some (lv, shift, leaf) → a % 2 ^ shift = 0 → leaf.getLsbD 6 = true →
        inUnified c (a / 4096) = true → frameFits s dev frame.toNat shift = true →
        ∃ t k, exec (.pageMigration ctx va frame) s = .next (shootdown t ctx a (a + 2 ^ shift)) ∧ ctxOf t ctx = some k ∧
          pagesChanged c.ptes k.ptes [(a, shift)] (fun _ => 0) ∧ t.mem = s.mem ∧ (kget k.moving (a / 4096)).isSome = true) ∧
      (∀ m, kget c.moving (a / 4096) = some m →
        let shift := bitsOf m 63 52
        shift ∈ [12, 16, 21, 30] → leafAt c.ptes a = none → a % 2 ^ shift = 0 → shootBusy s ctx a (a + 2 ^ shift) = false →
        frameFits s dev frame.toNat shift = true →
        ∃ t k e, exec (.pageMigration ctx va frame) s = .next ((List.range (2 ^ shift / 4096)).foldl (fun s i => answerAll s ctx (a / 4096 + i) true) t) ∧
          t.mem = (copySectors s dev (leafPa m shift a) frame.toNat (2 ^ shift / 32)).mem ∧ ctxOf t ctx = some k ∧
          leafAt k.ptes a = some (shiftLevel shift, shift, e) ∧ pteFrame e = frame.toNat ∧ permits e .load = permits m .load ∧
          permits e .store = permits m .store ∧ permits e .fetch = permits m .fetch) ∧
      (inUnified c (a / 4096) = true → c.unanswered.contains (a / 4096) = true → movingIn c a (a + 1) = [] →
        frameFits s dev frame.toNat 12 = true → leafAt c.ptes a = none →
        ∃ t k e, exec (.unifiedRangeFaultAnswer ctx va frame) s = .next (answerAll t ctx (a / 4096) true) ∧ ctxOf t ctx = some k ∧
          leafAt k.ptes a = some (0, 12, e) ∧ pteFrame e = frame.toNat ∧ e.getLsbD 6 = true ∧ t.mem = s.mem) ∧
      (∀ service cons cb, (if service then c.serviceQ else some c.faultQ) = some cb → Reaches s dev (cb + 16) 4 →
        ∃ t, exec (.consAdvance ctx service cons) s = .next t ∧ physNat t dev (cb + 16) 4 = cons.toNat ∧ t.crews = s.crews))

/-- R335 to R337: RESPOND gives its value to the crew that waits for the tag; PLANT makes the fetches of one word of an object by crews of the context, and of
no other, read the planted word, in a page that is then the context's own, and UNPLANT the object's own; DEBUG writes a comparator, its reserved bits dropped.
Model choices: logs 27 and 28; log 89 for RESPOND to a tag for which no crew waits. -/
def Obligations.DebuggersReachTheirContext : Prop :=
  ∀ (s : State) (c : Context),
    let r := s.request
    let op := opNat r
    (Serving s →
      let waits := s.crews.any (fun k => awaitsTag (op 0) k.2) || s.saved.any fun e => e.2.2.1.any (awaitsTag (op 0))
      let core := bitsOf (r.op 0) 13 8
      let die := bitsOf (r.op 0) 16 16
      let n := bitsOf (r.op 0) 3 0
      (waits = false → responds (exec .respondReq s) s 3 []) ∧
      (waits = true → ∃ t, responds (exec .respondReq s) t 0 [] ∧ t.mem = s.mem ∧ ∀ u k, crewOf s u = some k →
        ∃ k', crewOf t u = some k' ∧ k'.s = k.s ∧ k'.spc = k.spc ∧ (k.await = .sysc (op 0) none → k'.await = .sysc (op 0) (some (r.op 1)))) ∧
      (core < 40 → (fnDies r.fn.val).contains die = true → bitsOf (r.op 0) 7 4 = 0 → bitsOf (r.op 0) 15 14 = 0 → bitsOf (r.op 0) 63 17 = 0 →
        (kget s.cores (coreKey die core)).isSome = true →
        ∃ t, responds (exec .debugReq s) t 0 (leBytes 8 (vget (coreAt s die core).bpc n 0).toNat) ∧
          vget (coreAt t die core).bpc n 0 = r.op 1 &&& 0xFFFFFFFFFFFFF#64) ∧
      (40 ≤ core → responds (exec .debugReq s) s 3 [])) ∧
    (ServingContext s c →
      let obj := op 1
      let idx := op 2
      let unpatched := fun (l : Launch) (i : Nat) => (l.patches.find? fun p => p.sect == 1 && p.word == i) = none
      let reads := fun (t : State) (w : W32) => ∀ l : Launch, l.ctx = c.id → l.handle = obj → unpatched l idx → idx < l.scode.length →
        scalarWord t l idx = some w.toNat
      let apart := fun t : State => ∀ (l : Launch) i, l.ctx ≠ c.id → scalarWord t l i = scalarWord s l i
      let plants : Instr → W32 → Prop := fun i w =>
        (codeWordAt s c obj idx = none → ∃ t, responds (exec i s) t 0 [] ∧ reads t w ∧ apart t) ∧
        (∀ p, codeWordAt s c obj idx = some p →
          ((ownPage s c p).2 = false → exec i s = stall (ownPage s c p).1) ∧
          ((ownPage s c p).2 = true → ∃ t, responds (exec i s) t 0 [] ∧ reads t w ∧ apart t ∧
            (p.va < 2 ^ 56 → ∀ (l : Launch) i, l.ctx = c.id → l.translated = false → l.scalarVa i = p.va → unpatched l i → i < l.scode.length →
              scalarWord t l i = some w.toNat) ∧
            (sharedPage s c p = false → t.mem = (mpWrite s c.dev.val p.pa (leBytes 4 w.toNat)).mem ∧
              ∀ (l : Launch) i, l.ctx = c.id → (l.handle ≠ obj ∨ i ≠ idx) → l.scalarVa i ≠ p.va →
                (leafAt c.ptes (l.scalarVa i)).map (fun e => leafPa e.2.2 e.2.1 (l.scalarVa i)) ≠ some p.pa →
                (∀ q ∈ c.planted, plantedAt c l i q = true → ¬(q.obj = obj ∧ q.idx = idx) ∧ q.va ≠ p.va) → scalarWord t l i = scalarWord s l i)))
      plants .plantWord ((r.op 3).truncate 32) ∧
      ((∃ q ∈ c.planted, q.obj = obj ∧ q.idx = idx) → plants .unplantWord (originalWord s c obj idx)) ∧
      ((∀ q ∈ c.planted, ¬(q.obj = obj ∧ q.idx = idx)) → responds (exec .unplantWord s) s 0 []) ∧
      (∀ l : Launch, ((s.launches.map (·.2)).find? fun l => l.ctx == c.id && l.handle == obj) = some l →
        (∀ q, c.planted.find? (plantedAt c l idx) = some q → originalWord s c obj idx = q.old) ∧
        (∀ w, c.planted.find? (plantedAt c l idx) = none → l.scode[idx]? = some w → originalWord s c obj idx = w)) ∧
      (∀ p, codeWordAt s c obj idx = some p →
        let base := p.va / 2 ^ p.shift * 2 ^ p.shift
        let t := (ownPage s c p).1
        (sharedPage s c p = true ↔ ∃ k ∈ s.contexts, k.1 ≠ c.id ∧ k.2.dev = c.dev ∧ ∃ e ∈ k.2.ptes, leafCovers p.pa e = true) ∧
        (sharedPage s c p = false → ownPage s c p = (s, !shootBusy s c.id base (base + 2 ^ p.shift))) ∧
        (sharedPage s c p = true → p.shift ∈ [12, 16, 21, 30] → ∃ k e, ctxOf t c.id = some k ∧ leafAt k.ptes base = some (shiftLevel p.shift, p.shift, e) ∧
          permits e .load = permits p.leaf .load ∧ permits e .store = permits p.leaf .store ∧ permits e .fetch = permits p.leaf .fetch ∧
          ∀ n, n ≠ c.id → ctxOf t n = ctxOf s n)))

/-! ## Commands, the journal and teams (R37, R325 to R329, R338 to R352, R387, R391) -/

/-- R338 to R342, R345, R346, R352, R387, R391: a journal entry stands at its index of the ring and HEAD counts it; a doorbell write makes commands available, or is journalled
when it exceeds the ring; MBOX_REQ takes words and GO submits, other offsets but those of the doorbells take no write, and reads of MBOX_REQ, MBOX_RSP, MBOX_CTL and of a
doorbell return the last words, GO and STATUS and the last value; a command that is taken moves CONS on. LAUNCH adds its launch, reading its record once, and completes once every team has retired;
WAIT blocks its queue until mem64(A) is at least B; SIGNAL is stored once the earlier commands of its queue have completed; a command that breaks R339, or whose own access
fails, is rejected.
Model choices: logs 45 and 62; log 72 for STATUS after a write to MBOX_CTL, which stays as it was. -/
def Obligations.CommandsAreTakenFromTheirQueues : Prop :=
  ∀ (s : State) (dev : Fin 3) (q : Nat) (k : SubQueue) (a b : W64) (p v : W32) (off : Nat) (bytes : List Byte) (e : JEntry),
    let d := devOf s dev.val
    let cons := (k.cons + 1) % 2 ^ 32
    let written : State → List Byte → Nat → Nat → Nat → Nat → State := fun s bs kind code index detail =>
      journal s dev.val (commandEntry dev.val q kind code index bs detail)
    let ended : State → State → List Byte → Nat → Nat → Nat → Nat → Prop := fun s1 t bs kind code index detail =>
      t.mem = (written s1 bs kind code index detail).mem ∧ ∀ k1, queueOf s1 dev.val q = some k1 →
        queueOf t dev.val q = some { k1 with waiting := none, accepted := false, waits := [], open_ := k1.open_.filter (·.index != index) }
    (d.prepared = true → ringLost s dev.val = false → e.digest.length = 32 → 64 ≤ d.jBase →
      let at_ := d.jBase + 64 * (d.seq % 2 ^ d.jLog)
      (∀ i, i < 64 → (homeKey dev.val (at_ + i)).isSome = true ∧ (homeKey dev.val (d.jBase - 64 + i)).isSome = true) →
      let t := journal s dev.val e
      physRead t none dev.val at_ 64 = journalBytes d.seq s.reftime e ∧ physNat t dev.val (d.jBase - 64) 8 = (d.seq + 1) % 2 ^ 64 ∧
        (devOf t dev.val).seq = d.seq + 1 ∧ t.fatal = s.fatal ∧ t.crews = s.crews) ∧
    (d.prepared = true → ringLost s dev.val = true →
      (s.stopped ≠ 3 → journal s dev.val e = { s with fatal := some 4, stopped := 3 }) ∧ (s.stopped = 3 → journal s dev.val e = s)) ∧
    (bellCount s dev.val ≤ q ∨ queueOf s dev.val q = none → exec (.doorbellWrite dev q p) s = .next s) ∧
    (q < bellCount s dev.val → queueOf s dev.val q = some k →
      ((p.toNat + 2 ^ 32 - k.cons) % 2 ^ 32 ≤ 2 ^ k.log2n → ∃ t, exec (.doorbellWrite dev q p) s = .next t ∧ t.mem = s.mem ∧
        queueOf t dev.val q = some { k with prod := p.toNat } ∧ kget (devOf t dev.val).bells q = some p) ∧
      (2 ^ k.log2n < (p.toNat + 2 ^ 32 - k.cons) % 2 ^ 32 → ∃ t s1, exec (.doorbellWrite dev q p) s = .next t ∧ queueOf t dev.val q = some k ∧
        kget (devOf t dev.val).bells q = some p ∧ s1.mem = s.mem ∧
        t = journal s1 dev.val ⟨3, 8, q, devDie dev.val, p.toNat, noDigest, 0⟩)) ∧
    (off < 0x100 → off % 4 = 0 → ∃ t, exec (.registerWrite dev off v) s = .next t ∧ (devOf t dev.val).go = d.go ∧
      ((devOf t dev.val).mboxReq.drop off).take 4 = leBytes 4 v.toNat ∧ ∀ i, i < off ∨ off + 4 ≤ i → i < 256 → d.mboxReq.length ≤ 256 →
        (devOf t dev.val).mboxReq.getD i 0 = d.mboxReq.getD i 0) ∧
    (∃ t, exec (.registerWrite dev 0x200 v) s = .next t ∧ (devOf t dev.val).go = (d.go || v.getLsbD 0) ∧ (devOf t dev.val).status = d.status) ∧
    ((0x100 ≤ off ∨ off % 4 ≠ 0) → off ≠ 0x200 → ¬(0x1000 ≤ off ∧ off < 0x1200 ∧ off % 8 = 0) → exec (.registerWrite dev off v) s = .next s) ∧
    (off < 0x100 → off % 4 = 0 → readBar0 s dev off = BitVec.ofNat 32 (leNat ((d.mboxReq.drop off).take 4)) ∧
      readBar0 s dev (0x100 + off) = BitVec.ofNat 32 (leNat ((d.mboxRsp.drop off).take 4))) ∧
    (readBar0 s dev 0x200 = BitVec.ofNat 32 ((if d.go then 1 else 0) + 256 * d.status) ∧
      (q < 64 → readBar0 s dev (0x1000 + 8 * q) = kgetD d.bells q 0)) ∧
    (queueOf s dev.val q = some k →
      let rejected : State → Result → List Byte → Nat → Nat → Prop := fun s1 r bs reason addr => ∃ t, r = .next t ∧
        (∀ k1, queueOf s1 dev.val q = some k1 → k1.cons = k.cons → queueOf t dev.val q =
            some { k1 with cons := cons, waits := [], got := k1.got.filter (·.1) } ∧
          t.mem = (mpWrite (written s1 bs 3 reason k.cons addr) dev.val (k1.desc + 12) (leBytes 4 cons)).mem)
      rejected s (exec (.malformedCommand dev q bytes) s) bytes 8 (malformedAddr bytes) ∧
      (∀ s1, acceptChecks s dev.val q a = .hold s1 → exec (.launchCmd dev q a) s = stall s1) ∧
      (∀ s1 reason addr, acceptChecks s dev.val q a = .reject s1 reason addr →
        rejected s1 (exec (.launchCmd dev q a) s) (commandBytes 1 a 0) reason addr) ∧
      (∀ s1 bs, gotBytes s dev.val q false a.toNat 128 = none → commandRead s dev.val q a 128 = .ok s1 bs → recordOk dev.val bs = false →
        acceptChecks s dev.val q a = .reject (keepBytes s1 dev.val q false a.toNat bs) 1 a.toNat) ∧
      (∀ bs, gotBytes s dev.val q false a.toNat 128 = some bs → recordOk dev.val bs = false → acceptChecks s dev.val q a = .reject s 1 a.toNat) ∧
      (∀ s1 s2 x k2, acceptChecks s dev.val q a = .ok s1 x → copySections s1 dev.val q x.obj x.record = .ok s2 () → queueOf s2 dev.val q = some k2 →
        ∃ t l, exec (.launchCmd dev q a) s = .next t ∧ launchOf t s2.nextLaunch = some l ∧ l.ctx = k2.ctx ∧ l.dev = dev ∧ l.queue = q ∧
          l.cmdIndex = k.cons ∧ l.record = x.record ∧ l.kernel = x.kernel ∧ l.scode = x.code.scode ∧ l.lcode = x.code.lcode ∧
          l.patches = x.patches ∧ l.regions = x.regions ∧ l.next = 0 ∧ l.retired = 0 ∧ l.complete = false ∧
          (devOf t dev.val).placing.isSome = true ∧
          queueOf t dev.val q = some { k2 with cons := (k2.cons + 1) % 2 ^ 32, waits := [], got := k2.got.filter (·.1),
                                               open_ := k2.open_ ++ [⟨k.cons, some s2.nextLaunch⟩] }) ∧
      (∃ t, exec (.waitCmd dev q a b) s = .next t ∧
        queueOf t dev.val q = some { k with cons := cons, waits := [], got := k.got.filter (·.1), open_ := k.open_ ++ [⟨k.cons, none⟩],
                                            waiting := some (k.cons, a, b), accepted := false } ∧
        t.mem = (mpWrite (written s (commandBytes 2 a b) 1 0 k.cons a.toNat) dev.val (k.desc + 12) (leBytes 4 cons)).mem) ∧
      (∀ index s1 bs, k.waiting = some (index, a, b) → k.accepted = false → commandRead s dev.val q a 8 = .ok s1 bs →
        (leNat bs < b.toNat → exec (.waitSatisfied dev q) s = stall s1) ∧
        (b.toNat ≤ leNat bs → ∃ t, exec (.waitSatisfied dev q) s = .next t ∧ ended s1 t (commandBytes 2 a b) 2 0 index (leNat bs))) ∧
      (∀ index s1 reason addr, k.waiting = some (index, a, b) → k.accepted = false → commandRead s dev.val q a 8 = .reject s1 reason addr →
        ∃ t, exec (.waitSatisfied dev q) s = .next t ∧ ended s1 t (commandBytes 2 a b) 3 reason index addr) ∧
      (k.accepted = false → k.waiting = none → k.open_ ≠ [] → k.open_.any (·.index != k.cons) = true → ∃ t, exec (.signalCmd dev q a b) s = .next t ∧
        queueOf t dev.val q = some { k with cons := cons, waits := [], got := k.got.filter (·.1), open_ := k.open_ ++ [⟨k.cons, none⟩],
                                            waiting := some (k.cons, a, b), accepted := true } ∧
        t.mem = (mpWrite (written s (commandBytes 3 a b) 1 0 k.cons a.toNat) dev.val (k.desc + 12) (leBytes 4 cons)).mem) ∧
      (∀ index, k.accepted = true → k.waiting = some (index, a, b) →
        (k.open_.any (·.index != index) = true → exec (.signalCmd dev q a b) s = stall s) ∧
        (∀ s1 pa, k.open_.any (·.index != index) = false → commandPage s dev.val q a .store 0x02 = .ok s1 pa →
          let s2 := mpWrite s1 dev.val pa (leBytes 8 b.toNat)
          ∃ t, exec (.signalCmd dev q a b) s = .next t ∧ ended s2 t (commandBytes 3 a b) 2 0 index b.toNat) ∧
        (∀ s1 reason addr, k.open_.any (·.index != index) = false → commandPage s dev.val q a .store 0x02 = .reject s1 reason addr →
          ∃ t, exec (.signalCmd dev q a b) s = .next t ∧ ended s1 t (commandBytes 3 a b) 3 reason index addr))) ∧
    (∀ uid l, launchOf s uid = some l → l.dev = dev → l.queue = q → l.gang = none → l.complete = false → l.armed = false → l.next = l.record.grid → l.back = [] →
      launchTeams s uid = [] → launchSaved s uid = false →
      let t := completeLaunch s uid
      launchOf t uid = some { l with complete := true } ∧
        t.mem = (written s (commandBytes 1 l.recAddr 0) 2 (if l.failed = 0 then 0 else 1) l.cmdIndex l.failed).mem ∧
        (queueOf s dev.val q = some k → queueOf t dev.val q = some { k with open_ := k.open_.filter (·.index != l.cmdIndex) }))

/-- R78, R85, R177, R325 to R329, R347 to R352: a step of the distributor runs when one is due, and places or restores; a team takes a cluster of CORESET whose cores have room, and its
crews start with cleared registers at the kernel's entry; a save is asked for through PREQ, forced at its deadline, takes the team off its cores with its registers as they stand
and puts it at the front of its launch; an ended team retires once its commands, buffers, write-backs and logs are done.
Model choices: logs 17, 47 and 64; log 93 for the count of PDEAD. -/
def Obligations.TeamsArePlacedSavedAndRetired : Prop :=
  ∀ (s s1 : State) (dev : Fin 3) (team : Nat) (t t1 : Team) (l : Launch) (n : Unplaced) (cl : Nat × List Nat) (shares : List Share) (use v : CoreUse)
      (k : KernelRec) (i : Nat) (sh : Share) (c : Crew) (reason : Fin 8) (place : Nat) (x : Context),
    (stepDue s dev.val = false → exec (.distributorStep dev) s = stall s) ∧
    (stepDue s dev.val = true → ∃ s', exec (.distributorStep dev) s = .next s' ∧ (s.saved = [] → s'.mem = s.mem) ∧ (devOf s' dev.val).placing = none) ∧
    (chooseCluster s l n = some cl → cl ∈ openClusters s l n none ∧ (fitCluster s l.kernel none cl).isSome = true ∧
      ∀ core ∈ cl.2, inCoreset l.record l.dev.val cl.1 core = true ∧ coreUsable s cl.1 core = true) ∧
    (fitShare use k i = some (v, sh) →
      v.bars ≤ 512 ∧ v.queues ≤ 64 ∧ v.energy ≤ 16 ∧ ¬(use.matrix = true ∧ k.matrix = true) ∧ v.teams = use.teams + 1 ∧
      (0 < k.scratchG → sh.scr / 4096 + k.scratchG ≤ 768 ∧ ∀ r ∈ use.scr, overlaps (sh.scr / 4096) k.scratchG r.1 r.2 = false) ∧
      (0 < k.tileG → sh.tile / 64 + k.tileG ≤ 64 ∧ ∀ r ∈ use.tile, overlaps (sh.tile / 64) k.tileG r.1 r.2 = false) ∧
      (sh.slots.map (·.2)).Nodup ∧ (∀ e ∈ sh.slots, e.2 < 48 ∧ e.2 ∉ use.slots) ∧
      ∀ q, q < 4 → (use.fast.getD q 0 ≤ 288 → v.fast.getD q 0 ≤ 288) ∧ (use.slow.getD q 0 ≤ 96 → v.slow.getD q 0 ≤ 96)) ∧
    (n.saved = none →
      let s' := placeTeam s l n cl shares
      teamOf s' s.nextUid = some (newTeam l n s.nextUid s.nextAge cl.1 cl.2 shares) ∧ s'.nextAge = s.nextAge + 1 ∧
      ∀ j role, l.kernel.roles[j]? = some role → ∃ c', crewOf s' (s.nextUid + 1 + j) = some c' ∧ c'.team = s.nextUid ∧ c'.index = j ∧ c'.role = role ∧
        c'.die = cl.1 ∧ c'.core = cl.2.getD (roleCore role) 0 ∧ c'.spc = l.kernel.entry ∧ c'.st = .running ∧ c'.handler = false ∧ c'.laneQ = [] ∧
        (∀ r, c'.rs r = 0) ∧ (∀ r, c'.rv r = zeroLanes) ∧ ∀ r, c'.rp r = if r = 0 then allLanes else 0) ∧
    (teamOf s team = some t → t.uid = team → launchOf s t.launch = some l → l.uid = t.launch → ctxOf s l.ctx = some x →
      (t.askable = true → 2 ≤ reason.val → reason.val ≤ 4 → imagePlace s l = some place → ∃ s', exec (.softwareSaveRequest team reason) s = .next s' ∧
        teamOf s' team = some { t with reqReason := reason.val, image := x.saveBase + place } ∧ s'.mem = s.mem ∧
        ((∀ e ∈ s.crews, e.2.uid = c.uid ↔ e = (c.uid, c)) → crewOf s c.uid = some c → c.team = team → ∃ c', crewOf s' c.uid = some c' ∧
          c' = { c with reqLeft := x.pdead } ∧ preqOf s' c' = 1 + 2 * reason.val + 2 ^ 32 * Nat.min x.pdead 0xFFFFFFFF)) ∧
      (t.st = .resident → t.reqReason ≠ 0 → (∀ k ∈ teamCrews s team, k.alive = true → k.st ≠ .yielded → k.reqLeft ≠ 0) →
        exec (.pdeadExpiry team) s = stall s) ∧
      (t.st = .resident → t.reqReason ≠ 0 → (∃ k ∈ teamCrews s team, k.alive = true ∧ k.st ≠ .yielded ∧ k.reqLeft = 0) → ∃ s', exec (.pdeadExpiry team) s = .next s' ∧ teamOf s' team = some { t with st := .saving } ∧
        s'.mem = s.mem ∧ ((∀ e ∈ s.crews, e.2.uid = c.uid ↔ e = (c.uid, c)) → crewOf s c.uid = some c → c.team = team →
          crewOf s' c.uid = some { c with div := c.div.withdrawAll, mma := none })) ∧
      (saveReady s t = false → exec (.teamSave team) s = stall s) ∧
      (saveReady s t = true → ∃ s' cores, exec (.teamSave team) s = .next s' ∧ s'.teams = kdel s.teams team ∧
        (∀ e ∈ s'.crews, e.2.team ≠ team) ∧
        kget s'.saved team = some ({ t with st := .saved }, (teamCrews s team).map Crew.saved, cores) ∧
        launchOf s' l.uid = some { l with back := ⟨t.index, some team, t.run, t.avoid⟩ :: l.back }) ∧
      (let d := c.saved
       let r := resumeCrew s cl.1 cl.2 shares d
       r.s = c.s ∧ r.v = c.v ∧ r.p = c.p ∧ r.t = c.t ∧ r.cc = c.cc ∧ r.laneQ = c.laneQ ∧ r.spc = c.spc ∧ r.handler = c.handler ∧
         r.sideLog = c.sideLog.map (fun e => { e with waits := e.waits.filter fun w => w.answer == some false }) ∧ r.holds = c.holds ∧ r.held = []) ∧
      (t.st ≠ .ended → exec (.teamRetire team) s = stall s) ∧
      (t.st = .ended → (teamCrews s team).all (commandsDone s) = true → drainTeam s t = some s1 → teamStored s1 team = true →
        dirtyGranules t = [] → teamReplayed s1 team = true → teamOf s1 team = some t1 → t1.uid = team → dirtyGranules t1 = [] → granulesRest t1 = true → launchOf s1 l.uid = some l →
        (selected l t1.index = false ∨ l.aborted = true) → t1.launch = l.uid →
        ∃ s' l', exec (.teamRetire team) s = .next s' ∧ s'.teams = kdel s1.teams team ∧ (∀ e ∈ s'.crews, e.2.team ≠ team) ∧
          launchOf s' l.uid = some l' ∧ l'.retired = l.retired + 1 ∧ l'.failed = l.failed + flag t1.failure.isSome))

/-! ## The fabric (R396 to R426) -/

/-- R399 to R403, R409, R410, R419, R423, R426: RPUT, RGET, RRED and COLL raise the cause of the earliest check of R401 that fails, wait for an acquire or an earlier release, and else
hand one operation for each lane, or one line for each half, to the fabric unit; a target refuses a lane outside its exports, performs a remembered number no second time, and
answers over the plane and port of the request; an answer to the sending that stands writes RGET's lanes and ends its operation, one that carries an error halts the crew, a
refusal or RTMO ticks fail it; nothing travels over a port that holds no session.
Model choices: logs 20 and 56; log 59 for the TFMASK of the checks of COLL, which holds lane 32g of a failing half g. -/
def Obligations.RemoteWordsTravel : Prop :=
  ∀ (s : State) (w : LaneWord) (s1 : State) (x : LaneCx) (dev : Fin 3) (op : RemoteOp) (ans : RemoteAnswer) (o : RemoteOut) (l : RemoteLane) (c : Crew),
    let d := crewDev s1 x.c
    let f := fabricOf s1 d
    let fas := (lanesOf x.lset).map fun k => (k, x.globalVa w (scaleOf w) k)
    let sends : Instr → RemoteKind → Prop := fun i kind => LaneReady s i (guarded w) s1 x →
      (∀ cause detail mask addr, faCheck f (widthOf w.ty) fas = some (cause, detail, mask, addr) → exec i s = x.raise s1 cause detail 0 mask addr) ∧
      (faCheck f (widthOf w.ty) fas = none → x.remoteWaits = true → exec i s = stall s1) ∧
      (faCheck f (widthOf w.ty) fas = none → x.remoteWaits = false → ∃ s2 c2, exec i s = x.finish s2 c2 ∧ crewOf s2 x.u = some c2 ∧
        ∀ e ∈ fas, (∀ o ∈ f.out, hopeless f (faPeer o.fa) = false) → hopeless f (faPeer e.2) = false → ∃ o ∈ (fabricOf s2 d).out, o.fa = e.2 ∧ o.crew = x.u ∧ o.reg = w.vd.val ∧ o.line = none ∧
          o.op.kind = kind ∧ o.op.src = f.devid ∧ o.op.ty = w.ty ∧ o.op.lanes = [⟨e.1, faPa e.2, (x.dataOf w e.1).truncate 32⟩])
    let part := fun g : Nat => x.lset &&& halfMask g
    let halves := ([0, 1].filter fun g => part g != 0).map fun g => (g, x.collFa w (32 * g))
    let lines := halves.map fun e => (e.2, x.collLine s1 w d e.2 e.1)
    let checked := faCheck f 128 (halves.map fun e => (32 * e.1, e.2))
    let whole := part 0 ∈ [0, halfMask 0] ∧ part 1 ∈ [0, halfMask 1]
    sends (.rput w) .rput ∧ sends (.rget w) .rget ∧ sends (.rred w) .rred ∧
    (∀ (f : FabricSt) width fas, fas ≠ [] → (faCheck f width fas = none ↔ f.configured = true ∧ ∀ e ∈ fas,
      bitsOf e.2 63 62 = 0 ∧ f.members.contains (faPeer e.2) = true ∧ faPeer e.2 ≠ f.devid ∧ e.2.toNat % width = 0)) ∧
    (LaneReady s (.coll w) (guarded w) s1 x →
      (x.c.kind ≠ 3 → exec (.coll w) s = x.raise s1 0x04 3 0 allLanes 0) ∧
      (x.c.kind = 3 → ¬whole → ∃ m, exec (.coll w) s = x.raise s1 0x02 5 0 m 0 ∧ m &&& ~~~x.lset = 0) ∧
      (∀ cause detail mask addr, x.c.kind = 3 → whole → checked = some (cause, detail, mask, addr) →
        exec (.coll w) s = x.raise s1 cause detail 0 mask addr) ∧
      (x.c.kind = 3 → whole → checked = none → x.remoteWaits = false → ∃ s2 c2, exec (.coll w) s = x.finish s2 c2 ∧ crewOf s2 x.u = some c2 ∧
        ∀ e ∈ lines, (∀ o ∈ f.out, hopeless f (faPeer o.fa) = false) → hopeless f (faPeer e.1) = false → ∃ o ∈ (fabricOf s2 d).out, o.fa = e.1 ∧ o.crew = x.u ∧ (o.line.map fun l => (l.wid, l.offset, l.fmt, l.wire)) =
          some (e.2.1.wid, e.2.1.offset, w.ty, e.2.1.wire))) ∧
    (∀ ftz rnd vs, (compressLine .f32 ftz rnd vs).1 = vs.flatMap (fun v : W32 => leBytes 4 v.toNat) ∧ (compressLine .f32 ftz rnd vs).2 = 0) ∧
    (∀ (f : FabricSt) plane peer, portOpen f plane peer = true ↔ ∃ p, portFor f plane peer = some p ∧ (f.port p).keyed = true) ∧
    (s.message = .remoteOp dev op → portOpen (fabricOf s dev.val) op.plane op.src = false → exec .remoteOpReceive s = stall s) ∧
    (s.message = .remoteOp dev op → portOpen (fabricOf s dev.val) op.plane op.src = true →
      let r := targetLanes s dev.val op (remembered s dev.val op.src op.seq) (sortBy (·.lane) op.lanes)
      ∃ t, exec .remoteOpReceive s = .next t ∧ t.mem = r.1.mem ∧ t.sent = r.1.sent ++ [⟨op.src, .remoteAnswer dev ⟨op.seq, op.plane, op.port, r.2⟩, sentAnswer⟩] ∧
        ((∃ a ∈ r.2, a.refused = false) → remembered t dev.val op.src op.seq = true)) ∧
    (let width := widthOf op.ty
     let pa := l.pa
     let fx := fabricOf s dev.val
     let fresh := exported fx op.kind pa width = true
     (op.kind ≠ .rget → targetLane s dev.val op true l = (s, ⟨l.lane, false, 0, false⟩)) ∧
     (exported fx op.kind pa width = false → targetLane s dev.val op false l = (s, ⟨l.lane, true, 0, false⟩)) ∧
     (exported fx op.kind pa width = false → op.kind = .rget → targetLane s dev.val op true l = (s, ⟨l.lane, true, 0, false⟩)) ∧
     (fresh → op.kind = .rput →
       targetLane s dev.val op false l = (writeUnit s (.fabric dev.val) dev.val (devDie dev.val) pa (leBytes width l.data.toNat), ⟨l.lane, false, 0, false⟩)) ∧
     (fresh → op.kind = .rget → ∀ again,
       let r := readUnit s (.fabric dev.val) dev.val (devDie dev.val) pa width
       targetLane s dev.val op again l = (r.1, ⟨l.lane, false, BitVec.ofNat 32 (leNat r.2.1), r.2.2⟩)) ∧
     (fresh → op.kind = .rred →
       let r := readHome s none dev.val (devDie dev.val) pa 4
       (targetLane s dev.val op false l).1 = writeUnit r.1 (.fabric dev.val) dev.val (devDie dev.val) pa
         (leBytes 4 (redApply op.ty op.op (flag op.rtz) false (leNat r.2.1) l.data.toNat).1))) ∧
    (∀ (f : FabricSt), answers f ans o = true ↔ o.seq = ans.seq ∧ o.sent = true ∧ o.plane = ans.plane ∧ o.port = ans.port ∧
      portOpen f o.plane (faPeer o.fa) = true) ∧
    (s.message = .remoteAnswer dev ans → (fabricOf s dev.val).out.find? (answers (fabricOf s dev.val) ans) = none → exec .remoteAnswerReceive s = stall s) ∧
    ((fabricOf s dev.val).out.find? (answers (fabricOf s dev.val) ans) = some o → s.message = .remoteAnswer dev ans →
      ((∃ a ∈ ans.lanes, a.refused = true) → exec .remoteAnswerReceive s = .next (failOut s dev.val o false)) ∧
      (∀ a as, ans.lanes = a :: as → (∀ b ∈ ans.lanes, b.refused = false) →
        let t := endOut (writeGet s o a.data) dev.val o
        exec .remoteAnswerReceive s = .next (if ans.lanes.any (·.bad) then haltCrew t o.crew 1 o.fa.toNat else t))) ∧
    (o.op.kind = .rget → o.line = none → o.op.lanes = [l] → l.lane < 64 → crewOf s o.crew = some c → ∀ v, ∃ c2, crewOf (writeGet s o v) o.crew = some c2 ∧
      laneGet (c2.rv o.reg) l.lane = (extendValue (extendOf o.op.ty) (widthOf o.op.ty) v.toNat).truncate 32 ∧
      (∀ k, k ≠ l.lane → laneGet (c2.rv o.reg) k = laneGet (c.rv o.reg) k) ∧ (∀ r, r ≠ o.reg → c2.rv r = c.rv r) ∧ c2.s = c.s) ∧
    (let t := endOut s dev.val o
     (∀ k ∈ (fabricOf t dev.val).out, k.seq ≠ o.seq) ∧
      ((fabricOf s dev.val).out.any (fun k => k.seq != o.seq && k.cmd == o.cmd) = true → t.crews = s.crews)) ∧
    (let fx := fabricOf s dev.val
     let plane := if o.sent then o.plane else planeOf fx o.fa
     ∀ seq, fx.out.find? (·.seq == seq) = some o →
      (o.mark = false → planeUp fx plane = true → fx.blocked.getLsbD plane = false → (o.sent = true ∨ sendsBehind fx o = false) → o.sentAt + fx.rtmo ≤ s.reftime →
        exec (.remoteTimeout dev seq) s = .next (failOut s dev.val o true)) ∧
      (s.reftime < o.sentAt + fx.rtmo → exec (.remoteTimeout dev seq) s = stall s))

/-- R407, R408, R411 to R414, R423: CWIN opens the window that its descriptor names, unless the descriptor breaks a limit, the window is open or its buffers are not
there; CSTAT writes a window's status; CABORT and an ABORT message abort an open window and leave any other; an admitted line is staged and its contributions enter in
ascending order, a refused one is journalled, counted and answered; a window expires when its time has come, what has arrived entering first.
Model choices: log 59; log 94 for the plane of ABORT. -/
def Obligations.ReductionWindowsCollect : Prop :=
  ∀ (s : State) (w : LaneWord) (s1 : State) (x : LaneCx) (l : Launch) (s2 : State) (b : List Byte) (dev : Fin 3) (wid : Fin 256) (m : CollLine)
      (d : WinDesc) (li c : Nat) (cs : List Nat),
    let dv := crewDev s1 x.c
    let off := (x.literal w).toNat
    let win := winOf s dev.val wid.val
    let fx := fabricOf s dev.val
    let now := s.reftime
    (LaneReady s (.cwin w) (guarded w) s1 x → crewLaunch s1 x.c = some l →
      let ready := x.remoteWaits = false ∧ accessesDone x.c s1.nextStamp x.blk.stamp 0 = true
      (off % 64 ≠ 0 → exec (.cwin w) s = x.raise s1 0x0A 0 0 allLanes (BitVec.ofNat 64 off)) ∧
      (off % 64 = 0 → scratchSize l < off + 64 → exec (.cwin w) s = x.raise s1 0x0C 1 0 allLanes (BitVec.ofNat 64 off)) ∧
      (off % 64 = 0 → off + 64 ≤ scratchSize l → ¬ready → exec (.cwin w) s = stall s1) ∧
      (off % 64 = 0 → off + 64 ≤ scratchSize l → ready → ∀ bad, readDesc s1 x.c l x.toucher off = .ok s2 b bad →
        let e := winDesc b
        let dies := winDies s2 dv (crewCtx s2 x.c) e
        let opened : WinState :=
          { st := .opened, desc := some e, ctx := crewCtx s2 x.c, crew := x.u, launch := (match crewLaunch s2 x.c with | some k => k.uid | none => 0),
            cmd := s2.nextCmd, expiry := if e.deadline = 0 then none else some (s2.reftime + 100 * e.deadline), lines := [],
            absent := absentMask e l.absent, discards := 0, fault := false, written := 0, dies := dies, closing := false, waits := [] }
        (winDescOk (fabricOf s2 dv) b = false → exec (.cwin w) s = x.raise s2 0x02 0 0 allLanes 0) ∧
        (winDescOk (fabricOf s2 dv) b = true → bad = true → exec (.cwin w) s = .next (haltCrew s2 x.u 1 (2 ^ 22 * x.c.coreIdx + off))) ∧
        (winDescOk (fabricOf s2 dv) b = true → bad = false → (winOf s2 dv e.wid).st = .opened → exec (.cwin w) s = x.raise s2 0x0D 6 e.wid allLanes 0) ∧
        (winDescOk (fabricOf s2 dv) b = true → bad = false → (winOf s2 dv e.wid).st ≠ .opened → (∃ die ∈ dies, 98304 < reserved s2 die + e.stage) →
          exec (.cwin w) s = x.raise s2 0x0D 7 e.wid allLanes 0) ∧
        (winDescOk (fabricOf s2 dv) b = true → bad = false → (winOf s2 dv e.wid).st ≠ .opened → (∀ die ∈ dies, reserved s2 die + e.stage ≤ 98304) →
          let s3 := putCrew (modWin { s2 with nextCmd := s2.nextCmd + 1 } dv e.wid fun _ => opened) x.u (x.c.modCC e.cc fun k => k.join s2.nextCmd)
          let s4 := if absentMask e l.absent = 0 then s3 else pumpWin (allLines s3 dv e.wid) dv e.wid
          ∃ c4, crewOf s4 x.u = some c4 ∧ exec (.cwin w) s = x.finish s4 c4))) ∧
    (LaneReady s (.cstat w) (guarded w) s1 x →
      let y := winOf s1 dv off
      (255 < off → exec (.cstat w) s = x.raise s1 0x0D 0 off allLanes 0) ∧
      (off ≤ 255 → x.c.laneAcquiring = false → exec (.cstat w) s =
        x.finish (if 2 ≤ y.st.code then acquire s1 x.u else s1) (x.c.wv w.vd.val x.lset (lanesFn fun i => BitVec.ofNat 32 (y.stat i))))) ∧
    (win.stat 0 = win.st.code + (if win.fault then 256 else 0) ∧ win.stat 1 = win.arrived.1 ∧ win.stat 2 = win.arrived.2 ∧ win.stat 3 = win.absent ∧
      win.stat 4 = win.written ∧ win.stat 5 = win.discards ∧ ∀ i, 6 ≤ i → win.stat i = 0) ∧
    (LaneReady s (.cabort w) (guarded w) s1 x →
      let told := if w.fn.getLsbD 0 then (winOf s1 dv off).senders.foldl (sendAbort dv off) s1 else s1
      let s3 := abortWin (putCrew told x.u x.c) dv off
      (255 < off → exec (.cabort w) s = x.raise s1 0x0D 0 off allLanes 0) ∧
      (off ≤ 255 → ∃ c2, crewOf s3 x.u = some c2 ∧ exec (.cabort w) s = x.finish s3 c2 ∧ (winOf s3 dv off).st ≠ .opened)) ∧
    (∀ peer, ((∀ k, k < 8 → portOpen fx k peer = false) → sendAbort dev.val wid.val s peer = s) ∧
      ∀ k, k < 8 → portOpen fx k peer = true → (∀ j, j < k → portOpen fx j peer = false) →
        sendAbort dev.val wid.val s peer = sendMsg s peer sentAbort (.windowAbort dev fx.devid k wid)) ∧
    (∀ peer plane, s.message = .windowAbort dev peer plane wid → exec .windowAbort s =
      if portOpen fx plane peer then .next (abortWin s dev.val wid.val) else stall s) ∧
    (win.st ≠ .opened → abortWin s dev.val wid.val = s) ∧
    (win.st = .opened → (winOf (abortWin s dev.val wid.val) dev.val wid.val).st = .aborted ∧
      (fx.waitLines = [] → (abortWin s dev.val wid.val).mem =
        (journalEvent s dev.val 36 2 (devDie dev.val)
          (wid.val + 2 ^ 8 * win.arrived.1 + 2 ^ 24 * win.arrived.2 + 2 ^ 40 * (if win.fault then 1 else 0))).mem)) ∧
    (s.message = .collLine dev m → portOpen fx m.plane m.src = true →
      let y := winOf s dev.val m.wid.val
      let again := fx.waitLines.any fun e => e.1.src == m.src && e.1.seq == m.seq
      let fresh := again = false ∧ remembered s dev.val m.src m.seq = false
      let t := admitLine s dev.val m
      (again = true → exec .collLineReceive s = .next (modFabric s dev.val fun f => { f with waitLines := f.waitLines.map fun e =>
        if e.1.src == m.src && e.1.seq == m.seq then ({ e.1 with plane := m.plane, port := m.port }, e.2) else e })) ∧
      (again = false → remembered s dev.val m.src m.seq = true → exec .collLineReceive s = .next (answerLine s dev.val m false)) ∧
      (fresh → exec .collLineReceive s =
        .next (serveAll (modFabric s dev.val fun f => { f with waitLines := f.waitLines ++ [(m, false)] }) dev.val)) ∧
      (fresh → fx.waitLines = [] →
        (∀ code, refusal now y m = some code → exec .collLineReceive s = .next (refuseLine s dev.val m code)) ∧
        (refusal now y m = none → canStage (winOf t dev.val m.wid.val) = true → exec .collLineReceive s = .next (stageLine t dev.val m)) ∧
        (refusal now y m = none → canStage (winOf t dev.val m.wid.val) = false →
          exec .collLineReceive s = .next (modFabric t dev.val fun f => { f with waitLines := [(m, true)] })))) ∧
    (s.message = .collLine dev m → portOpen fx m.plane m.src = false → exec .collLineReceive s = stall s) ∧
    (∀ no, answerLine s dev.val m no = if portOpen fx m.plane m.src then
      sendMsg s m.src sentAnswer (.remoteAnswer dev ⟨m.seq, m.plane, m.port, [⟨0, no, 0, false⟩]⟩) else s) ∧
    (∀ y : WinState, y.desc = some d → (canStage y = false ↔ y.st = .opened ∧ d.stage ≤ y.staged)) ∧
    (∀ code, let y := winOf s dev.val m.wid.val
      let t := refuseLine s dev.val m code
      t.mem = (journalEvent s dev.val 35 code (devDie dev.val) (lineFa fx.devid m.wid.val m.offset).toNat).mem ∧
        winOf t dev.val m.wid.val = { y with discards := Nat.min (y.discards + 1) 0xFFFFFFFF } ∧
        (portOpen fx m.plane m.src = true → t.sent = s.sent ++ [⟨m.src, .remoteAnswer dev ⟨m.seq, m.plane, m.port, [⟨0, true, 0, false⟩]⟩, sentAnswer⟩])) ∧
    (∀ y : WinState, (y.st ≠ .opened → refusal now y m = some 3) ∧
      (y.st = .opened → y.desc = some d → (refusal now y m = none ↔ y.closing = false ∧ (∀ e, y.expiry = some e → now < e) ∧
        ∃ c, contributorOf d m.src = some c ∧ hasBit y.absent c = false ∧ hasBit (y.line (m.offset / 128)).admitted c = false ∧ m.offset < d.len ∧
          m.offset % 128 = 0 ∧ m.fmt = d.fmt))) ∧
    (win.st = .opened → win.desc = some d → contributorOf d m.src = some c → m.wid = wid →
      stageLine s dev.val m = settleWin (stepLine dev.val wid.val (m.offset / 128) d d.expected (answerLine
        (modLine s dev.val wid.val (m.offset / 128) fun k => { k with waiting := kset k.waiting c m.wire }) dev.val m false)) dev.val wid.val) ∧
    (win.st ≠ .opened → m.wid = wid → stageLine s dev.val m = refuseLine s dev.val m 3) ∧
    (d.expected.Pairwise (· < ·) ∧ ((win.line li).closed = false →
      let skip := hasBit (win.line li).entered c = true ∨ hasBit win.absent c = true
      stepLine dev.val wid.val li d [] s = writeLine s dev.val wid.val li d ∧
      (skip → stepLine dev.val wid.val li d (c :: cs) s = stepLine dev.val wid.val li d cs s) ∧
      (¬skip → kget (win.line li).waiting c = none →
        stepLine dev.val wid.val li d (c :: cs) s = if win.closing then stepLine dev.val wid.val li d cs s else s) ∧
      (∀ wire, ¬skip → kget (win.line li).waiting c = some wire → startLine s dev.val wid.val li d = (s2, true) →
        stepLine dev.val wid.val li d (c :: cs) s = stepLine dev.val wid.val li d cs (modLine s2 dev.val wid.val li fun k =>
          { k with entered := k.entered + 2 ^ c, waiting := kdel k.waiting c,
                   acc := (k.acc.zip (decodeLine d.fmt wire)).map fun e => e.1.enter d e.2 })))) ∧
    (∀ pre c post, d.expected = pre ++ c :: post → (win.line li).closed = false → win.closing = false →
      (∀ p ∈ pre, hasBit (win.line li).entered p = true ∨ hasBit win.absent p = true) → hasBit (win.line li).entered c = false →
      hasBit win.absent c = false → kget (win.line li).waiting c = none → stepLine dev.val wid.val li d d.expected s = s) ∧
    (∀ e, win.st = .opened → win.expiry = some e → win.closing = false →
      let closing := modWin s dev.val wid.val fun y => { y with closing := true }
      (now < e → exec (.windowExpiry dev wid) s = stall s) ∧
      (e ≤ now → exec (.windowExpiry dev wid) s = .next (serveAll (pumpWin (stageRest closing dev.val wid.val) dev.val wid.val) dev.val)) ∧
      ((∀ k ∈ fx.waitLines, k.2 = true → k.1.wid ≠ wid) → (winOf (stageRest closing dev.val wid.val) dev.val wid.val) = winOf closing dev.val wid.val) ∧
      (fx.waitLines = [(m, true)] → m.wid = wid → win.desc = some d → contributorOf d m.src = some c →
        kget ((winOf (stageRest closing dev.val wid.val) dev.val wid.val).line (m.offset / 128)).waiting c = some m.wire ∧
          (fabricOf (stageRest closing dev.val wid.val) dev.val).waitLines = []) ∧
      (e ≤ now → win.desc ≠ none → win.lines = [] → fx.waitLines = [] →
        exec (.windowExpiry dev wid) s = .next (closeWin closing dev.val wid.val .expired)))

/-- R394, R396, R415 to R419, R423, R425: a session keys its port and sends what waited, no operation passing an earlier one of its crew to the same bytes; a lost port carries nothing; keep-alives are sent every PTMO / 10 ticks and answered; a plane
without ports or answers is dead until it is answered again, is blocked and is reported to the coordinator; PROPOSE of the next generation prepares and is acknowledged, an earlier or later one is
dropped; the coordinator commits once every member has acknowledged, or 10 × PTMO ticks after it proposed, without those that are silent; installing changes the entries
of dead planes only.
Model choices: logs 12, 20, 57 and 58. -/
def Obligations.PlanesAreAgreed : Prop :=
  ∀ (s : State) (dev : Fin 3) (port : Fin 24) (plane : Fin 8) (peer g : Nat) (ok : Bool) (d : BitVec 8) (o : RemoteOut) (old : Vector (Fin 8) 64)
      (live : List (Fin 8)),
    let f := fabricOf s dev.val
    let q := f.port port.val
    let now := s.reftime
    let at_ := fun t : State => fabricOf t dev.val
    let gets := fun (t : State) (m : Nat) (x : Message) (kind : Nat) => (⟨m, x, kind⟩ : Sent) ∈ t.sent
    (q.live = true → ∃ t, exec (.linkSession dev port peer ok) s = .next t ∧ (at_ t).port port.val = { q with keyed := ok, peer := peer, since := now } ∧
      t.mem = (journalEvent s dev.val 40 (if ok then 0 else 1) (devDie dev.val) (port.val + 2 ^ 16 * (peer % 1024))).mem) ∧
    (q.live = false → exec (.linkSession dev port peer ok) s = stall s) ∧
    (q.live = true → q.keyed = true → ∃ t, exec (.sessionRekey dev port ok) s = .next t ∧
      (at_ t).port port.val = if ok then { q with since := now } else { q with live := false, keyed := false }) ∧
    (q.live = true → ∃ t, exec (.portLoss dev port) s = .next t ∧ (at_ t).port port.val = { q with live := false, keyed := false } ∧ t.mem = s.mem) ∧
    (let k := planeOf f o.fa
     let m := fun p : Nat => match o.line with | some l => Message.collLine dev { l with plane := k, port := p } | none => .remoteOp dev { o.op with plane := k, port := p }
     (∀ p, portFor f k (faPeer o.fa) = some p → f.blocked.getLsbD k = false → (f.port p).keyed = true → sendsBehind f o = false → hopeless f (faPeer o.fa) = false →
       (sendOut s dev.val o).sent = s.sent ++ [⟨faPeer o.fa, m p, sentData⟩]) ∧
     (f.blocked.getLsbD k = true ∨ sendsBehind f o = true ∨ portOpen f k (faPeer o.fa) = false ∨ hopeless f (faPeer o.fa) = true → sendOut s dev.val o = s) ∧
     ((∃ pre e mid post, f.out = pre ++ e :: mid ++ o :: post ∧ (∀ k ∈ pre ++ e :: mid, k.seq ≠ o.seq) ∧ e.crew = o.crew ∧
       overlaps e.fa.toNat e.bytes o.fa.toNat o.bytes = true) → sendsBehind f o = true)) ∧
    (f.configured = true → livePorts f plane.val ≠ [] →
      (vget f.kept plane.val 0 + f.ptmo / 10 ≤ now → ∃ t, exec (.keepaliveSend dev plane) s = .next t ∧ vget (at_ t).kept plane.val 0 = now ∧
        t.sent = s.sent ++ (peersOf f).map fun m => ⟨m, .keepalive dev plane f.devid false, sentKeep⟩) ∧
      (now < vget f.kept plane.val 0 + f.ptmo / 10 → exec (.keepaliveSend dev plane) s = stall s)) ∧
    (f.configured = true → livePorts f plane.val ≠ [] →
      (s.message = .keepalive dev plane peer true → ∃ t, exec .keepaliveReceive s = .next t ∧ kget (at_ t).heard (heardKey peer plane.val) = some now ∧
        (at_ t).dead.getLsbD plane.val = false) ∧
      (s.message = .keepalive dev plane peer false → ∃ t, exec .keepaliveReceive s = .next t ∧
        t.sent = s.sent ++ [⟨peer, .keepalive dev plane f.devid true, sentKeep⟩])) ∧
    (f.configured = true → f.dead.getLsbD plane.val = false →
      (livePorts f plane.val = [] ∨ (peersOf f ≠ [] ∧ lastHeard f plane.val + f.ptmo ≤ now)) →
      ∃ t, exec (.planeDead dev plane) s = .next t ∧ (at_ t).dead = f.dead ||| (1#8 <<< plane.val) ∧
        let c := coordinator { f with dead := f.dead ||| (1#8 <<< plane.val) } now
        (c ≠ f.devid → gets t c (.report dev f.devid plane) sentReport ∧
          (at_ t).blocked = f.blocked ||| (1#8 <<< plane.val) ∧ (f.agree = .normal → (at_ t).agree = .blocked))) ∧
    (f.configured = true → s.message = .report dev peer plane →
      (coordinator f now ≠ f.devid → ∃ t, exec .reportMsg s = .next t ∧ gets t (coordinator f now) (.report dev peer plane) sentReport) ∧
      (coordinator f now = f.devid → f.leads = true → f.propDead.getLsbD plane.val = true → exec .reportMsg s = .next s) ∧
      (coordinator f now = f.devid → mapUses f.map plane.val = false → exec .reportMsg s = .next s) ∧
      (coordinator f now = f.devid → f.leads = false → mapUses f.map plane.val = true → ∃ t, exec .reportMsg s = .next t ∧
        ∀ m ∈ peersOf f, gets t m (.propose dev f.devid (f.gen + 1) (1#8 <<< plane.val)) sentPropose) ∧
      (coordinator f now = f.devid → f.leads = true → f.propDead.getLsbD plane.val = false → mapUses f.map plane.val = true → ∃ t, exec .reportMsg s = .next t ∧
        ∀ m ∈ peersOf f, gets t m (.propose dev f.devid (f.gen + 1) (f.propDead ||| (1#8 <<< plane.val))) sentPropose)) ∧
    (f.configured = true → s.message = .propose dev peer g d →
      (g ≠ f.gen + 1 ∨ d = 0 → exec .proposeMsg s = .next s) ∧
      (g = f.gen + 1 → d ≠ 0 → ∃ t, exec .proposeMsg s = .next t ∧ (at_ t).agree = .prepared ∧ (at_ t).propGen = g ∧ (at_ t).propDead = d ∧
        (at_ t).blocked = f.blocked ||| d ∧ (at_ t).leads = false ∧ gets t peer (.generation dev f.devid g) sentAck ∧
        (at_ t).out = f.out.map (fun o => if o.sent && d.getLsbD o.plane then { o with mark := true } else o) ∧ (at_ t).map = f.map ∧ (at_ t).gen = f.gen)) ∧
    (f.configured = true → s.message = .generation dev peer g →
      (f.leads = false ∨ g ≠ f.propGen → exec .ackMsg s = .next s) ∧
      (f.leads = true → g = f.propGen →
        let acks := peer :: f.acks.filter (· != peer)
        let s1 := modFabric s dev.val fun f => { f with acks := acks }
        ((∃ m ∈ peersOf f, m ∉ acks) → exec .ackMsg s = .next s1) ∧
        ((∀ m ∈ peersOf f, m ∈ acks) → f.propGen ≠ f.gen → exec .ackMsg s = .next (reportStale (commitPlan s1 dev.val) dev.val))) ∧
      (f.agree = .prepared → g = f.propGen → g = f.gen + 1 → exec .commitMsg s = .next (reportStale (install s dev.val) dev.val)) ∧
      (f.agree ≠ .prepared ∨ g ≠ f.propGen ∨ g ≠ f.gen + 1 → exec .commitMsg s = .next s)) ∧
    (f.leads = true → f.propAt + 10 * f.ptmo ≤ now → exec (.proposeTimeout dev) s = .next (reportStale (commitPlan s dev.val) dev.val)) ∧
    (f.leads = true → now < f.propAt + 10 * f.ptmo → exec (.proposeTimeout dev) s = stall s) ∧
    (f.configured = true → f.leads = false → f.agree ≠ .normal → f.since + 20 * f.ptmo ≤ now →
      let s1 := modFabric s dev.val fun f => { f with floor := coordinator f now + 1, since := now }
      exec (.commitTimeout dev) s =
        .next (if coordinator (at_ s1) now = f.devid then settleAgree (propose s1 dev.val f.blocked) dev.val f.gen else reportPlanes s1 dev.val f.blocked)) ∧
    (let t := commitPlan s dev.val
     (∀ m ∈ peersOf f, m ∉ f.acks → m ∈ (at_ t).lost) ∧
       ∀ m ∈ peersOf f, m ∈ f.acks → gets t m (.generation dev f.devid f.propGen) sentCommit) ∧
    (let t := install s dev.val
     (at_ t).gen = f.propGen ∧ (at_ t).map = newMap f.map f.propDead (((List.range 8).filter fun k => planeUp f k && !f.propDead.getLsbD k).map (Fin.ofNat 8))) ∧
    (let new := newMap old d live
     live ≠ [] → ∀ e : Fin 64, (d.getLsbD old[e].val = false → new[e] = old[e]) ∧ (d.getLsbD old[e].val = true →
       some new[e] = live[((List.range e.val).filter fun i => d.getLsbD (vget old i 0).val).length % live.length]?))

/-- R397, R398, R420 to R423: FABRIC_CONFIG sets the device's place in its domain; GANG_ARM accepts a launch and holds it unplaced; GANG_START sends PREPARE to every member; the
initiator sends START once every member is ready, runs once each has acknowledged, cancels at NOTREADY or after GTMO ticks, and then aborts or goes on without the silent ones;
a member answers READY, starts, cancels, aborts and marks absent devices.
Model choices: log 60. -/
def Obligations.GangsStartTogether : Prop :=
  ∀ (s : State) (dev : Fin 3) (g m uid : Nat) (x : Gang) (l : Launch) (c : Crew) (tm : Team),
    let r := s.request
    let op := opNat r
    let fn := r.fn.val
    let gang := op 0
    let armable := (queueOf s fn (op 2)).isSome = true ∧ inMap fn (op 1) 128 = true
    let me := fabricOf s dev.val |>.devid
    let others := x.members.filter (· != me)
    let gets := fun (t : State) (dest kind who : Nat) => (⟨dest, .gang dev g who, kind⟩ : Sent) ∈ t.sent
    let dropped := fun t : State => t.launches = kdel s.launches x.launch ∧ gangOf t dev.val g = some { x with st := .closed }
    let placed := fun t : State => launchOf t x.launch = some { l with armed := false } ∧ (devOf t dev.val).placing.isSome = true
    (Serving s →
      ((fabricStructs r = none → responds (exec .fabricConfig s) s 3 []) ∧
       (∀ at_, fabricStructs r = some at_ →
          let o := fabricOps s r
          let s1 := at_.foldl (fun s e => mpTouch s fn e.1 e.2) s
          let f := fabricOf s1 fn
          (fabricOpsOk f fn o = false → responds (exec .fabricConfig s) s1 3 []) ∧
          (fabricOpsOk f fn o = true → fabricBusy f = true → responds (exec .fabricConfig s) s1 1 []) ∧
          (fabricOpsOk f fn o = true → fabricBusy f = false → ∃ t, responds (exec .fabricConfig s) t 0 [] ∧ t.mem = s1.mem ∧
            let k := fabricOf t fn
            k.configured = true ∧ k.devid = o.devid ∧ k.members = o.members ∧ k.gen = o.gen ∧ k.rtmo = o.rtmo ∧ k.ptmo = o.ptmo ∧
              k.windows = o.exports.map exportEntry ∧ k.ports = f.ports ∧ ∀ e : Fin 64, k.map[e].val = o.map.getD e.val 0 % 8))) ∧
      (queueOf s fn (op 2) = none ∨ inMap fn (op 1) 128 = false → responds (exec .gangArm s) s 3 []) ∧
      (armable → gangBusy s fn gang = true → responds (exec .gangArm s) s 1 []) ∧
      (∀ s1 reason addr, armable → gangBusy s fn gang = false → armChecks s fn (op 2) (r.op 1) = .reject s1 reason addr →
        responds (exec .gangArm s) (endArm s1 fn (op 2)) 2 (leBytes 8 reason)) ∧
      (∀ s1 s2 a, armable → gangBusy s fn gang = false → armChecks s fn (op 2) (r.op 1) = .ok s1 a →
        copySections s1 fn (op 2) a.obj a.record = .ok s2 () → ∃ t k y, responds (exec .gangArm s) t 0 [] ∧ launchOf t s2.nextLaunch = some k ∧
          k.armed = true ∧ k.gang = some gang ∧ k.record = a.record ∧ k.kernel = a.kernel ∧ k.next = 0 ∧ gangOf t fn gang = some y ∧
          y.launch = s2.nextLaunch ∧ y.st = .armed ∧ y.initiator = false) ∧
      (∀ y, gangOf s fn gang = some y → y.st = .armed → y.ready = [] → 2 ≤ op 2 → op 2 ≤ 1024 → op 3 ≤ 1 → 10 ^ 4 ≤ op 4 → op 4 ≤ 10 ^ 10 →
        inMap fn (op 1) (2 * op 2) = true →
        let ms := gangList s fn (op 1) (op 2)
        let to_ := ms.filter (· != (fabricOf s fn).devid)
        to_ ≠ [] → ∃ t, responds (exec .gangStart s) t 0 [] ∧
          gangOf t fn gang = some { y with initiator := true, st := .preparing, members := ms, tolerant := op 3 == 1, gtmo := op 4,
                                           since := s.reftime } ∧
          ∀ d ∈ to_, (⟨d, .gang (devFin fn) gang (fabricOf s fn).devid, sentPrepare⟩ : Sent) ∈ t.sent)) ∧
    (s.message = .gang dev g m → gangOf s dev.val g = some x → launchOf s x.launch = some l →
      (x.st = .armed → ∃ t, exec .gangPrepare s = .next t ∧ gets t m sentReady me ∧ gangOf t dev.val g = some { x with from_ := m, st := .preparing }) ∧
      (x.st = .preparing → x.initiator = false → ∃ t, exec .gangPrepare s = .next t ∧ gets t m sentReady me ∧
        gangOf t dev.val g = some { x with from_ := m, st := .preparing }) ∧
      (x.st ≠ .armed → (x.st = .preparing → x.initiator = true) → ∃ t, exec .gangPrepare s = .next t ∧ gets t m sentNotReady me ∧
        gangOf t dev.val g = some x) ∧
      (x.initiator = true → x.st = .preparing →
        let ready := m :: x.ready.filter (· != m)
        ((∃ d ∈ others, d ∉ ready) → ∃ t, exec .gangReady s = .next t ∧ gangOf t dev.val g = some { x with ready := ready } ∧ t.sent = s.sent) ∧
        ((∀ d ∈ others, d ∈ ready) → others ≠ [] → ∃ t, exec .gangReady s = .next t ∧ placed t ∧ (∀ d ∈ others, gets t d sentStart me) ∧
          gangOf t dev.val g = some { x with ready := ready, st := .starting, since := s.reftime, acked := [] }) ∧
        ∃ t, exec .gangNotready s = .next t ∧ dropped t ∧ ∀ d ∈ others, gets t d sentCancel me) ∧
      (x.initiator = false → x.st = .preparing → ∃ t, exec .gangStartMessage s = .next t ∧ placed t ∧ gets t m sentStartAck me ∧
        gangOf t dev.val g = some { x with st := .running }) ∧
      (x.initiator = true → x.st = .starting →
        let acked := m :: x.acked.filter (· != m)
        ((∃ d ∈ others, d ∉ acked) → ∃ t, exec .gangStartAck s = .next t ∧ gangOf t dev.val g = some { x with acked := acked } ∧ t.mem = s.mem) ∧
        ((∀ d ∈ others, d ∈ acked) → ∃ t, exec .gangStartAck s = .next t ∧ gangOf t dev.val g = some { x with acked := acked, st := .running } ∧
          t.mem = (journalEvent s dev.val 37 0 (devDie dev.val) g).mem)) ∧
      (x.initiator = false → x.st ≠ .running → x.st ≠ .closed → ∃ t, exec .gangCancel s = .next t ∧ dropped t) ∧
      (x.st ≠ .closed → l.armed = true → ∃ t, exec .gangAbort s = .next t ∧ dropped t) ∧
      (x.st ≠ .closed → l.armed = false → exec .gangAbort s = .next (modGang (abortLaunch s x.launch) dev.val g fun x => { x with st := .closed })) ∧
      (∃ t k, exec .gangAbsent s = .next t ∧ launchOf t x.launch = some k ∧ k.absent.contains m = true)) ∧
    (gangOf s dev.val g = some x → x.initiator = true → launchOf s x.launch = some l →
      (s.reftime < x.since + x.gtmo → exec (.gangTimeout dev g) s = stall s) ∧
      (x.since + x.gtmo ≤ s.reftime →
        (x.st = .preparing → ∃ t, exec (.gangTimeout dev g) s = .next t ∧ dropped t ∧ ∀ d ∈ others, gets t d sentCancel me) ∧
        (x.st = .starting → x.tolerant = false → ∃ t, exec (.gangTimeout dev g) s = .next t ∧ (∀ d ∈ others, gets t d sentGangAbort me) ∧
          ∃ y, gangOf t dev.val g = some y ∧ y.st = .closed) ∧
        (x.st = .starting → x.tolerant = true → ∃ t y, exec (.gangTimeout dev g) s = .next t ∧ gangOf t dev.val g = some y ∧ y.st = .running ∧
          ∀ d ∈ others, d ∉ x.acked → ∀ e ∈ others, e ≠ d → gets t e sentAbsent d))) ∧
    (launchOf s uid = some l →
      let t := abortLaunch s uid
      (∃ k, launchOf t uid = some k ∧ k.aborted = true ∧ k.next = l.record.grid ∧ k.back = [] ∧
        k.failed = l.failed + (l.back.filter (·.run == .original)).length + (l.record.grid - l.next)) ∧
      ((∀ e ∈ s.crews, e.2.uid = c.uid ↔ e = (c.uid, c)) → crewOf s c.uid = some c → teamOf s c.team = some tm → tm.uid = c.team → tm.launch = uid →
        ∃ k, crewOf t c.uid = some k ∧ k.alive = false ∧ k.s = c.s))

/-! ## Keeping the die honest (R356 to R365) -/

/-- R356 to R365: a position sends its beat at ticks 256w + 4p; a third beat, a DIGEST mismatch, four silent windows or three windows above INJB accuse; four good windows withdraw;
accusations join VOTES and leave by WITHDRAW or after 1,024 ticks; a majority of at least two live neighbours fences; READMIT and RETIRE end it; a window is judged once it is over, before a beat of a later one counts; the first FENCE report marks the
table, orders the self-test and fails the teams on the core; a pass readmits once, a fail, a wrong tag, a time-out or a second fence within ten minutes retires.
Model choices: logs 52 to 55 and 73. -/
def Obligations.RoutersJudgeTheirNeighbours : Prop :=
  ∀ (s : State) (die : Fin 2) (pos nb flits core u team from_ : Nat) (bits : W64) (tm : Team) (c : Crew) (pass tagOk : Bool) (failures : W64),
    let now := s.reftime
    let d := dieOf s die.val
    let n := nbOf s die.val pos nb
    let at_ := fun t : State => nbOf t die.val pos nb
    let judges := adjacent pos nb = true ∧ dieRuns s die.val = true
    let base := windowBase s die.val n
    let inWindow := base ≤ now ∧ now < base + 256
    let votes := fun (t : State) (kind : Nat) => ∀ q ∈ liveNeighbours s die.val nb, q ≠ pos → (⟨q, .vote die q pos nb, kind⟩ : Sent) ∈ t.sent
    let accused := fun (r : Result) (reason : Nat) => ∃ t, r = .next t ∧ ((at_ t).st = .accusing ∨ (at_ t).st = .fenced) ∧ (at_ t).reason = reason ∧
      votes t sentAccuse
    (pos < 42 → dieRuns s die.val = true → now % 256 = 4 * pos → (physOf s die.val pos).beatAt ≠ some now →
      let b := beatBits s die.val pos
      ∃ t, exec (.beatSend die pos) s = .next t ∧ t.sent = s.sent ++ (neighbours pos).map (fun q => ⟨q, .beat die q pos b, sentBeat⟩) ∧
        (physOf t die.val pos).seq = ((physOf s die.val pos).seq + 1) % 2 ^ 16 ∧ bitsOf b 15 0 = (physOf s die.val pos).seq % 2 ^ 16 ∧
        bitsOf b 21 16 = pos ∧ bitsOf b 29 22 = d.gen % 256 ∧ bitsOf b 31 30 = 0 ∧
        bitsOf b 63 32 = crc32 (leBytes 4 (bitsOf b 31 0) ++ leBytes 8 d.table.toNat) % 2 ^ 32) ∧
    (now % 256 ≠ 4 * pos → exec (.beatSend die pos) s = stall s) ∧
    (judges → s.message = .beat die pos nb bits →
      let valid := beatGood d nb bits = true ∧ n.seq ≠ some (bitsOf bits 15 0)
      (n.st = .fenced ∨ n.st = .retired ∨ now < base → exec .beatReceive s = .next s) ∧
      (n.st = .trusted ∨ n.st = .accusing → base + 256 ≤ now → exec .beatReceive s = stall s) ∧
      (n.st = .trusted → inWindow → (2 ≤ n.beats ∨ beatMismatch d bits = true) → accused (exec .beatReceive s) 2) ∧
      (n.st = .trusted → inWindow → n.beats < 2 → beatMismatch d bits = false → ∃ t, exec .beatReceive s = .next t ∧ (at_ t).st = .trusted ∧
        (at_ t).beats = n.beats + 1 ∧ (valid → (at_ t).valid = n.valid + 1 ∧ (at_ t).seq = some (bitsOf bits 15 0)) ∧
        (¬valid → (at_ t).valid = n.valid ∧ (at_ t).seq = n.seq))) ∧
    (now < base + 256 → exec (.beatWindowEnd die pos nb flits) s = stall s) ∧
    (judges → base + 256 ≤ now →
      let r := exec (.beatWindowEnd die pos nb flits) s
      let miss := if 0 < n.valid then 0 else n.miss + 1
      let bab := if d.injb < flits then n.bab + 1 else 0
      (n.st = .trusted → 4 ≤ miss → accused r 1) ∧ (n.st = .trusted → miss < 4 → 3 ≤ bab → accused r 3) ∧
      (n.st = .trusted → miss < 4 → bab < 3 → ∃ t, r = .next t ∧ (at_ t).st = .trusted ∧ (at_ t).miss = miss ∧ (at_ t).bab = bab ∧ (at_ t).beats = 0 ∧
        (at_ t).valid = 0 ∧ (at_ t).judged = some (base + 256)) ∧
      (n.st = .accusing → n.valid = 1 → flits ≤ d.injb → 3 ≤ n.good → ∃ t, r = .next t ∧ (at_ t).st = .trusted ∧ (at_ t).miss = 0 ∧ (at_ t).bab = 0 ∧
        votes t sentWithdraw) ∧
      (n.st = .accusing → (n.valid ≠ 1 ∨ d.injb < flits ∨ n.good < 3) → ∃ t, r = .next t ∧ ((at_ t).st = .accusing ∨ (at_ t).st = .fenced) ∧
        votes t sentAccuse)) ∧
    (let a := (accusers s die.val pos nb).length
     let live := (liveNeighbours s die.val nb).length
     (n.st = .trusted ∨ n.st = .accusing → 2 ≤ a → live < 2 * a → (at_ (applyTest s die.val pos nb)).st = .fenced) ∧
     (a < 2 ∨ 2 * a ≤ live → (at_ (applyTest s die.val pos nb)).st = n.st)) ∧
    (s.message = .vote die pos from_ nb → voteFits s die.val pos from_ nb = true → n.st = .trusted ∨ n.st = .accusing →
      (∃ t, exec .accuseMsg s = .next t ∧ (at_ t).votes = kset n.votes from_ now) ∧ (∃ t, exec .withdrawMsg s = .next t ∧ (at_ t).votes = kdel n.votes from_)) ∧
    (∀ since, n.st = .trusted ∨ n.st = .accusing → kget n.votes from_ = some since →
      (since + 1024 ≤ now → ∃ t, exec (.accusationLapse die pos from_ nb) s = .next t ∧ (at_ t).votes = kdel n.votes from_) ∧
      (now < since + 1024 → exec (.accusationLapse die pos from_ nb) s = stall s)) ∧
    (adjacent pos nb = true → s.message = .verdict die pos nb →
      (marked s die.val nb = false → n.st = .fenced → ∃ t, exec .readmitLink s = .next t ∧ (at_ t).st = .trusted ∧ (at_ t).votes = [] ∧ (at_ t).miss = 0 ∧
        (at_ t).bab = 0) ∧
      ((physOf s die.val nb).retired = true → n.st = .fenced → ∃ t, exec .retireLink s = .next t ∧ (at_ t).st = .retired) ∧
      (marked s die.val nb = false → n.st = .retired → exec .readmitLink s = .next s)) ∧
    (pos < 42 → marked s die.val pos = false → (reporter s die.val pos).isSome = true → ∃ t, exec (.fenceReport die pos) s = .next t ∧ marked t die.val pos = true ∧
      (dieOf t die.val).gen = d.gen + 1 ∧ (dieOf t die.val).prev = d.table ∧ (physOf t die.val pos).bistAt = some now ∧
      (physOf t die.val pos).lastFence = some now ∧
      (logicalAt s die.val pos = some core → (kget s.cores (coreKey die.val core)).isSome = true →
        (coreAt t die.val core).fenced = true ∧
        ((coreAt s die.val core).fenced = false → teamOf s team = some tm → tm.uid = team → tm.die = die.val → tm.cores.contains core = true →
          (∃ k, teamOf t team = some k ∧ k.failure.isSome = true) ∧
          (crewOf s u = some c → c.uid = u → c.team = team → c.core = core → ∃ k, crewOf t u = some k ∧ k.alive = false)))) ∧
    (marked s die.val pos = true → exec (.fenceReport die pos) s = stall s) ∧
    (let p := physOf s die.val pos
     let retires := fun r : Result => ∃ t, r = .next t ∧ (physOf t die.val pos).retired = true ∧ marked t die.val pos = true ∧
       ∀ q ∈ neighbours pos, (⟨q, .verdict die q pos, sentRetire⟩ : Sent) ∈ t.sent
     let result := exec (.bistResult die pos pass tagOk failures) s
     pos < 42 →
     (p.bistAt = none → result = stall s) ∧
     (∀ since, p.bistAt = some since →
       (p.reserveFor = none → marked s die.val pos = true → pass = true → tagOk = true → now < since + 1000000 → p.again = false → logicalAt s die.val pos = some core →
         coreEmpty s die.val core = true → (kget s.cores (coreKey die.val core)).isSome = true → ∃ t, result = .next t ∧ marked t die.val pos = false ∧
         (dieOf t die.val).gen = d.gen + 1 ∧ (coreAt t die.val core).scratch = [] ∧ (coreAt t die.val core).tcache = [] ∧
         ∀ q ∈ neighbours pos, (⟨q, .verdict die q pos, sentReadmit⟩ : Sent) ∈ t.sent) ∧
       (p.reserveFor = none → marked s die.val pos = true → (pass = false ∨ tagOk = false ∨ p.again = true ∨ since + 1000000 ≤ now) → retires result) ∧
       (p.reserveFor = some core → marked s die.val pos = false → pass = true → tagOk = true → now < since + 1000000 → (kget s.cores (coreKey die.val core)).isSome = true →
         ∃ t, result = .next t ∧ (coreAt t die.val core).phys = pos ∧ (physOf t die.val pos).inUse = true) ∧
       (now < since + 1000000 → exec (.bistTimeout die pos) s = stall s) ∧
       (p.reserveFor = none → marked s die.val pos = true → since + 1000000 ≤ now → retires (exec (.bistTimeout die pos) s))))

/-! ## The package (R4, R294, R375, R377, R382 to R386, R392, R395) -/

/-- R4, R294, R375, R382 to R386, R392, R395: the host port reads, writes and atomically updates device memory at its homes while the firmware runs; links train and recalibrate; a failed second-tier port answers poisoned; a
request over the Sound that is older than XTMO halts its reader in split mode and is fatal otherwise; a die powers up with the running REFTIME, and powers down or is reset without its
crews; it is ready with its memory zeroed; power-on verifies the slots; a sample of the draw is taken every 1,000 ticks and averaged over 100.
Model choices: logs 6, 10, 29, 61 and 75; log 90 for when a request is sent; log 91 for accesses outside the CXL.mem window. -/
def Obligations.ThePackageServesItsDies : Prop :=
  ∀ (s : State) (die : Fin 2) (pa : W64) (n : Nat) (data : List Byte) (cxl : Bool) (width : Nat) (port : Fin 4) (link : LinkName) (u i : Nat) (c : Crew)
      (p : PendingLoad) (e : StoreEntry) (a b : Bool) (req : SoundReq) (who : Nat) (watts : Nat),
    let d := dieOf s die.val
    let hdev := hostDev s
    let gone := fun t : State => (∀ k ∈ t.crews, k.2.die ≠ die.val) ∧ ∀ k ∈ t.teams, k.2.die ≠ die.val
    (s.fwUp = false → ∀ op, exec (.hostAccess op pa n data) s = stall s) ∧
    (let r := readHome s none hdev 0 pa.toNat n
     let plain := s.late = none ∧ ∀ i, i < n → ∃ k, homeKey hdev (pa.toNat + i) = some k ∧ responder s 0 k = false
     let got := { r.1 with hostRead := r.2.1, hostBad := r.2.2 }
     let old := leNat r.2.1
     let stores := fun (q : Result) (v : Nat) => q = .next (updateHome got none hdev 0 pa.toNat (leBytes n (v % 2 ^ (8 * n))))
     s.fwUp = true →
      (inDevice hdev pa.toNat data.length = true → exec (.hostAccess .write pa n data) s = .next (writeUnit s .host hdev 0 pa.toNat data)) ∧
      (inDevice hdev pa.toNat n = true → plain → exec (.hostAccess .read pa n data) s = .next got) ∧
      (inDevice hdev pa.toNat n = true → (∃ i k, i < n ∧ homeKey hdev (pa.toNat + i) = some k ∧ responder s 0 k = true) →
        ∃ t, exec (.hostAccess .read pa n data) s = .next t ∧ t.hostBad = true ∧ t.mem = r.1.mem) ∧
      (n = 4 ∨ n = 8 → inDevice hdev pa.toNat n = true → plain →
        stores (exec (.hostAccess .fetchAdd pa n data) s) (old + leNat data) ∧ stores (exec (.hostAccess .swap pa n data) s) (leNat data) ∧
        stores (exec (.hostAccess .cas pa n data) s) (if old = leNat (data.take n) then leNat (data.drop n) else old)) ∧
      (memWindow s pa.toNat n = true → exec (.hostAccess .memLoad pa n data) s = exec (.hostAccess .read pa n data) s) ∧
      (memWindow s pa.toNat n = false → exec (.hostAccess .memLoad pa n data) s = stall s) ∧
      (memWindow s pa.toNat data.length = true → exec (.hostAccess .memStore pa n data) s = exec (.hostAccess .write pa n data) s) ∧
      (memWindow s pa.toNat data.length = false → exec (.hostAccess .memStore pa n data) s = stall s) ∧
      (memWindow s pa.toNat n = true ↔ (∃ w, s.hostCxl = some (true, w)) ∧
        ∃ base size, s.cxlWindow = some (base, size) ∧ base ≤ pa.toNat ∧ pa.toNat + n ≤ base + size)) ∧
    ((width = 16 ∨ (cxl = false ∧ (width = 8 ∨ width = 4))) → exec (.hostLinkTraining cxl width) s = .next { s with hostCxl := some (cxl, width) }) ∧
    ((width ≠ 16 ∧ (cxl = true ∨ (width ≠ 8 ∧ width ≠ 4))) → exec (.hostLinkTraining cxl width) s = stall s) ∧
    (∃ t, exec (.secondTierPortFail port) s = .next t ∧ t.mem = s.mem ∧ ∀ from_ key, keyPort key = some port.val → responder t from_ key = true ∧
      ∀ dev adr bs, homeKey dev adr = some key → bs ≠ [] → adr % 4096 + bs.length ≤ 4096 →
        (writeHome t none dev from_ adr bs).mem = (journalEvent t dev 6 4 from_ adr).mem ∧ updateHome t none dev from_ adr bs = t) ∧
    (link ≠ .hostPort → (∀ k, link ≠ .cxl k) → ∃ r, exec (.laneRecalibration link) s = .next { s with recal := r } ∧ r.contains link = !s.recal.contains link) ∧
    (∀ t, timeout s req who i = .next t → t.stalled = false →
      exec (.soundRequestTimeout req who i) s = .next (if s.mode = 2 then t else fatalError t 2 (requestDie s req who))) ∧
    (crewOf s u = some c →
      (∀ t0 l ls, s.stalled = false → c.loads[i]? = some p → p.sent = some t0 → s.xtmo ≤ s.reftime - t0 → p.lanes.filter (crosses s c) = l :: ls →
        ∃ t, exec (.soundRequestTimeout .load u i) s = .next t ∧ (s.mode = 2 → ∃ k, crewOf t u = some k ∧ k.alive = false) ∧
          (s.mode ≠ 2 → s.stopped ≠ 3 → t.stopped = 3 ∧ t.fatal.isSome = true)) ∧
      (c.loads[i]? = some p → (∀ t0, p.sent = some t0 → s.reftime - t0 < s.xtmo) → exec (.soundRequestTimeout .load u i) s = stall s) ∧
      (∀ t0, s.stalled = false → c.storeQ[i]? = some e → e.sent = some t0 → s.xtmo ≤ s.reftime - t0 → e.lanes.filter (crosses s c) ≠ [] →
        ∃ t, exec (.soundRequestTimeout .store u i) s = .next t ∧ (s.mode ≠ 2 → s.stopped ≠ 3 → t.stopped = 3 ∧ t.fatal.isSome = true)) ∧
      (c.storeQ[i]? = some e → (∀ t0, e.sent = some t0 → s.reftime - t0 < s.xtmo) → exec (.soundRequestTimeout .store u i) s = stall s)) ∧
    (d.powered = false → ∃ t, exec (.diePowerUp die) s = .next t ∧ (dieOf t die.val).powered = true ∧ t.mem = s.mem ∧ t.reftime = s.reftime) ∧
    (d.powered = true → ∃ t, exec (.diePowerDown die) s = .next t ∧ (dieOf t die.val).powered = false ∧ gone t ∧ (s.mode = 1 → s.stopped ≠ 3 → t.stopped = 3 ∧ t.fatal.isSome = true)) ∧
    (∃ t, exec (.dieReset die) s = .next t ∧ gone t ∧ (dieOf t die.val).inReset = true ∧
      (s.mode = 2 → t.stopped = s.stopped &&& ~~~(1#2 <<< die.val) ∧ t.fatal = (if t.stopped = 0 then none else s.fatal) ∧ dieOf t (1 - die.val) = dieOf s (1 - die.val) ∧ ∀ k ∈ s.crews, k.2.die ≠ die.val → k ∈ t.crews) ∧
      (s.mode ≠ 2 → t.stopped = 0 ∧ t.fatal = none ∧ (dieOf t (1 - die.val)).inReset = true)) ∧
    (d.inReset = true → ∃ t, exec (.dieReady die) s = .next t ∧ (dieOf t die.val).inReset = false ∧
      (∀ off, off < 2 ^ 42 → cellsGet t.mem (hbmKey die.val off) = 0) ∧ (∀ k ∈ t.poison, 2 ^ 51 ≤ 32 * k ∨ keyDie (32 * k) ≠ die.val) ∧
      ∀ key, key < hbmKey die.val 0 ∨ hbmKey die.val 0 + 2 ^ 42 ≤ key → cellsGet t.mem key = cellsGet s.mem key) ∧
    (d.inReset = false → exec (.dieReady die) s = stall s) ∧
    (∃ t, exec (.packagePowerOn a b) s = .next t ∧ t.reftime = 0 ∧ t.crews = [] ∧ t.contexts = [] ∧ t.mem = [] ∧ t.fatal = none ∧ t.stopped = 0 ∧ t.mode = 0 ∧
      t.fwUp = (a || b) ∧ (a = true → t.fwActive = s.fwActive ∧ t.fwStaged = s.fwStaged) ∧
      (a = false → b = true → s.fwStaged ≠ [] → t.fwActive = s.fwStaged)) ∧
    (s.reftime < s.sampleAt + 1000 → exec (.powerSample watts) s = stall s) ∧
    (s.sampleAt + 1000 ≤ s.reftime →
      let draws := (watts :: s.samples).take 100
      let above := s.cap * draws.length < draws.sum
      let below := draws.sum < s.cap * draws.length
      ∃ on, exec (.powerSample watts) s = .next { s with samples := draws, sampleAt := s.sampleAt + 1000, stretch := on } ∧
        (above → on = true) ∧ (below → on = false) ∧ (¬above → ¬below → on = s.stretch))

/-- R377: a loss of the reference clock or an error in a processor's state is fatal, for the first cause only; from then on, while no reset is due, no step changes a byte of memory, a
device, a die, or what a crew's registers hold; a device that has not been reset runs no word of its crews. -/
def Obligations.FatalErrorsStopTheDevice : Prop :=
  ∀ (s : State) (die : Fin 2),
    (s.stopped ≠ 3 → (∃ t, exec (.referenceClockLoss die) s = .next t ∧ t.fatal = some 3 ∧ t.stopped = 3 ∧ t.crews = s.crews) ∧
      ∃ t, exec (.processorStateUncorrectableError die) s = .next t ∧ t.fatal = some 1 ∧ t.stopped = 3 ∧ t.crews = s.crews) ∧
    (s.stopped = 3 → exec (.referenceClockLoss die) s = .next s ∧ exec (.processorStateUncorrectableError die) s = .next s) ∧
    (∀ u c n, s.fatal.isSome = true → crewOf s u = some c → s.stopped.getLsbD c.die = true →
      runAgent s (.scalar u) = stall s ∧ runAgent s (.lane u n) = stall s) ∧
    (s.fatal.isSome = true → s.stopped = 3 → (∀ a ∈ s.agenda, afterFatal a.who = false) → ∃ t, step s = .next t ∧ t.fatal = s.fatal ∧ t.stopped = 3 ∧
      (∀ a ∈ t.agenda, afterFatal a.who = false) ∧ t.mem = s.mem ∧ t.devs = s.devs ∧ t.dies = s.dies ∧ t.launches = s.launches ∧
      t.crews.map (·.1) = s.crews.map (·.1) ∧ ∀ u c, crewOf s u = some c → ∃ k, crewOf t u = some k ∧ k.s = c.s ∧ k.v = c.v ∧ k.p = c.p ∧
        k.spc = c.spc ∧ k.st = c.st ∧ k.astat = c.astat)

/-! ## The machine as a whole -/

/-- R19 to R29: what the words of the spec's own examples and tables decode to. -/
def Obligations.DecodesTheSpecsWords : Prop :=
  let lane := fun a b c : Nat => decodeTableWord 96 (a + b * 2 ^ 32 + c * 2 ^ 64)
  decodeTableWord 32 0x04287FF4 = some (.addi 5 3 0x1FF4) ∧ decodeTableWord 32 0x162BCDEF = some (.shi 5 0x3CDEF) ∧
  decodeTableWord 32 0x5220E4DD = some (.satom 4 7 9 true 1 true 5) ∧ decodeTableWord 32 0x60300007 = some (.srd 6 7) ∧
  decodeTableWord 32 0x70400040 = some (.lrun true 64) ∧ decodeTableWord 32 0x80A001C0 = some (.bara 20 0 448) ∧
  decodeTableWord 32 0x22387FFF = some (.bne 7 3 0x1FFF) ∧ decodeTableWord 32 0xC4480012 = some (.sysc 9 0x12) ∧
  decodeTableWord 32 0xC6000000 = some .rte ∧ decodeTableWord 32 0x9C000000 = some .endCrew ∧
  lane 0x08380C60 0x021000E0 0x40 =
    some (.vld ⟨12, false, 0, .snap 3, .vreg 0, .vreg 7, 0, false, .f32, 4, 0x40⟩) ∧
  lane 0x50280640 0x01802271 1 = some (.vshfl ⟨6, false, 0, .vreg 5, .imm, .zero, 0, false, .b32, 3, 1⟩) ∧
  lane 0x00220923 0x0014E2B0 0x3F000000 = some (.ffma ⟨9, false, 1, .vreg 4, .latch 0, .imm, 3, true, .f32, 0, 0x3F000000⟩) ∧
  lane 0x883800F0 0x06000040 0 = some (.rput ⟨0, false, 0, .snap 3, .vreg 8, .vreg 2, 0, false, .b32, 12, 0⟩) ∧
  lane 0x810000E0 0x01100000 0x00402012 = some (.mxmma ⟨0, 0, 0, 0, 0x10000081, 2, 64, false, true, 0, 1, 64⟩) ∧
  lane 0x027000E1 0 0x0000400C = some (.mxdrain ⟨0, 0, 0, 7, 2, 0, 128, true, false, 0, 2, 0⟩) ∧
  decodeTableWord 32 0 = none ∧ decodeTableWord 96 (0x01 + 279 * 2 ^ 19) = none

/-- R12, R19 to R29: the encoding of every well-formed scalar or lane word, with every operand at every value, decodes to that word; and a word that
decodes is the encoding of the well-formed instruction it decodes to, so each word has one meaning. -/
def Obligations.EncodedWordsDecodeBack : Prop :=
  ∀ (i : Instr) (n w : Nat),
    (i.wellFormed = true → encode i = some (n, w) → decodeTableWord n w = some i) ∧
    (n = 32 ∨ n = 96 → decodeTableWord n w = some i → i.wellFormed = true ∧ encode i = some (n, w % 2 ^ n))

/-- R29, R79, R96, R310, R336, R340, R388 and logs 2 and 3: once its time has passed, its scheduler has chosen it and the distributor steps that were
due are over, a turn of a scalar stream or of a fragment runs the word at SPC or LPC that decodes, or the rejected word
that does not, or raises the breakpoint that matches it; a turn of the memory processor runs the first command of the queue next in order, or the request in the
mailbox; any other turn runs its own step.
Model choices: logs 34 and 35 as well. -/
def Obligations.StepRunsTheDecodedWord : Prop :=
  ∀ (s s1 s2 : State) (tn : Turn) (rest : List Turn) (i : Instr) (m : Message) (u n w : Nat) (c : Crew) (l : Launch) (fr : Frag) (fn : Fin 3),
    Begins s tn rest s1 → s1.fatal = none →
    let runs := fun r : Result => step s = ended s tn.who r
    let scalarCur := fun x : Nat => ({ crew := u, lane := false, slot := 0, word := x, idx := c.spc } : Cur)
    let laneCur := fun x : Nat => ({ crew := u, lane := true, slot := n, word := x, idx := fr.lpc } : Cur)
    (tn.who = .scalar u → crewOf s1 u = some c → crewLaunch s1 c = some l → c.runs s1 = true → c.trapping = none → c.stopping s1 = false →
      scalarWord s1 l c.spc = some w → scalarFetched { s1 with cur := some (scalarCur 0) } c l s2 →
      let s3 := { s2 with cur := some (scalarCur w) }
      (breakpoint s2 c l false c.spc = none ∨ c.bpPass = some c.spc →
        (decodeScalar w = .ok i → runs (exec i s3)) ∧ ∀ r, decodeScalar w = .bad r → runs (exec (.undecodableWord false (BitVec.ofNat 96 w) r) s3)) ∧
      ∀ k, breakpoint s2 c l false c.spc = some k → c.bpPass ≠ some c.spc → runs (raiseScalar s3 u 0x06 1 k 0)) ∧
    (tn.who = .scalar u → crewOf s1 u = some c → crewLaunch s1 c = some l → c.runs s1 = true → c.trapping = none → c.stopping s1 = false →
      scalarWord s1 l c.spc = none → runs (raiseScalar { s1 with cur := some (scalarCur 0) } u 0x01 3 0 0)) ∧
    (tn.who = .lane u n → crewOf s1 u = some c → c.div.frag n = some fr → c.laneQ ≠ [] → crewLaunch s1 c = some l → c.runs s1 = true →
      fr.st = .ready → (c.trapping = none ∧ c.stopping s1 = false) ∨ fr.win ≠ none → fr.skipAt ≠ some fr.lpc → laneWordAt l fr.lpc = some w →
      laneFetched { s1 with cur := some (laneCur 0) } c l fr s2 → breakpoint s2 c l true fr.lpc = none ∨ fr.bpPass = some fr.lpc →
      let s3 := { s2 with cur := some (laneCur w) }
      (decodeLane w = .ok i → runs (exec i s3)) ∧ ∀ r, decodeLane w = .bad r → runs (exec (.undecodableWord true (BitVec.ofNat 96 w) r) s3)) ∧
    (∀ q qs t, tn.who = .command fn → queueOrder (devOf s1 fn.val) = (n, q) :: qs → q.waiting = none →
      let at_ := q.base + 64 * (q.cons % 2 ^ q.log2n)
      exec (decodeCommand fn n (mpRead s1 fn.val at_ 64)) (mpTouch s1 fn.val at_ 64) = .next t → t.stalled = false →
      runs (.next (modDev t fn.val fun d => { d with lastServed := some n }))) ∧
    (tn.who = .mailbox fn → (devOf s1 fn.val).go = true →
      let r := decodeRequest fn (devOf s1 fn.val).mboxReq
      runs (exec (mailboxInstr r.code.toNat) { s1 with request := r })) ∧
    (tn.who = .event i → runs (exec i s1)) ∧ (tn.who = .deliver m i → runs (exec i { s1 with message := m }))

/-- R4, R85, R272, R357, R387, R390, R396, R406: REFTIME is 0, every logical core sits at its own physical position, INJB is 2,048, the mailboxes are idle and
no device is prepared, no port is keyed, no window is open; a crew slot starts with p0 all ones and every other register 0.
Model choices: log 4 (no byte of memory is listed); log 6 (CYCLES is 0, the fence tables are empty, ports hold no session, no crew and no context exists). -/
def Obligations.ResetIsAsTheSpecSays : Prop :=
  let s := State.reset
  s.reftime = 0 ∧ s.mem = [] ∧ s.crews = [] ∧ s.contexts = [] ∧
  (∀ die core, die < 2 → core < 40 → (coreAt s die core).phys = core ∧ (coreAt s die core).cycles = 0) ∧
  (∀ die, die < 2 → (vget s.dies die DieSt.reset).injb = 2048 ∧ (vget s.dies die DieSt.reset).table = 0) ∧
  (∀ d, d < 3 → (devOf s d).go = false ∧ (devOf s d).status = 0 ∧ (devOf s d).prepared = false) ∧
  (∀ d p : Nat, d < 3 → p < 24 → (vget (vget s.fabrics d FabricSt.reset).ports p PortSt.reset).keyed = false ∧ (vget s.fabrics d FabricSt.reset).wins = []) ∧
  (∀ r, Crew.reset.rs r = 0) ∧ (∀ n, Crew.reset.rv n = zeroLanes) ∧ (∀ n, Crew.reset.rp n = if n = 0 then allLanes else 0) ∧
  ∀ x, 0x18 ≤ x → x ≠ 0x1A → x ≠ 0x1B → x ≤ 0x4F → readSpecial s Crew.reset x = 0

/-- R12, R292, R369: a byte written reads back and every other byte keeps its value; the canonical form is kept, and memories in it that read alike are equal;
what is written at a physical address of a device is read back there and, by every device, at the same home; a replay writes its private page.
Model choices: log 4. -/
def Obligations.MemoryReadsBack : Prop :=
  ∀ (m m' : List Host.Cell) (a b : Nat) (x : Byte) (s : State) (dev : Fin 3) (pa k u : Nat) (bs : List Byte) (t : Team),
    cellsGet (cellsSet m a x) b = (if b = a then x else cellsGet m b) ∧
    (Memory.wf m = true → Memory.wf (cellsSet m a x) = true) ∧
    (Memory.wf m = true → Memory.wf m' = true → (∀ c, cellsGet m c = cellsGet m' c) → m = m') ∧
    leNat (leBytes a b) = b % 2 ^ (8 * a) ∧
    (let s' := physWrite s none dev.val pa bs
     (∀ (i : Fin bs.length), homeKey dev.val (pa + i.val) = some k → cellsGet s'.mem k = bs[i]) ∧
     ((∀ i, i < bs.length → homeKey dev.val (pa + i) ≠ some k) → cellsGet s'.mem k = cellsGet s.mem k) ∧
     ((∀ i, i < bs.length → (homeKey dev.val (pa + i)).isSome = true) → physRead s' none dev.val pa bs.length = bs)) ∧
    (kget s.teams u = some t → t.uid = u → t.run ≠ .original →
      let s' := physWrite s (some u) dev.val pa bs
      s'.mem = s.mem ∧ ((∀ i, i < bs.length → (homeKey dev.val (pa + i)).isSome = true) → physRead s' (some u) dev.val pa bs.length = bs))

/-- Log 4: whatever a step does, physical memory lists its bytes in canonical form afterwards if it did before. -/
def Obligations.MemoryStaysCanonical : Prop :=
  ∀ s t : State, s.memoryOk = true → step s = .next t → t.memoryOk = true
end

