-- ==== Sys2Proof/Laws/Memory.lean ====
section
/-! SUPPORT. Sparse memories: reading after writing, and the canonical form under every operation that writes memory (log 4). -/

namespace Sys2Proof.Machine

/-! ## Maps -/

@[simp] theorem kget_kset {α : Type} (m : KMap α) (k j : Nat) (x : α) :
    kget (kset m k x) j = if j = k then some x else kget m j := by
  induction m with
  | nil =>
    by_cases h : k = j
    · simp [kset, kget, h]
    · simp [kset, kget, h, Ne.symm h]
  | cons e m ih =>
    obtain ⟨i, y⟩ := e
    by_cases h1 : i = k
    · by_cases h2 : k = j
      · simp [kset, kget, h1, h2]
      · simp [kset, kget, h1, h2, Ne.symm h2]
    · by_cases h2 : k < i
      · by_cases h3 : k = j
        · subst h3; simp [kset, kget, h1, h2]
        · simp [kset, kget, h1, h2, h3, Ne.symm h3]
      · by_cases h3 : i = j
        · subst h3; simp [kset, kget, h1, h2]
        · simp [kset, kget, h1, h2, h3, ih]

/-! ## Reading -/

theorem cellsGet_filter (m : List Host.Cell) (a b : Nat) :
    cellsGet (m.filter fun c => c.1 != a) b = if b = a then 0#8 else cellsGet m b := by
  induction m with
  | nil => simp [cellsGet]
  | cons c m ih =>
    obtain ⟨j, x⟩ := c
    by_cases h : j = a
    · subst h
      by_cases e : b = j
      · simpa [e] using ih
      · simp [ih, e, cellsGet, Ne.symm e]
    · by_cases e : j = b
      · subst e; simp [cellsGet, h]
      · simp [cellsGet, h, e, ih]

theorem cellsGet_put (m : List Host.Cell) (a b : Nat) (x : Byte) (h : ∀ c ∈ m, c.1 ≠ a) :
    cellsGet (cellsPut m a x) b = if b = a then x else cellsGet m b := by
  induction m with
  | nil =>
    by_cases e : a = b
    · simp [cellsPut, cellsGet, e]
    · simp [cellsPut, cellsGet, e, Ne.symm e]
  | cons c m ih =>
    obtain ⟨j, y⟩ := c
    have hj : j ≠ a := h (j, y) (by simp)
    have ih := ih fun c hc => h c (by simp [hc])
    simp only [cellsPut]
    split
    · by_cases e : b = a
      · simp [cellsGet, e]
      · simp [cellsGet, e, Ne.symm e]
    · by_cases e : j = b
      · subst e; simp [cellsGet, hj]
      · simp [cellsGet, e, ih]

/-- A byte written reads back; every other byte keeps its value. -/
@[simp] theorem cellsGet_cellsSet (m : List Host.Cell) (a b : Nat) (x : Byte) :
    cellsGet (cellsSet m a x) b = if b = a then x else cellsGet m b := by
  unfold cellsSet
  split
  · rename_i h
    simp only [beq_iff_eq] at h
    simp [cellsGet_filter, h]
  · rw [cellsGet_put _ _ _ _ (by simp), cellsGet_filter]
    split <;> simp_all

/-! ## The canonical form -/

theorem cellsFrom_mono {lo hi : Nat} {m : List Host.Cell} (h : cellsFrom hi m = true) (le : lo ≤ hi) : cellsFrom lo m = true := by
  cases m with
  | nil => rfl
  | cons c m =>
    obtain ⟨a, x⟩ := c
    simp only [cellsFrom, Bool.and_eq_true, decide_eq_true_eq] at h ⊢
    exact ⟨⟨by omega, h.1.2⟩, h.2⟩

theorem cellsFrom_filter (p : Host.Cell → Bool) {lo : Nat} {m : List Host.Cell} (h : cellsFrom lo m = true) :
    cellsFrom lo (m.filter p) = true := by
  induction m generalizing lo with
  | nil => rfl
  | cons c m ih =>
    obtain ⟨a, x⟩ := c
    simp only [cellsFrom, Bool.and_eq_true, decide_eq_true_eq] at h
    have rest := ih h.2
    simp only [List.filter_cons]
    split
    · simp only [cellsFrom, Bool.and_eq_true, decide_eq_true_eq]
      exact ⟨h.1, rest⟩
    · exact cellsFrom_mono rest (by omega)

theorem cellsFrom_put {lo a : Nat} {x : Byte} {m : List Host.Cell} (hx : x ≠ 0#8) (hm : ∀ c ∈ m, c.1 ≠ a)
    (h : cellsFrom lo m = true) (le : lo ≤ a) : cellsFrom lo (cellsPut m a x) = true := by
  induction m generalizing lo with
  | nil => simp [cellsPut, cellsFrom, le, hx]
  | cons c m ih =>
    obtain ⟨j, y⟩ := c
    have hj : j ≠ a := hm (j, y) (by simp)
    simp only [cellsFrom, Bool.and_eq_true, decide_eq_true_eq] at h
    simp only [cellsPut]
    split
    · rename_i lt
      simp only [cellsFrom, Bool.and_eq_true, decide_eq_true_eq]
      exact ⟨⟨le, by simpa using hx⟩, ⟨by omega, h.1.2⟩, h.2⟩
    · simp only [cellsFrom, Bool.and_eq_true, decide_eq_true_eq]
      exact ⟨h.1, ih (fun c hc => hm c (by simp [hc])) h.2 (by omega)⟩

theorem wf_filter (p : Host.Cell → Bool) {m : List Host.Cell} (h : Memory.wf m = true) : Memory.wf (m.filter p) = true :=
  cellsFrom_filter p h

theorem wf_cellsSet {m : List Host.Cell} (h : Memory.wf m = true) (a : Nat) (x : Byte) : Memory.wf (cellsSet m a x) = true := by
  unfold cellsSet
  split
  · exact wf_filter _ h
  · rename_i hx
    exact cellsFrom_put (by simpa using hx) (by simp) (cellsFrom_filter _ h) (Nat.zero_le _)

theorem wf_cellsWrite {m : List Host.Cell} (h : Memory.wf m = true) (a : Nat) (bs : List Byte) :
    Memory.wf (cellsWrite m a bs) = true := by
  induction bs generalizing m a with
  | nil => exact h
  | cons b bs ih => exact ih (wf_cellsSet h a b) (a + 1)

theorem wf_cellsClear {m : List Host.Cell} (h : Memory.wf m = true) (a n : Nat) : Memory.wf (cellsClear m a n) = true := wf_filter _ h

/-- States with one memory are good together. -/
theorem memoryOk_of_mem {s t : State} (h : s.memoryOk = true) (e : t.mem = s.mem) : t.memoryOk = true := by
  unfold State.memoryOk at h ⊢
  rw [e]
  exact h

theorem reset_memoryOk : State.reset.memoryOk = true := rfl

/-! ## Writes at homes -/

theorem keyWrite_memoryOk {s : State} (h : s.memoryOk = true) (team : Option Nat) (key : Nat) (b : Byte) :
    (keyWrite s team key b).memoryOk = true := by
  unfold keyWrite
  split
  · exact wf_cellsSet h key b
  · exact h

theorem physWriteBytes_memoryOk {s : State} (h : s.memoryOk = true) (team : Option Nat) (dev pa : Nat) (bs : List Byte) :
    (physWriteBytes s team dev pa bs).memoryOk = true := by
  induction bs generalizing s pa with
  | nil => exact h
  | cons b bs ih =>
    apply ih
    split
    · exact keyWrite_memoryOk h team _ b
    · exact h

/-- Poison marks are no bytes of memory. -/
@[simp] theorem healSectors_mem (s : State) (team : Option Nat) (ks : List Nat) : (healSectors s team ks).mem = s.mem := by
  unfold healSectors; split <;> rfl

@[simp] theorem poisonSectors_mem (s : State) (team : Option Nat) (ks : List Nat) : (poisonSectors s team ks).mem = s.mem := by
  unfold poisonSectors; split <;> rfl

theorem physWrite_memoryOk {s : State} (h : s.memoryOk = true) (team : Option Nat) (dev pa : Nat) (bs : List Byte) :
    (physWrite s team dev pa bs).memoryOk = true :=
  memoryOk_of_mem (physWriteBytes_memoryOk h team dev pa bs) (healSectors_mem _ _ _)

/-! ## The journal -/

/-- A fatal error changes no byte of memory. -/
@[simp] theorem fatalStop_mem (s : State) (cause : Nat) : (fatalStop s cause).mem = s.mem := by
  unfold fatalStop; split <;> rfl

theorem journal_memoryOk {s : State} (h : s.memoryOk = true) (dev : Nat) (e : JEntry) : (journal s dev e).memoryOk = true := by
  simp only [journal]
  split
  · exact h
  · split
    · exact memoryOk_of_mem h (fatalStop_mem s 4)
    · exact physWrite_memoryOk (physWrite_memoryOk h _ _ _ _) _ _ _ _

theorem journalEvent_memoryOk {s : State} (h : s.memoryOk = true) (dev kind code die detail : Nat) :
    (journalEvent s dev kind code die detail).memoryOk = true := journal_memoryOk h _ _

theorem journalTeam_memoryOk {s : State} (h : s.memoryOk = true) (team kind code die detail : Nat) :
    (journalTeam s team kind code die detail).memoryOk = true := by
  unfold journalTeam
  split
  · exact h
  · split
    · exact h
    · exact journal_memoryOk h _ _

/-! ## Reads that meet errors -/

theorem spareRow_memoryOk {s : State} (h : s.memoryOk = true) (dev die sector pa : Nat) : (spareRow s dev die sector pa).memoryOk = true := by
  simp only [spareRow]
  split
  · apply journalEvent_memoryOk; exact memoryOk_of_mem h rfl
  · exact memoryOk_of_mem h rfl

theorem correctedEvent_memoryOk {s : State} (h : s.memoryOk = true) (dev die sector pa code : Nat) :
    (correctedEvent s dev die sector pa code).memoryOk = true := by
  have h1 := journalEvent_memoryOk h dev 22 code die pa
  simp only [correctedEvent]
  split
  · exact h1
  · repeat' split
    all_goals first | exact memoryOk_of_mem h1 rfl | (apply spareRow_memoryOk; exact memoryOk_of_mem h1 rfl)

theorem failedRetry_memoryOk {s : State} (h : s.memoryOk = true) (dev die sector pa : Nat) (l2 : Bool) :
    (failedRetry s dev die sector pa l2).memoryOk = true := by
  have h1 := memoryOk_of_mem h (poisonSectors_mem s none [sector])
  simp only [failedRetry]
  split
  · exact spareRow_memoryOk h1 _ _ _ _
  · exact h1

theorem touchSector_memoryOk {s : State} (h : s.memoryOk = true) (team : Option Nat) (dev die pa sector : Nat) :
    (touchSector s team dev die pa sector).1.memoryOk = true := by
  simp only [touchSector]
  split
  · exact h
  · split
    · exact h
    · split
      · apply correctedEvent_memoryOk; exact memoryOk_of_mem h rfl
      · apply failedRetry_memoryOk; exact memoryOk_of_mem h rfl
      · exact h

theorem touchSectors_memoryOk {s : State} (h : s.memoryOk = true) (team : Option Nat) (dev die pa : Nat) (ks : List Nat) :
    (touchSectors s team dev die pa ks).1.memoryOk = true := by
  induction ks generalizing s with
  | nil => exact h
  | cons k ks ih => exact ih (touchSector_memoryOk h team dev die pa k)

theorem readHome_memoryOk {s : State} (h : s.memoryOk = true) (team : Option Nat) (dev die pa n : Nat) :
    (readHome s team dev die pa n).1.memoryOk = true := touchSectors_memoryOk h _ _ _ _ _

theorem takeCopy_memoryOk {s : State} (h : s.memoryOk = true) (team : Option Nat) (dev die pa : Nat) :
    (takeCopy s team dev die pa).memoryOk = true := by
  simp only [takeCopy]
  repeat' split
  all_goals first | exact h | exact touchSectors_memoryOk h _ _ _ _ _

theorem writePiece_memoryOk {s : State} (h : s.memoryOk = true) (team : Option Nat) (dev die : Nat) (p : Nat × List Byte) :
    (writePiece s team dev die p).memoryOk = true := by
  unfold writePiece
  split
  · exact h
  · split
    · split
      · exact journalTeam_memoryOk h _ _ _ _ _
      · exact journalEvent_memoryOk h _ _ _ _ _
    · exact physWrite_memoryOk (takeCopy_memoryOk h _ _ _ _) _ _ _ _

/-- Good memory stays good along a fold of operations that keep it good. -/
theorem foldl_memoryOk {α : Type} (f : State → α → State) (hf : ∀ {s : State} (a : α), s.memoryOk = true → (f s a).memoryOk = true)
    (l : List α) {s : State} (h : s.memoryOk = true) : (l.foldl f s).memoryOk = true := by
  induction l generalizing s with
  | nil => exact h
  | cons a l ih => exact ih (hf a h)

theorem writeHome_memoryOk {s : State} (h : s.memoryOk = true) (team : Option Nat) (dev die pa : Nat) (bs : List Byte) :
    (writeHome s team dev die pa bs).memoryOk = true :=
  foldl_memoryOk _ (fun p hs => writePiece_memoryOk hs team dev die p) _ h

/-! ## The units' reads and writes -/

theorem readUnit_memoryOk {s : State} (h : s.memoryOk = true) (u : LateUnit) (dev die pa n : Nat) :
    (readUnit s u dev die pa n).1.memoryOk = true := by
  have h1 := readHome_memoryOk h none dev die pa n
  simp only [readUnit]
  split <;> exact h1

theorem writeUnit_memoryOk {s : State} (h : s.memoryOk = true) (u : LateUnit) (dev die pa : Nat) (bs : List Byte) :
    (writeUnit s u dev die pa bs).memoryOk = true := by
  refine foldl_memoryOk _ (fun {s} p hs => ?_) _ h
  dsimp only
  have h1 : (takeFree s).1.memoryOk = true := memoryOk_of_mem hs rfl
  repeat' split
  all_goals first
    | exact hs
    | exact writePiece_memoryOk hs _ _ _ _
    | exact journalEvent_memoryOk h1 _ _ _ _ _
    | exact journalEvent_memoryOk (writePiece_memoryOk h1 _ _ _ _) _ _ _ _ _

theorem mpWrite_memoryOk {s : State} (h : s.memoryOk = true) (dev pa : Nat) (bs : List Byte) : (mpWrite s dev pa bs).memoryOk = true :=
  writeUnit_memoryOk h _ _ _ _ _

end Sys2Proof.Machine
end

