-- ==== Sys2Proof/Laws/State.lean ====
section
/-! SUPPORT. What each named update of the state and of a crew leaves alone, field by field, and what it gives back where it writes. -/

namespace Sys2Proof.Machine

/-! ## Updates of one record of a map -/

@[simp] theorem kget_kmod {α : Type} (m : KMap α) (k j : Nat) (f : α → α) :
    kget (kmod m k f) j = if j = k then (kget m k).map f else kget m j := by
  induction m with
  | nil => simp [kmod, kget]
  | cons e m ih =>
    obtain ⟨i, y⟩ := e
    simp only [kmod, List.map_cons, beq_iff_eq] at ih ⊢
    by_cases h1 : i = k
    · by_cases h2 : k = j
      · subst h1; subst h2; simp [kget]
      · subst h1; simp [kget, h2, Ne.symm h2, ih]
    · by_cases h2 : i = j
      · subst h2; simp [kget, h1]
      · simp [kget, h1, h2, ih]

/-! ## putCrew -/

@[simp] theorem putCrew_reftime (s : State) (u : Nat) (c : Crew) : (putCrew s u c).reftime = s.reftime := rfl
@[simp] theorem putCrew_mem (s : State) (u : Nat) (c : Crew) : (putCrew s u c).mem = s.mem := rfl
@[simp] theorem putCrew_poison (s : State) (u : Nat) (c : Crew) : (putCrew s u c).poison = s.poison := rfl
@[simp] theorem putCrew_errors (s : State) (u : Nat) (c : Crew) : (putCrew s u c).errors = s.errors := rfl
@[simp] theorem putCrew_corrected (s : State) (u : Nat) (c : Crew) : (putCrew s u c).corrected = s.corrected := rfl
@[simp] theorem putCrew_spares (s : State) (u : Nat) (c : Crew) : (putCrew s u c).spares = s.spares := rfl
@[simp] theorem putCrew_codeErr (s : State) (u : Nat) (c : Crew) : (putCrew s u c).codeErr = s.codeErr := rfl
@[simp] theorem putCrew_retired (s : State) (u : Nat) (c : Crew) : (putCrew s u c).retired = s.retired := rfl
@[simp] theorem putCrew_rowWork (s : State) (u : Nat) (c : Crew) : (putCrew s u c).rowWork = s.rowWork := rfl
@[simp] theorem putCrew_dies (s : State) (u : Nat) (c : Crew) : (putCrew s u c).dies = s.dies := rfl
@[simp] theorem putCrew_cores (s : State) (u : Nat) (c : Crew) : (putCrew s u c).cores = s.cores := rfl
@[simp] theorem putCrew_teams (s : State) (u : Nat) (c : Crew) : (putCrew s u c).teams = s.teams := rfl
@[simp] theorem putCrew_saved (s : State) (u : Nat) (c : Crew) : (putCrew s u c).saved = s.saved := rfl
@[simp] theorem putCrew_launches (s : State) (u : Nat) (c : Crew) : (putCrew s u c).launches = s.launches := rfl
@[simp] theorem putCrew_contexts (s : State) (u : Nat) (c : Crew) : (putCrew s u c).contexts = s.contexts := rfl
@[simp] theorem putCrew_devs (s : State) (u : Nat) (c : Crew) : (putCrew s u c).devs = s.devs := rfl
@[simp] theorem putCrew_mode (s : State) (u : Nat) (c : Crew) : (putCrew s u c).mode = s.mode := rfl
@[simp] theorem putCrew_fatal (s : State) (u : Nat) (c : Crew) : (putCrew s u c).fatal = s.fatal := rfl
@[simp] theorem putCrew_stopped (s : State) (u : Nat) (c : Crew) : (putCrew s u c).stopped = s.stopped := rfl
@[simp] theorem putCrew_xtmo (s : State) (u : Nat) (c : Crew) : (putCrew s u c).xtmo = s.xtmo := rfl
@[simp] theorem putCrew_late (s : State) (u : Nat) (c : Crew) : (putCrew s u c).late = s.late := rfl
@[simp] theorem putCrew_cxlFailed (s : State) (u : Nat) (c : Crew) : (putCrew s u c).cxlFailed = s.cxlFailed := rfl
@[simp] theorem putCrew_hostCxl (s : State) (u : Nat) (c : Crew) : (putCrew s u c).hostCxl = s.hostCxl := rfl
@[simp] theorem putCrew_cxlWindow (s : State) (u : Nat) (c : Crew) : (putCrew s u c).cxlWindow = s.cxlWindow := rfl
@[simp] theorem putCrew_hostRead (s : State) (u : Nat) (c : Crew) : (putCrew s u c).hostRead = s.hostRead := rfl
@[simp] theorem putCrew_hostBad (s : State) (u : Nat) (c : Crew) : (putCrew s u c).hostBad = s.hostBad := rfl
@[simp] theorem putCrew_cap (s : State) (u : Nat) (c : Crew) : (putCrew s u c).cap = s.cap := rfl
@[simp] theorem putCrew_samples (s : State) (u : Nat) (c : Crew) : (putCrew s u c).samples = s.samples := rfl
@[simp] theorem putCrew_sampleAt (s : State) (u : Nat) (c : Crew) : (putCrew s u c).sampleAt = s.sampleAt := rfl
@[simp] theorem putCrew_stretch (s : State) (u : Nat) (c : Crew) : (putCrew s u c).stretch = s.stretch := rfl
@[simp] theorem putCrew_fwActive (s : State) (u : Nat) (c : Crew) : (putCrew s u c).fwActive = s.fwActive := rfl
@[simp] theorem putCrew_fwStaged (s : State) (u : Nat) (c : Crew) : (putCrew s u c).fwStaged = s.fwStaged := rfl
@[simp] theorem putCrew_fwUp (s : State) (u : Nat) (c : Crew) : (putCrew s u c).fwUp = s.fwUp := rfl
@[simp] theorem putCrew_recal (s : State) (u : Nat) (c : Crew) : (putCrew s u c).recal = s.recal := rfl
@[simp] theorem putCrew_fabrics (s : State) (u : Nat) (c : Crew) : (putCrew s u c).fabrics = s.fabrics := rfl
@[simp] theorem putCrew_sent (s : State) (u : Nat) (c : Crew) : (putCrew s u c).sent = s.sent := rfl
@[simp] theorem putCrew_alerts (s : State) (u : Nat) (c : Crew) : (putCrew s u c).alerts = s.alerts := rfl
@[simp] theorem putCrew_nextUid (s : State) (u : Nat) (c : Crew) : (putCrew s u c).nextUid = s.nextUid := rfl
@[simp] theorem putCrew_nextCmd (s : State) (u : Nat) (c : Crew) : (putCrew s u c).nextCmd = s.nextCmd := rfl
@[simp] theorem putCrew_nextStamp (s : State) (u : Nat) (c : Crew) : (putCrew s u c).nextStamp = s.nextStamp := rfl
@[simp] theorem putCrew_nextAge (s : State) (u : Nat) (c : Crew) : (putCrew s u c).nextAge = s.nextAge := rfl
@[simp] theorem putCrew_nextTag (s : State) (u : Nat) (c : Crew) : (putCrew s u c).nextTag = s.nextTag := rfl
@[simp] theorem putCrew_nextLaunch (s : State) (u : Nat) (c : Crew) : (putCrew s u c).nextLaunch = s.nextLaunch := rfl
@[simp] theorem putCrew_cur (s : State) (u : Nat) (c : Crew) : (putCrew s u c).cur = s.cur := rfl
@[simp] theorem putCrew_request (s : State) (u : Nat) (c : Crew) : (putCrew s u c).request = s.request := rfl
@[simp] theorem putCrew_message (s : State) (u : Nat) (c : Crew) : (putCrew s u c).message = s.message := rfl
@[simp] theorem putCrew_stalled (s : State) (u : Nat) (c : Crew) : (putCrew s u c).stalled = s.stalled := rfl
@[simp] theorem putCrew_agenda (s : State) (u : Nat) (c : Crew) : (putCrew s u c).agenda = s.agenda := rfl
@[simp] theorem putCrew_rr (s : State) (u : Nat) (c : Crew) : (putCrew s u c).rr = s.rr := rfl
@[simp] theorem putCrew_free (s : State) (u : Nat) (c : Crew) : (putCrew s u c).free = s.free := rfl
@[simp] theorem teamOf_putCrew (s : State) (u : Nat) (c : Crew) (v : Nat) : teamOf (putCrew s u c) v = teamOf s v := rfl
@[simp] theorem launchOf_putCrew (s : State) (u : Nat) (c : Crew) (v : Nat) : launchOf (putCrew s u c) v = launchOf s v := rfl
@[simp] theorem devOf_putCrew (s : State) (u : Nat) (c : Crew) (v : Nat) : devOf (putCrew s u c) v = devOf s v := rfl
@[simp] theorem dieOf_putCrew (s : State) (u : Nat) (c : Crew) (v : Nat) : dieOf (putCrew s u c) v = dieOf s v := rfl
@[simp] theorem fabricOf_putCrew (s : State) (u : Nat) (c : Crew) (v : Nat) : fabricOf (putCrew s u c) v = fabricOf s v := rfl
@[simp] theorem ctxOf_putCrew (s : State) (u : Nat) (c : Crew) (v : Nat) : ctxOf (putCrew s u c) v = ctxOf s v := rfl
@[simp] theorem coreAt_putCrew (s : State) (u : Nat) (c : Crew) (v w : Nat) : coreAt (putCrew s u c) v w = coreAt s v w := rfl

/-! ## modCrew -/

@[simp] theorem modCrew_reftime (s : State) (u : Nat) (f : Crew → Crew) : (modCrew s u f).reftime = s.reftime := rfl
@[simp] theorem modCrew_mem (s : State) (u : Nat) (f : Crew → Crew) : (modCrew s u f).mem = s.mem := rfl
@[simp] theorem modCrew_poison (s : State) (u : Nat) (f : Crew → Crew) : (modCrew s u f).poison = s.poison := rfl
@[simp] theorem modCrew_errors (s : State) (u : Nat) (f : Crew → Crew) : (modCrew s u f).errors = s.errors := rfl
@[simp] theorem modCrew_corrected (s : State) (u : Nat) (f : Crew → Crew) : (modCrew s u f).corrected = s.corrected := rfl
@[simp] theorem modCrew_spares (s : State) (u : Nat) (f : Crew → Crew) : (modCrew s u f).spares = s.spares := rfl
@[simp] theorem modCrew_codeErr (s : State) (u : Nat) (f : Crew → Crew) : (modCrew s u f).codeErr = s.codeErr := rfl
@[simp] theorem modCrew_retired (s : State) (u : Nat) (f : Crew → Crew) : (modCrew s u f).retired = s.retired := rfl
@[simp] theorem modCrew_rowWork (s : State) (u : Nat) (f : Crew → Crew) : (modCrew s u f).rowWork = s.rowWork := rfl
@[simp] theorem modCrew_dies (s : State) (u : Nat) (f : Crew → Crew) : (modCrew s u f).dies = s.dies := rfl
@[simp] theorem modCrew_cores (s : State) (u : Nat) (f : Crew → Crew) : (modCrew s u f).cores = s.cores := rfl
@[simp] theorem modCrew_teams (s : State) (u : Nat) (f : Crew → Crew) : (modCrew s u f).teams = s.teams := rfl
@[simp] theorem modCrew_saved (s : State) (u : Nat) (f : Crew → Crew) : (modCrew s u f).saved = s.saved := rfl
@[simp] theorem modCrew_launches (s : State) (u : Nat) (f : Crew → Crew) : (modCrew s u f).launches = s.launches := rfl
@[simp] theorem modCrew_contexts (s : State) (u : Nat) (f : Crew → Crew) : (modCrew s u f).contexts = s.contexts := rfl
@[simp] theorem modCrew_devs (s : State) (u : Nat) (f : Crew → Crew) : (modCrew s u f).devs = s.devs := rfl
@[simp] theorem modCrew_mode (s : State) (u : Nat) (f : Crew → Crew) : (modCrew s u f).mode = s.mode := rfl
@[simp] theorem modCrew_fatal (s : State) (u : Nat) (f : Crew → Crew) : (modCrew s u f).fatal = s.fatal := rfl
@[simp] theorem modCrew_stopped (s : State) (u : Nat) (f : Crew → Crew) : (modCrew s u f).stopped = s.stopped := rfl
@[simp] theorem modCrew_xtmo (s : State) (u : Nat) (f : Crew → Crew) : (modCrew s u f).xtmo = s.xtmo := rfl
@[simp] theorem modCrew_late (s : State) (u : Nat) (f : Crew → Crew) : (modCrew s u f).late = s.late := rfl
@[simp] theorem modCrew_cxlFailed (s : State) (u : Nat) (f : Crew → Crew) : (modCrew s u f).cxlFailed = s.cxlFailed := rfl
@[simp] theorem modCrew_hostCxl (s : State) (u : Nat) (f : Crew → Crew) : (modCrew s u f).hostCxl = s.hostCxl := rfl
@[simp] theorem modCrew_cxlWindow (s : State) (u : Nat) (f : Crew → Crew) : (modCrew s u f).cxlWindow = s.cxlWindow := rfl
@[simp] theorem modCrew_hostRead (s : State) (u : Nat) (f : Crew → Crew) : (modCrew s u f).hostRead = s.hostRead := rfl
@[simp] theorem modCrew_hostBad (s : State) (u : Nat) (f : Crew → Crew) : (modCrew s u f).hostBad = s.hostBad := rfl
@[simp] theorem modCrew_cap (s : State) (u : Nat) (f : Crew → Crew) : (modCrew s u f).cap = s.cap := rfl
@[simp] theorem modCrew_samples (s : State) (u : Nat) (f : Crew → Crew) : (modCrew s u f).samples = s.samples := rfl
@[simp] theorem modCrew_sampleAt (s : State) (u : Nat) (f : Crew → Crew) : (modCrew s u f).sampleAt = s.sampleAt := rfl
@[simp] theorem modCrew_stretch (s : State) (u : Nat) (f : Crew → Crew) : (modCrew s u f).stretch = s.stretch := rfl
@[simp] theorem modCrew_fwActive (s : State) (u : Nat) (f : Crew → Crew) : (modCrew s u f).fwActive = s.fwActive := rfl
@[simp] theorem modCrew_fwStaged (s : State) (u : Nat) (f : Crew → Crew) : (modCrew s u f).fwStaged = s.fwStaged := rfl
@[simp] theorem modCrew_fwUp (s : State) (u : Nat) (f : Crew → Crew) : (modCrew s u f).fwUp = s.fwUp := rfl
@[simp] theorem modCrew_recal (s : State) (u : Nat) (f : Crew → Crew) : (modCrew s u f).recal = s.recal := rfl
@[simp] theorem modCrew_fabrics (s : State) (u : Nat) (f : Crew → Crew) : (modCrew s u f).fabrics = s.fabrics := rfl
@[simp] theorem modCrew_sent (s : State) (u : Nat) (f : Crew → Crew) : (modCrew s u f).sent = s.sent := rfl
@[simp] theorem modCrew_alerts (s : State) (u : Nat) (f : Crew → Crew) : (modCrew s u f).alerts = s.alerts := rfl
@[simp] theorem modCrew_nextUid (s : State) (u : Nat) (f : Crew → Crew) : (modCrew s u f).nextUid = s.nextUid := rfl
@[simp] theorem modCrew_nextCmd (s : State) (u : Nat) (f : Crew → Crew) : (modCrew s u f).nextCmd = s.nextCmd := rfl
@[simp] theorem modCrew_nextStamp (s : State) (u : Nat) (f : Crew → Crew) : (modCrew s u f).nextStamp = s.nextStamp := rfl
@[simp] theorem modCrew_nextAge (s : State) (u : Nat) (f : Crew → Crew) : (modCrew s u f).nextAge = s.nextAge := rfl
@[simp] theorem modCrew_nextTag (s : State) (u : Nat) (f : Crew → Crew) : (modCrew s u f).nextTag = s.nextTag := rfl
@[simp] theorem modCrew_nextLaunch (s : State) (u : Nat) (f : Crew → Crew) : (modCrew s u f).nextLaunch = s.nextLaunch := rfl
@[simp] theorem modCrew_cur (s : State) (u : Nat) (f : Crew → Crew) : (modCrew s u f).cur = s.cur := rfl
@[simp] theorem modCrew_request (s : State) (u : Nat) (f : Crew → Crew) : (modCrew s u f).request = s.request := rfl
@[simp] theorem modCrew_message (s : State) (u : Nat) (f : Crew → Crew) : (modCrew s u f).message = s.message := rfl
@[simp] theorem modCrew_stalled (s : State) (u : Nat) (f : Crew → Crew) : (modCrew s u f).stalled = s.stalled := rfl
@[simp] theorem modCrew_agenda (s : State) (u : Nat) (f : Crew → Crew) : (modCrew s u f).agenda = s.agenda := rfl
@[simp] theorem modCrew_rr (s : State) (u : Nat) (f : Crew → Crew) : (modCrew s u f).rr = s.rr := rfl
@[simp] theorem modCrew_free (s : State) (u : Nat) (f : Crew → Crew) : (modCrew s u f).free = s.free := rfl
@[simp] theorem teamOf_modCrew (s : State) (u : Nat) (f : Crew → Crew) (v : Nat) : teamOf (modCrew s u f) v = teamOf s v := rfl
@[simp] theorem launchOf_modCrew (s : State) (u : Nat) (f : Crew → Crew) (v : Nat) : launchOf (modCrew s u f) v = launchOf s v := rfl
@[simp] theorem devOf_modCrew (s : State) (u : Nat) (f : Crew → Crew) (v : Nat) : devOf (modCrew s u f) v = devOf s v := rfl
@[simp] theorem dieOf_modCrew (s : State) (u : Nat) (f : Crew → Crew) (v : Nat) : dieOf (modCrew s u f) v = dieOf s v := rfl
@[simp] theorem fabricOf_modCrew (s : State) (u : Nat) (f : Crew → Crew) (v : Nat) : fabricOf (modCrew s u f) v = fabricOf s v := rfl
@[simp] theorem ctxOf_modCrew (s : State) (u : Nat) (f : Crew → Crew) (v : Nat) : ctxOf (modCrew s u f) v = ctxOf s v := rfl
@[simp] theorem coreAt_modCrew (s : State) (u : Nat) (f : Crew → Crew) (v w : Nat) : coreAt (modCrew s u f) v w = coreAt s v w := rfl

/-! ## putTeam -/

@[simp] theorem putTeam_reftime (s : State) (n : Nat) (t : Team) : (putTeam s n t).reftime = s.reftime := rfl
@[simp] theorem putTeam_mem (s : State) (n : Nat) (t : Team) : (putTeam s n t).mem = s.mem := rfl
@[simp] theorem putTeam_poison (s : State) (n : Nat) (t : Team) : (putTeam s n t).poison = s.poison := rfl
@[simp] theorem putTeam_errors (s : State) (n : Nat) (t : Team) : (putTeam s n t).errors = s.errors := rfl
@[simp] theorem putTeam_corrected (s : State) (n : Nat) (t : Team) : (putTeam s n t).corrected = s.corrected := rfl
@[simp] theorem putTeam_spares (s : State) (n : Nat) (t : Team) : (putTeam s n t).spares = s.spares := rfl
@[simp] theorem putTeam_codeErr (s : State) (n : Nat) (t : Team) : (putTeam s n t).codeErr = s.codeErr := rfl
@[simp] theorem putTeam_retired (s : State) (n : Nat) (t : Team) : (putTeam s n t).retired = s.retired := rfl
@[simp] theorem putTeam_rowWork (s : State) (n : Nat) (t : Team) : (putTeam s n t).rowWork = s.rowWork := rfl
@[simp] theorem putTeam_dies (s : State) (n : Nat) (t : Team) : (putTeam s n t).dies = s.dies := rfl
@[simp] theorem putTeam_cores (s : State) (n : Nat) (t : Team) : (putTeam s n t).cores = s.cores := rfl
@[simp] theorem putTeam_crews (s : State) (n : Nat) (t : Team) : (putTeam s n t).crews = s.crews := rfl
@[simp] theorem putTeam_saved (s : State) (n : Nat) (t : Team) : (putTeam s n t).saved = s.saved := rfl
@[simp] theorem putTeam_launches (s : State) (n : Nat) (t : Team) : (putTeam s n t).launches = s.launches := rfl
@[simp] theorem putTeam_contexts (s : State) (n : Nat) (t : Team) : (putTeam s n t).contexts = s.contexts := rfl
@[simp] theorem putTeam_devs (s : State) (n : Nat) (t : Team) : (putTeam s n t).devs = s.devs := rfl
@[simp] theorem putTeam_mode (s : State) (n : Nat) (t : Team) : (putTeam s n t).mode = s.mode := rfl
@[simp] theorem putTeam_fatal (s : State) (n : Nat) (t : Team) : (putTeam s n t).fatal = s.fatal := rfl
@[simp] theorem putTeam_stopped (s : State) (n : Nat) (t : Team) : (putTeam s n t).stopped = s.stopped := rfl
@[simp] theorem putTeam_xtmo (s : State) (n : Nat) (t : Team) : (putTeam s n t).xtmo = s.xtmo := rfl
@[simp] theorem putTeam_late (s : State) (n : Nat) (t : Team) : (putTeam s n t).late = s.late := rfl
@[simp] theorem putTeam_cxlFailed (s : State) (n : Nat) (t : Team) : (putTeam s n t).cxlFailed = s.cxlFailed := rfl
@[simp] theorem putTeam_hostCxl (s : State) (n : Nat) (t : Team) : (putTeam s n t).hostCxl = s.hostCxl := rfl
@[simp] theorem putTeam_cxlWindow (s : State) (n : Nat) (t : Team) : (putTeam s n t).cxlWindow = s.cxlWindow := rfl
@[simp] theorem putTeam_hostRead (s : State) (n : Nat) (t : Team) : (putTeam s n t).hostRead = s.hostRead := rfl
@[simp] theorem putTeam_hostBad (s : State) (n : Nat) (t : Team) : (putTeam s n t).hostBad = s.hostBad := rfl
@[simp] theorem putTeam_cap (s : State) (n : Nat) (t : Team) : (putTeam s n t).cap = s.cap := rfl
@[simp] theorem putTeam_samples (s : State) (n : Nat) (t : Team) : (putTeam s n t).samples = s.samples := rfl
@[simp] theorem putTeam_sampleAt (s : State) (n : Nat) (t : Team) : (putTeam s n t).sampleAt = s.sampleAt := rfl
@[simp] theorem putTeam_stretch (s : State) (n : Nat) (t : Team) : (putTeam s n t).stretch = s.stretch := rfl
@[simp] theorem putTeam_fwActive (s : State) (n : Nat) (t : Team) : (putTeam s n t).fwActive = s.fwActive := rfl
@[simp] theorem putTeam_fwStaged (s : State) (n : Nat) (t : Team) : (putTeam s n t).fwStaged = s.fwStaged := rfl
@[simp] theorem putTeam_fwUp (s : State) (n : Nat) (t : Team) : (putTeam s n t).fwUp = s.fwUp := rfl
@[simp] theorem putTeam_recal (s : State) (n : Nat) (t : Team) : (putTeam s n t).recal = s.recal := rfl
@[simp] theorem putTeam_fabrics (s : State) (n : Nat) (t : Team) : (putTeam s n t).fabrics = s.fabrics := rfl
@[simp] theorem putTeam_sent (s : State) (n : Nat) (t : Team) : (putTeam s n t).sent = s.sent := rfl
@[simp] theorem putTeam_alerts (s : State) (n : Nat) (t : Team) : (putTeam s n t).alerts = s.alerts := rfl
@[simp] theorem putTeam_nextUid (s : State) (n : Nat) (t : Team) : (putTeam s n t).nextUid = s.nextUid := rfl
@[simp] theorem putTeam_nextCmd (s : State) (n : Nat) (t : Team) : (putTeam s n t).nextCmd = s.nextCmd := rfl
@[simp] theorem putTeam_nextStamp (s : State) (n : Nat) (t : Team) : (putTeam s n t).nextStamp = s.nextStamp := rfl
@[simp] theorem putTeam_nextAge (s : State) (n : Nat) (t : Team) : (putTeam s n t).nextAge = s.nextAge := rfl
@[simp] theorem putTeam_nextTag (s : State) (n : Nat) (t : Team) : (putTeam s n t).nextTag = s.nextTag := rfl
@[simp] theorem putTeam_nextLaunch (s : State) (n : Nat) (t : Team) : (putTeam s n t).nextLaunch = s.nextLaunch := rfl
@[simp] theorem putTeam_cur (s : State) (n : Nat) (t : Team) : (putTeam s n t).cur = s.cur := rfl
@[simp] theorem putTeam_request (s : State) (n : Nat) (t : Team) : (putTeam s n t).request = s.request := rfl
@[simp] theorem putTeam_message (s : State) (n : Nat) (t : Team) : (putTeam s n t).message = s.message := rfl
@[simp] theorem putTeam_stalled (s : State) (n : Nat) (t : Team) : (putTeam s n t).stalled = s.stalled := rfl
@[simp] theorem putTeam_agenda (s : State) (n : Nat) (t : Team) : (putTeam s n t).agenda = s.agenda := rfl
@[simp] theorem putTeam_rr (s : State) (n : Nat) (t : Team) : (putTeam s n t).rr = s.rr := rfl
@[simp] theorem putTeam_free (s : State) (n : Nat) (t : Team) : (putTeam s n t).free = s.free := rfl
@[simp] theorem crewOf_putTeam (s : State) (n : Nat) (t : Team) (v : Nat) : crewOf (putTeam s n t) v = crewOf s v := rfl
@[simp] theorem launchOf_putTeam (s : State) (n : Nat) (t : Team) (v : Nat) : launchOf (putTeam s n t) v = launchOf s v := rfl
@[simp] theorem devOf_putTeam (s : State) (n : Nat) (t : Team) (v : Nat) : devOf (putTeam s n t) v = devOf s v := rfl
@[simp] theorem dieOf_putTeam (s : State) (n : Nat) (t : Team) (v : Nat) : dieOf (putTeam s n t) v = dieOf s v := rfl
@[simp] theorem fabricOf_putTeam (s : State) (n : Nat) (t : Team) (v : Nat) : fabricOf (putTeam s n t) v = fabricOf s v := rfl
@[simp] theorem ctxOf_putTeam (s : State) (n : Nat) (t : Team) (v : Nat) : ctxOf (putTeam s n t) v = ctxOf s v := rfl
@[simp] theorem coreAt_putTeam (s : State) (n : Nat) (t : Team) (v w : Nat) : coreAt (putTeam s n t) v w = coreAt s v w := rfl

/-! ## modTeam -/

@[simp] theorem modTeam_reftime (s : State) (n : Nat) (f : Team → Team) : (modTeam s n f).reftime = s.reftime := rfl
@[simp] theorem modTeam_mem (s : State) (n : Nat) (f : Team → Team) : (modTeam s n f).mem = s.mem := rfl
@[simp] theorem modTeam_poison (s : State) (n : Nat) (f : Team → Team) : (modTeam s n f).poison = s.poison := rfl
@[simp] theorem modTeam_errors (s : State) (n : Nat) (f : Team → Team) : (modTeam s n f).errors = s.errors := rfl
@[simp] theorem modTeam_corrected (s : State) (n : Nat) (f : Team → Team) : (modTeam s n f).corrected = s.corrected := rfl
@[simp] theorem modTeam_spares (s : State) (n : Nat) (f : Team → Team) : (modTeam s n f).spares = s.spares := rfl
@[simp] theorem modTeam_codeErr (s : State) (n : Nat) (f : Team → Team) : (modTeam s n f).codeErr = s.codeErr := rfl
@[simp] theorem modTeam_retired (s : State) (n : Nat) (f : Team → Team) : (modTeam s n f).retired = s.retired := rfl
@[simp] theorem modTeam_rowWork (s : State) (n : Nat) (f : Team → Team) : (modTeam s n f).rowWork = s.rowWork := rfl
@[simp] theorem modTeam_dies (s : State) (n : Nat) (f : Team → Team) : (modTeam s n f).dies = s.dies := rfl
@[simp] theorem modTeam_cores (s : State) (n : Nat) (f : Team → Team) : (modTeam s n f).cores = s.cores := rfl
@[simp] theorem modTeam_crews (s : State) (n : Nat) (f : Team → Team) : (modTeam s n f).crews = s.crews := rfl
@[simp] theorem modTeam_saved (s : State) (n : Nat) (f : Team → Team) : (modTeam s n f).saved = s.saved := rfl
@[simp] theorem modTeam_launches (s : State) (n : Nat) (f : Team → Team) : (modTeam s n f).launches = s.launches := rfl
@[simp] theorem modTeam_contexts (s : State) (n : Nat) (f : Team → Team) : (modTeam s n f).contexts = s.contexts := rfl
@[simp] theorem modTeam_devs (s : State) (n : Nat) (f : Team → Team) : (modTeam s n f).devs = s.devs := rfl
@[simp] theorem modTeam_mode (s : State) (n : Nat) (f : Team → Team) : (modTeam s n f).mode = s.mode := rfl
@[simp] theorem modTeam_fatal (s : State) (n : Nat) (f : Team → Team) : (modTeam s n f).fatal = s.fatal := rfl
@[simp] theorem modTeam_stopped (s : State) (n : Nat) (f : Team → Team) : (modTeam s n f).stopped = s.stopped := rfl
@[simp] theorem modTeam_xtmo (s : State) (n : Nat) (f : Team → Team) : (modTeam s n f).xtmo = s.xtmo := rfl
@[simp] theorem modTeam_late (s : State) (n : Nat) (f : Team → Team) : (modTeam s n f).late = s.late := rfl
@[simp] theorem modTeam_cxlFailed (s : State) (n : Nat) (f : Team → Team) : (modTeam s n f).cxlFailed = s.cxlFailed := rfl
@[simp] theorem modTeam_hostCxl (s : State) (n : Nat) (f : Team → Team) : (modTeam s n f).hostCxl = s.hostCxl := rfl
@[simp] theorem modTeam_cxlWindow (s : State) (n : Nat) (f : Team → Team) : (modTeam s n f).cxlWindow = s.cxlWindow := rfl
@[simp] theorem modTeam_hostRead (s : State) (n : Nat) (f : Team → Team) : (modTeam s n f).hostRead = s.hostRead := rfl
@[simp] theorem modTeam_hostBad (s : State) (n : Nat) (f : Team → Team) : (modTeam s n f).hostBad = s.hostBad := rfl
@[simp] theorem modTeam_cap (s : State) (n : Nat) (f : Team → Team) : (modTeam s n f).cap = s.cap := rfl
@[simp] theorem modTeam_samples (s : State) (n : Nat) (f : Team → Team) : (modTeam s n f).samples = s.samples := rfl
@[simp] theorem modTeam_sampleAt (s : State) (n : Nat) (f : Team → Team) : (modTeam s n f).sampleAt = s.sampleAt := rfl
@[simp] theorem modTeam_stretch (s : State) (n : Nat) (f : Team → Team) : (modTeam s n f).stretch = s.stretch := rfl
@[simp] theorem modTeam_fwActive (s : State) (n : Nat) (f : Team → Team) : (modTeam s n f).fwActive = s.fwActive := rfl
@[simp] theorem modTeam_fwStaged (s : State) (n : Nat) (f : Team → Team) : (modTeam s n f).fwStaged = s.fwStaged := rfl
@[simp] theorem modTeam_fwUp (s : State) (n : Nat) (f : Team → Team) : (modTeam s n f).fwUp = s.fwUp := rfl
@[simp] theorem modTeam_recal (s : State) (n : Nat) (f : Team → Team) : (modTeam s n f).recal = s.recal := rfl
@[simp] theorem modTeam_fabrics (s : State) (n : Nat) (f : Team → Team) : (modTeam s n f).fabrics = s.fabrics := rfl
@[simp] theorem modTeam_sent (s : State) (n : Nat) (f : Team → Team) : (modTeam s n f).sent = s.sent := rfl
@[simp] theorem modTeam_alerts (s : State) (n : Nat) (f : Team → Team) : (modTeam s n f).alerts = s.alerts := rfl
@[simp] theorem modTeam_nextUid (s : State) (n : Nat) (f : Team → Team) : (modTeam s n f).nextUid = s.nextUid := rfl
@[simp] theorem modTeam_nextCmd (s : State) (n : Nat) (f : Team → Team) : (modTeam s n f).nextCmd = s.nextCmd := rfl
@[simp] theorem modTeam_nextStamp (s : State) (n : Nat) (f : Team → Team) : (modTeam s n f).nextStamp = s.nextStamp := rfl
@[simp] theorem modTeam_nextAge (s : State) (n : Nat) (f : Team → Team) : (modTeam s n f).nextAge = s.nextAge := rfl
@[simp] theorem modTeam_nextTag (s : State) (n : Nat) (f : Team → Team) : (modTeam s n f).nextTag = s.nextTag := rfl
@[simp] theorem modTeam_nextLaunch (s : State) (n : Nat) (f : Team → Team) : (modTeam s n f).nextLaunch = s.nextLaunch := rfl
@[simp] theorem modTeam_cur (s : State) (n : Nat) (f : Team → Team) : (modTeam s n f).cur = s.cur := rfl
@[simp] theorem modTeam_request (s : State) (n : Nat) (f : Team → Team) : (modTeam s n f).request = s.request := rfl
@[simp] theorem modTeam_message (s : State) (n : Nat) (f : Team → Team) : (modTeam s n f).message = s.message := rfl
@[simp] theorem modTeam_stalled (s : State) (n : Nat) (f : Team → Team) : (modTeam s n f).stalled = s.stalled := rfl
@[simp] theorem modTeam_agenda (s : State) (n : Nat) (f : Team → Team) : (modTeam s n f).agenda = s.agenda := rfl
@[simp] theorem modTeam_rr (s : State) (n : Nat) (f : Team → Team) : (modTeam s n f).rr = s.rr := rfl
@[simp] theorem modTeam_free (s : State) (n : Nat) (f : Team → Team) : (modTeam s n f).free = s.free := rfl
@[simp] theorem crewOf_modTeam (s : State) (n : Nat) (f : Team → Team) (v : Nat) : crewOf (modTeam s n f) v = crewOf s v := rfl
@[simp] theorem launchOf_modTeam (s : State) (n : Nat) (f : Team → Team) (v : Nat) : launchOf (modTeam s n f) v = launchOf s v := rfl
@[simp] theorem devOf_modTeam (s : State) (n : Nat) (f : Team → Team) (v : Nat) : devOf (modTeam s n f) v = devOf s v := rfl
@[simp] theorem dieOf_modTeam (s : State) (n : Nat) (f : Team → Team) (v : Nat) : dieOf (modTeam s n f) v = dieOf s v := rfl
@[simp] theorem fabricOf_modTeam (s : State) (n : Nat) (f : Team → Team) (v : Nat) : fabricOf (modTeam s n f) v = fabricOf s v := rfl
@[simp] theorem ctxOf_modTeam (s : State) (n : Nat) (f : Team → Team) (v : Nat) : ctxOf (modTeam s n f) v = ctxOf s v := rfl
@[simp] theorem coreAt_modTeam (s : State) (n : Nat) (f : Team → Team) (v w : Nat) : coreAt (modTeam s n f) v w = coreAt s v w := rfl

/-! ## putCore -/

@[simp] theorem putCore_reftime (s : State) (d n : Nat) (x : CoreSt) : (putCore s d n x).reftime = s.reftime := rfl
@[simp] theorem putCore_mem (s : State) (d n : Nat) (x : CoreSt) : (putCore s d n x).mem = s.mem := rfl
@[simp] theorem putCore_poison (s : State) (d n : Nat) (x : CoreSt) : (putCore s d n x).poison = s.poison := rfl
@[simp] theorem putCore_errors (s : State) (d n : Nat) (x : CoreSt) : (putCore s d n x).errors = s.errors := rfl
@[simp] theorem putCore_corrected (s : State) (d n : Nat) (x : CoreSt) : (putCore s d n x).corrected = s.corrected := rfl
@[simp] theorem putCore_spares (s : State) (d n : Nat) (x : CoreSt) : (putCore s d n x).spares = s.spares := rfl
@[simp] theorem putCore_codeErr (s : State) (d n : Nat) (x : CoreSt) : (putCore s d n x).codeErr = s.codeErr := rfl
@[simp] theorem putCore_retired (s : State) (d n : Nat) (x : CoreSt) : (putCore s d n x).retired = s.retired := rfl
@[simp] theorem putCore_rowWork (s : State) (d n : Nat) (x : CoreSt) : (putCore s d n x).rowWork = s.rowWork := rfl
@[simp] theorem putCore_dies (s : State) (d n : Nat) (x : CoreSt) : (putCore s d n x).dies = s.dies := rfl
@[simp] theorem putCore_crews (s : State) (d n : Nat) (x : CoreSt) : (putCore s d n x).crews = s.crews := rfl
@[simp] theorem putCore_teams (s : State) (d n : Nat) (x : CoreSt) : (putCore s d n x).teams = s.teams := rfl
@[simp] theorem putCore_saved (s : State) (d n : Nat) (x : CoreSt) : (putCore s d n x).saved = s.saved := rfl
@[simp] theorem putCore_launches (s : State) (d n : Nat) (x : CoreSt) : (putCore s d n x).launches = s.launches := rfl
@[simp] theorem putCore_contexts (s : State) (d n : Nat) (x : CoreSt) : (putCore s d n x).contexts = s.contexts := rfl
@[simp] theorem putCore_devs (s : State) (d n : Nat) (x : CoreSt) : (putCore s d n x).devs = s.devs := rfl
@[simp] theorem putCore_mode (s : State) (d n : Nat) (x : CoreSt) : (putCore s d n x).mode = s.mode := rfl
@[simp] theorem putCore_fatal (s : State) (d n : Nat) (x : CoreSt) : (putCore s d n x).fatal = s.fatal := rfl
@[simp] theorem putCore_stopped (s : State) (d n : Nat) (x : CoreSt) : (putCore s d n x).stopped = s.stopped := rfl
@[simp] theorem putCore_xtmo (s : State) (d n : Nat) (x : CoreSt) : (putCore s d n x).xtmo = s.xtmo := rfl
@[simp] theorem putCore_late (s : State) (d n : Nat) (x : CoreSt) : (putCore s d n x).late = s.late := rfl
@[simp] theorem putCore_cxlFailed (s : State) (d n : Nat) (x : CoreSt) : (putCore s d n x).cxlFailed = s.cxlFailed := rfl
@[simp] theorem putCore_hostCxl (s : State) (d n : Nat) (x : CoreSt) : (putCore s d n x).hostCxl = s.hostCxl := rfl
@[simp] theorem putCore_cxlWindow (s : State) (d n : Nat) (x : CoreSt) : (putCore s d n x).cxlWindow = s.cxlWindow := rfl
@[simp] theorem putCore_hostRead (s : State) (d n : Nat) (x : CoreSt) : (putCore s d n x).hostRead = s.hostRead := rfl
@[simp] theorem putCore_hostBad (s : State) (d n : Nat) (x : CoreSt) : (putCore s d n x).hostBad = s.hostBad := rfl
@[simp] theorem putCore_cap (s : State) (d n : Nat) (x : CoreSt) : (putCore s d n x).cap = s.cap := rfl
@[simp] theorem putCore_samples (s : State) (d n : Nat) (x : CoreSt) : (putCore s d n x).samples = s.samples := rfl
@[simp] theorem putCore_sampleAt (s : State) (d n : Nat) (x : CoreSt) : (putCore s d n x).sampleAt = s.sampleAt := rfl
@[simp] theorem putCore_stretch (s : State) (d n : Nat) (x : CoreSt) : (putCore s d n x).stretch = s.stretch := rfl
@[simp] theorem putCore_fwActive (s : State) (d n : Nat) (x : CoreSt) : (putCore s d n x).fwActive = s.fwActive := rfl
@[simp] theorem putCore_fwStaged (s : State) (d n : Nat) (x : CoreSt) : (putCore s d n x).fwStaged = s.fwStaged := rfl
@[simp] theorem putCore_fwUp (s : State) (d n : Nat) (x : CoreSt) : (putCore s d n x).fwUp = s.fwUp := rfl
@[simp] theorem putCore_recal (s : State) (d n : Nat) (x : CoreSt) : (putCore s d n x).recal = s.recal := rfl
@[simp] theorem putCore_fabrics (s : State) (d n : Nat) (x : CoreSt) : (putCore s d n x).fabrics = s.fabrics := rfl
@[simp] theorem putCore_sent (s : State) (d n : Nat) (x : CoreSt) : (putCore s d n x).sent = s.sent := rfl
@[simp] theorem putCore_alerts (s : State) (d n : Nat) (x : CoreSt) : (putCore s d n x).alerts = s.alerts := rfl
@[simp] theorem putCore_nextUid (s : State) (d n : Nat) (x : CoreSt) : (putCore s d n x).nextUid = s.nextUid := rfl
@[simp] theorem putCore_nextCmd (s : State) (d n : Nat) (x : CoreSt) : (putCore s d n x).nextCmd = s.nextCmd := rfl
@[simp] theorem putCore_nextStamp (s : State) (d n : Nat) (x : CoreSt) : (putCore s d n x).nextStamp = s.nextStamp := rfl
@[simp] theorem putCore_nextAge (s : State) (d n : Nat) (x : CoreSt) : (putCore s d n x).nextAge = s.nextAge := rfl
@[simp] theorem putCore_nextTag (s : State) (d n : Nat) (x : CoreSt) : (putCore s d n x).nextTag = s.nextTag := rfl
@[simp] theorem putCore_nextLaunch (s : State) (d n : Nat) (x : CoreSt) : (putCore s d n x).nextLaunch = s.nextLaunch := rfl
@[simp] theorem putCore_cur (s : State) (d n : Nat) (x : CoreSt) : (putCore s d n x).cur = s.cur := rfl
@[simp] theorem putCore_request (s : State) (d n : Nat) (x : CoreSt) : (putCore s d n x).request = s.request := rfl
@[simp] theorem putCore_message (s : State) (d n : Nat) (x : CoreSt) : (putCore s d n x).message = s.message := rfl
@[simp] theorem putCore_stalled (s : State) (d n : Nat) (x : CoreSt) : (putCore s d n x).stalled = s.stalled := rfl
@[simp] theorem putCore_agenda (s : State) (d n : Nat) (x : CoreSt) : (putCore s d n x).agenda = s.agenda := rfl
@[simp] theorem putCore_rr (s : State) (d n : Nat) (x : CoreSt) : (putCore s d n x).rr = s.rr := rfl
@[simp] theorem putCore_free (s : State) (d n : Nat) (x : CoreSt) : (putCore s d n x).free = s.free := rfl
@[simp] theorem crewOf_putCore (s : State) (d n : Nat) (x : CoreSt) (v : Nat) : crewOf (putCore s d n x) v = crewOf s v := rfl
@[simp] theorem teamOf_putCore (s : State) (d n : Nat) (x : CoreSt) (v : Nat) : teamOf (putCore s d n x) v = teamOf s v := rfl
@[simp] theorem launchOf_putCore (s : State) (d n : Nat) (x : CoreSt) (v : Nat) : launchOf (putCore s d n x) v = launchOf s v := rfl
@[simp] theorem devOf_putCore (s : State) (d n : Nat) (x : CoreSt) (v : Nat) : devOf (putCore s d n x) v = devOf s v := rfl
@[simp] theorem dieOf_putCore (s : State) (d n : Nat) (x : CoreSt) (v : Nat) : dieOf (putCore s d n x) v = dieOf s v := rfl
@[simp] theorem fabricOf_putCore (s : State) (d n : Nat) (x : CoreSt) (v : Nat) : fabricOf (putCore s d n x) v = fabricOf s v := rfl
@[simp] theorem ctxOf_putCore (s : State) (d n : Nat) (x : CoreSt) (v : Nat) : ctxOf (putCore s d n x) v = ctxOf s v := rfl

/-! ## modCore -/

@[simp] theorem modCore_reftime (s : State) (d n : Nat) (f : CoreSt → CoreSt) : (modCore s d n f).reftime = s.reftime := rfl
@[simp] theorem modCore_mem (s : State) (d n : Nat) (f : CoreSt → CoreSt) : (modCore s d n f).mem = s.mem := rfl
@[simp] theorem modCore_poison (s : State) (d n : Nat) (f : CoreSt → CoreSt) : (modCore s d n f).poison = s.poison := rfl
@[simp] theorem modCore_errors (s : State) (d n : Nat) (f : CoreSt → CoreSt) : (modCore s d n f).errors = s.errors := rfl
@[simp] theorem modCore_corrected (s : State) (d n : Nat) (f : CoreSt → CoreSt) : (modCore s d n f).corrected = s.corrected := rfl
@[simp] theorem modCore_spares (s : State) (d n : Nat) (f : CoreSt → CoreSt) : (modCore s d n f).spares = s.spares := rfl
@[simp] theorem modCore_codeErr (s : State) (d n : Nat) (f : CoreSt → CoreSt) : (modCore s d n f).codeErr = s.codeErr := rfl
@[simp] theorem modCore_retired (s : State) (d n : Nat) (f : CoreSt → CoreSt) : (modCore s d n f).retired = s.retired := rfl
@[simp] theorem modCore_rowWork (s : State) (d n : Nat) (f : CoreSt → CoreSt) : (modCore s d n f).rowWork = s.rowWork := rfl
@[simp] theorem modCore_dies (s : State) (d n : Nat) (f : CoreSt → CoreSt) : (modCore s d n f).dies = s.dies := rfl
@[simp] theorem modCore_crews (s : State) (d n : Nat) (f : CoreSt → CoreSt) : (modCore s d n f).crews = s.crews := rfl
@[simp] theorem modCore_teams (s : State) (d n : Nat) (f : CoreSt → CoreSt) : (modCore s d n f).teams = s.teams := rfl
@[simp] theorem modCore_saved (s : State) (d n : Nat) (f : CoreSt → CoreSt) : (modCore s d n f).saved = s.saved := rfl
@[simp] theorem modCore_launches (s : State) (d n : Nat) (f : CoreSt → CoreSt) : (modCore s d n f).launches = s.launches := rfl
@[simp] theorem modCore_contexts (s : State) (d n : Nat) (f : CoreSt → CoreSt) : (modCore s d n f).contexts = s.contexts := rfl
@[simp] theorem modCore_devs (s : State) (d n : Nat) (f : CoreSt → CoreSt) : (modCore s d n f).devs = s.devs := rfl
@[simp] theorem modCore_mode (s : State) (d n : Nat) (f : CoreSt → CoreSt) : (modCore s d n f).mode = s.mode := rfl
@[simp] theorem modCore_fatal (s : State) (d n : Nat) (f : CoreSt → CoreSt) : (modCore s d n f).fatal = s.fatal := rfl
@[simp] theorem modCore_stopped (s : State) (d n : Nat) (f : CoreSt → CoreSt) : (modCore s d n f).stopped = s.stopped := rfl
@[simp] theorem modCore_xtmo (s : State) (d n : Nat) (f : CoreSt → CoreSt) : (modCore s d n f).xtmo = s.xtmo := rfl
@[simp] theorem modCore_late (s : State) (d n : Nat) (f : CoreSt → CoreSt) : (modCore s d n f).late = s.late := rfl
@[simp] theorem modCore_cxlFailed (s : State) (d n : Nat) (f : CoreSt → CoreSt) : (modCore s d n f).cxlFailed = s.cxlFailed := rfl
@[simp] theorem modCore_hostCxl (s : State) (d n : Nat) (f : CoreSt → CoreSt) : (modCore s d n f).hostCxl = s.hostCxl := rfl
@[simp] theorem modCore_cxlWindow (s : State) (d n : Nat) (f : CoreSt → CoreSt) : (modCore s d n f).cxlWindow = s.cxlWindow := rfl
@[simp] theorem modCore_hostRead (s : State) (d n : Nat) (f : CoreSt → CoreSt) : (modCore s d n f).hostRead = s.hostRead := rfl
@[simp] theorem modCore_hostBad (s : State) (d n : Nat) (f : CoreSt → CoreSt) : (modCore s d n f).hostBad = s.hostBad := rfl
@[simp] theorem modCore_cap (s : State) (d n : Nat) (f : CoreSt → CoreSt) : (modCore s d n f).cap = s.cap := rfl
@[simp] theorem modCore_samples (s : State) (d n : Nat) (f : CoreSt → CoreSt) : (modCore s d n f).samples = s.samples := rfl
@[simp] theorem modCore_sampleAt (s : State) (d n : Nat) (f : CoreSt → CoreSt) : (modCore s d n f).sampleAt = s.sampleAt := rfl
@[simp] theorem modCore_stretch (s : State) (d n : Nat) (f : CoreSt → CoreSt) : (modCore s d n f).stretch = s.stretch := rfl
@[simp] theorem modCore_fwActive (s : State) (d n : Nat) (f : CoreSt → CoreSt) : (modCore s d n f).fwActive = s.fwActive := rfl
@[simp] theorem modCore_fwStaged (s : State) (d n : Nat) (f : CoreSt → CoreSt) : (modCore s d n f).fwStaged = s.fwStaged := rfl
@[simp] theorem modCore_fwUp (s : State) (d n : Nat) (f : CoreSt → CoreSt) : (modCore s d n f).fwUp = s.fwUp := rfl
@[simp] theorem modCore_recal (s : State) (d n : Nat) (f : CoreSt → CoreSt) : (modCore s d n f).recal = s.recal := rfl
@[simp] theorem modCore_fabrics (s : State) (d n : Nat) (f : CoreSt → CoreSt) : (modCore s d n f).fabrics = s.fabrics := rfl
@[simp] theorem modCore_sent (s : State) (d n : Nat) (f : CoreSt → CoreSt) : (modCore s d n f).sent = s.sent := rfl
@[simp] theorem modCore_alerts (s : State) (d n : Nat) (f : CoreSt → CoreSt) : (modCore s d n f).alerts = s.alerts := rfl
@[simp] theorem modCore_nextUid (s : State) (d n : Nat) (f : CoreSt → CoreSt) : (modCore s d n f).nextUid = s.nextUid := rfl
@[simp] theorem modCore_nextCmd (s : State) (d n : Nat) (f : CoreSt → CoreSt) : (modCore s d n f).nextCmd = s.nextCmd := rfl
@[simp] theorem modCore_nextStamp (s : State) (d n : Nat) (f : CoreSt → CoreSt) : (modCore s d n f).nextStamp = s.nextStamp := rfl
@[simp] theorem modCore_nextAge (s : State) (d n : Nat) (f : CoreSt → CoreSt) : (modCore s d n f).nextAge = s.nextAge := rfl
@[simp] theorem modCore_nextTag (s : State) (d n : Nat) (f : CoreSt → CoreSt) : (modCore s d n f).nextTag = s.nextTag := rfl
@[simp] theorem modCore_nextLaunch (s : State) (d n : Nat) (f : CoreSt → CoreSt) : (modCore s d n f).nextLaunch = s.nextLaunch := rfl
@[simp] theorem modCore_cur (s : State) (d n : Nat) (f : CoreSt → CoreSt) : (modCore s d n f).cur = s.cur := rfl
@[simp] theorem modCore_request (s : State) (d n : Nat) (f : CoreSt → CoreSt) : (modCore s d n f).request = s.request := rfl
@[simp] theorem modCore_message (s : State) (d n : Nat) (f : CoreSt → CoreSt) : (modCore s d n f).message = s.message := rfl
@[simp] theorem modCore_stalled (s : State) (d n : Nat) (f : CoreSt → CoreSt) : (modCore s d n f).stalled = s.stalled := rfl
@[simp] theorem modCore_agenda (s : State) (d n : Nat) (f : CoreSt → CoreSt) : (modCore s d n f).agenda = s.agenda := rfl
@[simp] theorem modCore_rr (s : State) (d n : Nat) (f : CoreSt → CoreSt) : (modCore s d n f).rr = s.rr := rfl
@[simp] theorem modCore_free (s : State) (d n : Nat) (f : CoreSt → CoreSt) : (modCore s d n f).free = s.free := rfl
@[simp] theorem crewOf_modCore (s : State) (d n : Nat) (f : CoreSt → CoreSt) (v : Nat) : crewOf (modCore s d n f) v = crewOf s v := rfl
@[simp] theorem teamOf_modCore (s : State) (d n : Nat) (f : CoreSt → CoreSt) (v : Nat) : teamOf (modCore s d n f) v = teamOf s v := rfl
@[simp] theorem launchOf_modCore (s : State) (d n : Nat) (f : CoreSt → CoreSt) (v : Nat) : launchOf (modCore s d n f) v = launchOf s v := rfl
@[simp] theorem devOf_modCore (s : State) (d n : Nat) (f : CoreSt → CoreSt) (v : Nat) : devOf (modCore s d n f) v = devOf s v := rfl
@[simp] theorem dieOf_modCore (s : State) (d n : Nat) (f : CoreSt → CoreSt) (v : Nat) : dieOf (modCore s d n f) v = dieOf s v := rfl
@[simp] theorem fabricOf_modCore (s : State) (d n : Nat) (f : CoreSt → CoreSt) (v : Nat) : fabricOf (modCore s d n f) v = fabricOf s v := rfl
@[simp] theorem ctxOf_modCore (s : State) (d n : Nat) (f : CoreSt → CoreSt) (v : Nat) : ctxOf (modCore s d n f) v = ctxOf s v := rfl

/-! ## putLaunch -/

@[simp] theorem putLaunch_reftime (s : State) (n : Nat) (l : Launch) : (putLaunch s n l).reftime = s.reftime := rfl
@[simp] theorem putLaunch_mem (s : State) (n : Nat) (l : Launch) : (putLaunch s n l).mem = s.mem := rfl
@[simp] theorem putLaunch_poison (s : State) (n : Nat) (l : Launch) : (putLaunch s n l).poison = s.poison := rfl
@[simp] theorem putLaunch_errors (s : State) (n : Nat) (l : Launch) : (putLaunch s n l).errors = s.errors := rfl
@[simp] theorem putLaunch_corrected (s : State) (n : Nat) (l : Launch) : (putLaunch s n l).corrected = s.corrected := rfl
@[simp] theorem putLaunch_spares (s : State) (n : Nat) (l : Launch) : (putLaunch s n l).spares = s.spares := rfl
@[simp] theorem putLaunch_codeErr (s : State) (n : Nat) (l : Launch) : (putLaunch s n l).codeErr = s.codeErr := rfl
@[simp] theorem putLaunch_retired (s : State) (n : Nat) (l : Launch) : (putLaunch s n l).retired = s.retired := rfl
@[simp] theorem putLaunch_rowWork (s : State) (n : Nat) (l : Launch) : (putLaunch s n l).rowWork = s.rowWork := rfl
@[simp] theorem putLaunch_dies (s : State) (n : Nat) (l : Launch) : (putLaunch s n l).dies = s.dies := rfl
@[simp] theorem putLaunch_cores (s : State) (n : Nat) (l : Launch) : (putLaunch s n l).cores = s.cores := rfl
@[simp] theorem putLaunch_crews (s : State) (n : Nat) (l : Launch) : (putLaunch s n l).crews = s.crews := rfl
@[simp] theorem putLaunch_teams (s : State) (n : Nat) (l : Launch) : (putLaunch s n l).teams = s.teams := rfl
@[simp] theorem putLaunch_saved (s : State) (n : Nat) (l : Launch) : (putLaunch s n l).saved = s.saved := rfl
@[simp] theorem putLaunch_contexts (s : State) (n : Nat) (l : Launch) : (putLaunch s n l).contexts = s.contexts := rfl
@[simp] theorem putLaunch_devs (s : State) (n : Nat) (l : Launch) : (putLaunch s n l).devs = s.devs := rfl
@[simp] theorem putLaunch_mode (s : State) (n : Nat) (l : Launch) : (putLaunch s n l).mode = s.mode := rfl
@[simp] theorem putLaunch_fatal (s : State) (n : Nat) (l : Launch) : (putLaunch s n l).fatal = s.fatal := rfl
@[simp] theorem putLaunch_stopped (s : State) (n : Nat) (l : Launch) : (putLaunch s n l).stopped = s.stopped := rfl
@[simp] theorem putLaunch_xtmo (s : State) (n : Nat) (l : Launch) : (putLaunch s n l).xtmo = s.xtmo := rfl
@[simp] theorem putLaunch_late (s : State) (n : Nat) (l : Launch) : (putLaunch s n l).late = s.late := rfl
@[simp] theorem putLaunch_cxlFailed (s : State) (n : Nat) (l : Launch) : (putLaunch s n l).cxlFailed = s.cxlFailed := rfl
@[simp] theorem putLaunch_hostCxl (s : State) (n : Nat) (l : Launch) : (putLaunch s n l).hostCxl = s.hostCxl := rfl
@[simp] theorem putLaunch_cxlWindow (s : State) (n : Nat) (l : Launch) : (putLaunch s n l).cxlWindow = s.cxlWindow := rfl
@[simp] theorem putLaunch_hostRead (s : State) (n : Nat) (l : Launch) : (putLaunch s n l).hostRead = s.hostRead := rfl
@[simp] theorem putLaunch_hostBad (s : State) (n : Nat) (l : Launch) : (putLaunch s n l).hostBad = s.hostBad := rfl
@[simp] theorem putLaunch_cap (s : State) (n : Nat) (l : Launch) : (putLaunch s n l).cap = s.cap := rfl
@[simp] theorem putLaunch_samples (s : State) (n : Nat) (l : Launch) : (putLaunch s n l).samples = s.samples := rfl
@[simp] theorem putLaunch_sampleAt (s : State) (n : Nat) (l : Launch) : (putLaunch s n l).sampleAt = s.sampleAt := rfl
@[simp] theorem putLaunch_stretch (s : State) (n : Nat) (l : Launch) : (putLaunch s n l).stretch = s.stretch := rfl
@[simp] theorem putLaunch_fwActive (s : State) (n : Nat) (l : Launch) : (putLaunch s n l).fwActive = s.fwActive := rfl
@[simp] theorem putLaunch_fwStaged (s : State) (n : Nat) (l : Launch) : (putLaunch s n l).fwStaged = s.fwStaged := rfl
@[simp] theorem putLaunch_fwUp (s : State) (n : Nat) (l : Launch) : (putLaunch s n l).fwUp = s.fwUp := rfl
@[simp] theorem putLaunch_recal (s : State) (n : Nat) (l : Launch) : (putLaunch s n l).recal = s.recal := rfl
@[simp] theorem putLaunch_fabrics (s : State) (n : Nat) (l : Launch) : (putLaunch s n l).fabrics = s.fabrics := rfl
@[simp] theorem putLaunch_sent (s : State) (n : Nat) (l : Launch) : (putLaunch s n l).sent = s.sent := rfl
@[simp] theorem putLaunch_alerts (s : State) (n : Nat) (l : Launch) : (putLaunch s n l).alerts = s.alerts := rfl
@[simp] theorem putLaunch_nextUid (s : State) (n : Nat) (l : Launch) : (putLaunch s n l).nextUid = s.nextUid := rfl
@[simp] theorem putLaunch_nextCmd (s : State) (n : Nat) (l : Launch) : (putLaunch s n l).nextCmd = s.nextCmd := rfl
@[simp] theorem putLaunch_nextStamp (s : State) (n : Nat) (l : Launch) : (putLaunch s n l).nextStamp = s.nextStamp := rfl
@[simp] theorem putLaunch_nextAge (s : State) (n : Nat) (l : Launch) : (putLaunch s n l).nextAge = s.nextAge := rfl
@[simp] theorem putLaunch_nextTag (s : State) (n : Nat) (l : Launch) : (putLaunch s n l).nextTag = s.nextTag := rfl
@[simp] theorem putLaunch_nextLaunch (s : State) (n : Nat) (l : Launch) : (putLaunch s n l).nextLaunch = s.nextLaunch := rfl
@[simp] theorem putLaunch_cur (s : State) (n : Nat) (l : Launch) : (putLaunch s n l).cur = s.cur := rfl
@[simp] theorem putLaunch_request (s : State) (n : Nat) (l : Launch) : (putLaunch s n l).request = s.request := rfl
@[simp] theorem putLaunch_message (s : State) (n : Nat) (l : Launch) : (putLaunch s n l).message = s.message := rfl
@[simp] theorem putLaunch_stalled (s : State) (n : Nat) (l : Launch) : (putLaunch s n l).stalled = s.stalled := rfl
@[simp] theorem putLaunch_agenda (s : State) (n : Nat) (l : Launch) : (putLaunch s n l).agenda = s.agenda := rfl
@[simp] theorem putLaunch_rr (s : State) (n : Nat) (l : Launch) : (putLaunch s n l).rr = s.rr := rfl
@[simp] theorem putLaunch_free (s : State) (n : Nat) (l : Launch) : (putLaunch s n l).free = s.free := rfl
@[simp] theorem crewOf_putLaunch (s : State) (n : Nat) (l : Launch) (v : Nat) : crewOf (putLaunch s n l) v = crewOf s v := rfl
@[simp] theorem teamOf_putLaunch (s : State) (n : Nat) (l : Launch) (v : Nat) : teamOf (putLaunch s n l) v = teamOf s v := rfl
@[simp] theorem devOf_putLaunch (s : State) (n : Nat) (l : Launch) (v : Nat) : devOf (putLaunch s n l) v = devOf s v := rfl
@[simp] theorem dieOf_putLaunch (s : State) (n : Nat) (l : Launch) (v : Nat) : dieOf (putLaunch s n l) v = dieOf s v := rfl
@[simp] theorem fabricOf_putLaunch (s : State) (n : Nat) (l : Launch) (v : Nat) : fabricOf (putLaunch s n l) v = fabricOf s v := rfl
@[simp] theorem ctxOf_putLaunch (s : State) (n : Nat) (l : Launch) (v : Nat) : ctxOf (putLaunch s n l) v = ctxOf s v := rfl
@[simp] theorem coreAt_putLaunch (s : State) (n : Nat) (l : Launch) (v w : Nat) : coreAt (putLaunch s n l) v w = coreAt s v w := rfl

/-! ## modLaunch -/

@[simp] theorem modLaunch_reftime (s : State) (n : Nat) (f : Launch → Launch) : (modLaunch s n f).reftime = s.reftime := rfl
@[simp] theorem modLaunch_mem (s : State) (n : Nat) (f : Launch → Launch) : (modLaunch s n f).mem = s.mem := rfl
@[simp] theorem modLaunch_poison (s : State) (n : Nat) (f : Launch → Launch) : (modLaunch s n f).poison = s.poison := rfl
@[simp] theorem modLaunch_errors (s : State) (n : Nat) (f : Launch → Launch) : (modLaunch s n f).errors = s.errors := rfl
@[simp] theorem modLaunch_corrected (s : State) (n : Nat) (f : Launch → Launch) : (modLaunch s n f).corrected = s.corrected := rfl
@[simp] theorem modLaunch_spares (s : State) (n : Nat) (f : Launch → Launch) : (modLaunch s n f).spares = s.spares := rfl
@[simp] theorem modLaunch_codeErr (s : State) (n : Nat) (f : Launch → Launch) : (modLaunch s n f).codeErr = s.codeErr := rfl
@[simp] theorem modLaunch_retired (s : State) (n : Nat) (f : Launch → Launch) : (modLaunch s n f).retired = s.retired := rfl
@[simp] theorem modLaunch_rowWork (s : State) (n : Nat) (f : Launch → Launch) : (modLaunch s n f).rowWork = s.rowWork := rfl
@[simp] theorem modLaunch_dies (s : State) (n : Nat) (f : Launch → Launch) : (modLaunch s n f).dies = s.dies := rfl
@[simp] theorem modLaunch_cores (s : State) (n : Nat) (f : Launch → Launch) : (modLaunch s n f).cores = s.cores := rfl
@[simp] theorem modLaunch_crews (s : State) (n : Nat) (f : Launch → Launch) : (modLaunch s n f).crews = s.crews := rfl
@[simp] theorem modLaunch_teams (s : State) (n : Nat) (f : Launch → Launch) : (modLaunch s n f).teams = s.teams := rfl
@[simp] theorem modLaunch_saved (s : State) (n : Nat) (f : Launch → Launch) : (modLaunch s n f).saved = s.saved := rfl
@[simp] theorem modLaunch_contexts (s : State) (n : Nat) (f : Launch → Launch) : (modLaunch s n f).contexts = s.contexts := rfl
@[simp] theorem modLaunch_devs (s : State) (n : Nat) (f : Launch → Launch) : (modLaunch s n f).devs = s.devs := rfl
@[simp] theorem modLaunch_mode (s : State) (n : Nat) (f : Launch → Launch) : (modLaunch s n f).mode = s.mode := rfl
@[simp] theorem modLaunch_fatal (s : State) (n : Nat) (f : Launch → Launch) : (modLaunch s n f).fatal = s.fatal := rfl
@[simp] theorem modLaunch_stopped (s : State) (n : Nat) (f : Launch → Launch) : (modLaunch s n f).stopped = s.stopped := rfl
@[simp] theorem modLaunch_xtmo (s : State) (n : Nat) (f : Launch → Launch) : (modLaunch s n f).xtmo = s.xtmo := rfl
@[simp] theorem modLaunch_late (s : State) (n : Nat) (f : Launch → Launch) : (modLaunch s n f).late = s.late := rfl
@[simp] theorem modLaunch_cxlFailed (s : State) (n : Nat) (f : Launch → Launch) : (modLaunch s n f).cxlFailed = s.cxlFailed := rfl
@[simp] theorem modLaunch_hostCxl (s : State) (n : Nat) (f : Launch → Launch) : (modLaunch s n f).hostCxl = s.hostCxl := rfl
@[simp] theorem modLaunch_cxlWindow (s : State) (n : Nat) (f : Launch → Launch) : (modLaunch s n f).cxlWindow = s.cxlWindow := rfl
@[simp] theorem modLaunch_hostRead (s : State) (n : Nat) (f : Launch → Launch) : (modLaunch s n f).hostRead = s.hostRead := rfl
@[simp] theorem modLaunch_hostBad (s : State) (n : Nat) (f : Launch → Launch) : (modLaunch s n f).hostBad = s.hostBad := rfl
@[simp] theorem modLaunch_cap (s : State) (n : Nat) (f : Launch → Launch) : (modLaunch s n f).cap = s.cap := rfl
@[simp] theorem modLaunch_samples (s : State) (n : Nat) (f : Launch → Launch) : (modLaunch s n f).samples = s.samples := rfl
@[simp] theorem modLaunch_sampleAt (s : State) (n : Nat) (f : Launch → Launch) : (modLaunch s n f).sampleAt = s.sampleAt := rfl
@[simp] theorem modLaunch_stretch (s : State) (n : Nat) (f : Launch → Launch) : (modLaunch s n f).stretch = s.stretch := rfl
@[simp] theorem modLaunch_fwActive (s : State) (n : Nat) (f : Launch → Launch) : (modLaunch s n f).fwActive = s.fwActive := rfl
@[simp] theorem modLaunch_fwStaged (s : State) (n : Nat) (f : Launch → Launch) : (modLaunch s n f).fwStaged = s.fwStaged := rfl
@[simp] theorem modLaunch_fwUp (s : State) (n : Nat) (f : Launch → Launch) : (modLaunch s n f).fwUp = s.fwUp := rfl
@[simp] theorem modLaunch_recal (s : State) (n : Nat) (f : Launch → Launch) : (modLaunch s n f).recal = s.recal := rfl
@[simp] theorem modLaunch_fabrics (s : State) (n : Nat) (f : Launch → Launch) : (modLaunch s n f).fabrics = s.fabrics := rfl
@[simp] theorem modLaunch_sent (s : State) (n : Nat) (f : Launch → Launch) : (modLaunch s n f).sent = s.sent := rfl
@[simp] theorem modLaunch_alerts (s : State) (n : Nat) (f : Launch → Launch) : (modLaunch s n f).alerts = s.alerts := rfl
@[simp] theorem modLaunch_nextUid (s : State) (n : Nat) (f : Launch → Launch) : (modLaunch s n f).nextUid = s.nextUid := rfl
@[simp] theorem modLaunch_nextCmd (s : State) (n : Nat) (f : Launch → Launch) : (modLaunch s n f).nextCmd = s.nextCmd := rfl
@[simp] theorem modLaunch_nextStamp (s : State) (n : Nat) (f : Launch → Launch) : (modLaunch s n f).nextStamp = s.nextStamp := rfl
@[simp] theorem modLaunch_nextAge (s : State) (n : Nat) (f : Launch → Launch) : (modLaunch s n f).nextAge = s.nextAge := rfl
@[simp] theorem modLaunch_nextTag (s : State) (n : Nat) (f : Launch → Launch) : (modLaunch s n f).nextTag = s.nextTag := rfl
@[simp] theorem modLaunch_nextLaunch (s : State) (n : Nat) (f : Launch → Launch) : (modLaunch s n f).nextLaunch = s.nextLaunch := rfl
@[simp] theorem modLaunch_cur (s : State) (n : Nat) (f : Launch → Launch) : (modLaunch s n f).cur = s.cur := rfl
@[simp] theorem modLaunch_request (s : State) (n : Nat) (f : Launch → Launch) : (modLaunch s n f).request = s.request := rfl
@[simp] theorem modLaunch_message (s : State) (n : Nat) (f : Launch → Launch) : (modLaunch s n f).message = s.message := rfl
@[simp] theorem modLaunch_stalled (s : State) (n : Nat) (f : Launch → Launch) : (modLaunch s n f).stalled = s.stalled := rfl
@[simp] theorem modLaunch_agenda (s : State) (n : Nat) (f : Launch → Launch) : (modLaunch s n f).agenda = s.agenda := rfl
@[simp] theorem modLaunch_rr (s : State) (n : Nat) (f : Launch → Launch) : (modLaunch s n f).rr = s.rr := rfl
@[simp] theorem modLaunch_free (s : State) (n : Nat) (f : Launch → Launch) : (modLaunch s n f).free = s.free := rfl
@[simp] theorem crewOf_modLaunch (s : State) (n : Nat) (f : Launch → Launch) (v : Nat) : crewOf (modLaunch s n f) v = crewOf s v := rfl
@[simp] theorem teamOf_modLaunch (s : State) (n : Nat) (f : Launch → Launch) (v : Nat) : teamOf (modLaunch s n f) v = teamOf s v := rfl
@[simp] theorem devOf_modLaunch (s : State) (n : Nat) (f : Launch → Launch) (v : Nat) : devOf (modLaunch s n f) v = devOf s v := rfl
@[simp] theorem dieOf_modLaunch (s : State) (n : Nat) (f : Launch → Launch) (v : Nat) : dieOf (modLaunch s n f) v = dieOf s v := rfl
@[simp] theorem fabricOf_modLaunch (s : State) (n : Nat) (f : Launch → Launch) (v : Nat) : fabricOf (modLaunch s n f) v = fabricOf s v := rfl
@[simp] theorem ctxOf_modLaunch (s : State) (n : Nat) (f : Launch → Launch) (v : Nat) : ctxOf (modLaunch s n f) v = ctxOf s v := rfl
@[simp] theorem coreAt_modLaunch (s : State) (n : Nat) (f : Launch → Launch) (v w : Nat) : coreAt (modLaunch s n f) v w = coreAt s v w := rfl

/-! ## modDev -/

@[simp] theorem modDev_reftime (s : State) (n : Nat) (f : DevSt → DevSt) : (modDev s n f).reftime = s.reftime := rfl
@[simp] theorem modDev_mem (s : State) (n : Nat) (f : DevSt → DevSt) : (modDev s n f).mem = s.mem := rfl
@[simp] theorem modDev_poison (s : State) (n : Nat) (f : DevSt → DevSt) : (modDev s n f).poison = s.poison := rfl
@[simp] theorem modDev_errors (s : State) (n : Nat) (f : DevSt → DevSt) : (modDev s n f).errors = s.errors := rfl
@[simp] theorem modDev_corrected (s : State) (n : Nat) (f : DevSt → DevSt) : (modDev s n f).corrected = s.corrected := rfl
@[simp] theorem modDev_spares (s : State) (n : Nat) (f : DevSt → DevSt) : (modDev s n f).spares = s.spares := rfl
@[simp] theorem modDev_codeErr (s : State) (n : Nat) (f : DevSt → DevSt) : (modDev s n f).codeErr = s.codeErr := rfl
@[simp] theorem modDev_retired (s : State) (n : Nat) (f : DevSt → DevSt) : (modDev s n f).retired = s.retired := rfl
@[simp] theorem modDev_rowWork (s : State) (n : Nat) (f : DevSt → DevSt) : (modDev s n f).rowWork = s.rowWork := rfl
@[simp] theorem modDev_dies (s : State) (n : Nat) (f : DevSt → DevSt) : (modDev s n f).dies = s.dies := rfl
@[simp] theorem modDev_cores (s : State) (n : Nat) (f : DevSt → DevSt) : (modDev s n f).cores = s.cores := rfl
@[simp] theorem modDev_crews (s : State) (n : Nat) (f : DevSt → DevSt) : (modDev s n f).crews = s.crews := rfl
@[simp] theorem modDev_teams (s : State) (n : Nat) (f : DevSt → DevSt) : (modDev s n f).teams = s.teams := rfl
@[simp] theorem modDev_saved (s : State) (n : Nat) (f : DevSt → DevSt) : (modDev s n f).saved = s.saved := rfl
@[simp] theorem modDev_launches (s : State) (n : Nat) (f : DevSt → DevSt) : (modDev s n f).launches = s.launches := rfl
@[simp] theorem modDev_contexts (s : State) (n : Nat) (f : DevSt → DevSt) : (modDev s n f).contexts = s.contexts := rfl
@[simp] theorem modDev_mode (s : State) (n : Nat) (f : DevSt → DevSt) : (modDev s n f).mode = s.mode := rfl
@[simp] theorem modDev_fatal (s : State) (n : Nat) (f : DevSt → DevSt) : (modDev s n f).fatal = s.fatal := rfl
@[simp] theorem modDev_stopped (s : State) (n : Nat) (f : DevSt → DevSt) : (modDev s n f).stopped = s.stopped := rfl
@[simp] theorem modDev_xtmo (s : State) (n : Nat) (f : DevSt → DevSt) : (modDev s n f).xtmo = s.xtmo := rfl
@[simp] theorem modDev_late (s : State) (n : Nat) (f : DevSt → DevSt) : (modDev s n f).late = s.late := rfl
@[simp] theorem modDev_cxlFailed (s : State) (n : Nat) (f : DevSt → DevSt) : (modDev s n f).cxlFailed = s.cxlFailed := rfl
@[simp] theorem modDev_hostCxl (s : State) (n : Nat) (f : DevSt → DevSt) : (modDev s n f).hostCxl = s.hostCxl := rfl
@[simp] theorem modDev_cxlWindow (s : State) (n : Nat) (f : DevSt → DevSt) : (modDev s n f).cxlWindow = s.cxlWindow := rfl
@[simp] theorem modDev_hostRead (s : State) (n : Nat) (f : DevSt → DevSt) : (modDev s n f).hostRead = s.hostRead := rfl
@[simp] theorem modDev_hostBad (s : State) (n : Nat) (f : DevSt → DevSt) : (modDev s n f).hostBad = s.hostBad := rfl
@[simp] theorem modDev_cap (s : State) (n : Nat) (f : DevSt → DevSt) : (modDev s n f).cap = s.cap := rfl
@[simp] theorem modDev_samples (s : State) (n : Nat) (f : DevSt → DevSt) : (modDev s n f).samples = s.samples := rfl
@[simp] theorem modDev_sampleAt (s : State) (n : Nat) (f : DevSt → DevSt) : (modDev s n f).sampleAt = s.sampleAt := rfl
@[simp] theorem modDev_stretch (s : State) (n : Nat) (f : DevSt → DevSt) : (modDev s n f).stretch = s.stretch := rfl
@[simp] theorem modDev_fwActive (s : State) (n : Nat) (f : DevSt → DevSt) : (modDev s n f).fwActive = s.fwActive := rfl
@[simp] theorem modDev_fwStaged (s : State) (n : Nat) (f : DevSt → DevSt) : (modDev s n f).fwStaged = s.fwStaged := rfl
@[simp] theorem modDev_fwUp (s : State) (n : Nat) (f : DevSt → DevSt) : (modDev s n f).fwUp = s.fwUp := rfl
@[simp] theorem modDev_recal (s : State) (n : Nat) (f : DevSt → DevSt) : (modDev s n f).recal = s.recal := rfl
@[simp] theorem modDev_fabrics (s : State) (n : Nat) (f : DevSt → DevSt) : (modDev s n f).fabrics = s.fabrics := rfl
@[simp] theorem modDev_sent (s : State) (n : Nat) (f : DevSt → DevSt) : (modDev s n f).sent = s.sent := rfl
@[simp] theorem modDev_alerts (s : State) (n : Nat) (f : DevSt → DevSt) : (modDev s n f).alerts = s.alerts := rfl
@[simp] theorem modDev_nextUid (s : State) (n : Nat) (f : DevSt → DevSt) : (modDev s n f).nextUid = s.nextUid := rfl
@[simp] theorem modDev_nextCmd (s : State) (n : Nat) (f : DevSt → DevSt) : (modDev s n f).nextCmd = s.nextCmd := rfl
@[simp] theorem modDev_nextStamp (s : State) (n : Nat) (f : DevSt → DevSt) : (modDev s n f).nextStamp = s.nextStamp := rfl
@[simp] theorem modDev_nextAge (s : State) (n : Nat) (f : DevSt → DevSt) : (modDev s n f).nextAge = s.nextAge := rfl
@[simp] theorem modDev_nextTag (s : State) (n : Nat) (f : DevSt → DevSt) : (modDev s n f).nextTag = s.nextTag := rfl
@[simp] theorem modDev_nextLaunch (s : State) (n : Nat) (f : DevSt → DevSt) : (modDev s n f).nextLaunch = s.nextLaunch := rfl
@[simp] theorem modDev_cur (s : State) (n : Nat) (f : DevSt → DevSt) : (modDev s n f).cur = s.cur := rfl
@[simp] theorem modDev_request (s : State) (n : Nat) (f : DevSt → DevSt) : (modDev s n f).request = s.request := rfl
@[simp] theorem modDev_message (s : State) (n : Nat) (f : DevSt → DevSt) : (modDev s n f).message = s.message := rfl
@[simp] theorem modDev_stalled (s : State) (n : Nat) (f : DevSt → DevSt) : (modDev s n f).stalled = s.stalled := rfl
@[simp] theorem modDev_agenda (s : State) (n : Nat) (f : DevSt → DevSt) : (modDev s n f).agenda = s.agenda := rfl
@[simp] theorem modDev_rr (s : State) (n : Nat) (f : DevSt → DevSt) : (modDev s n f).rr = s.rr := rfl
@[simp] theorem modDev_free (s : State) (n : Nat) (f : DevSt → DevSt) : (modDev s n f).free = s.free := rfl
@[simp] theorem crewOf_modDev (s : State) (n : Nat) (f : DevSt → DevSt) (v : Nat) : crewOf (modDev s n f) v = crewOf s v := rfl
@[simp] theorem teamOf_modDev (s : State) (n : Nat) (f : DevSt → DevSt) (v : Nat) : teamOf (modDev s n f) v = teamOf s v := rfl
@[simp] theorem launchOf_modDev (s : State) (n : Nat) (f : DevSt → DevSt) (v : Nat) : launchOf (modDev s n f) v = launchOf s v := rfl
@[simp] theorem dieOf_modDev (s : State) (n : Nat) (f : DevSt → DevSt) (v : Nat) : dieOf (modDev s n f) v = dieOf s v := rfl
@[simp] theorem fabricOf_modDev (s : State) (n : Nat) (f : DevSt → DevSt) (v : Nat) : fabricOf (modDev s n f) v = fabricOf s v := rfl
@[simp] theorem ctxOf_modDev (s : State) (n : Nat) (f : DevSt → DevSt) (v : Nat) : ctxOf (modDev s n f) v = ctxOf s v := rfl
@[simp] theorem coreAt_modDev (s : State) (n : Nat) (f : DevSt → DevSt) (v w : Nat) : coreAt (modDev s n f) v w = coreAt s v w := rfl

/-! ## modDie -/

@[simp] theorem modDie_reftime (s : State) (n : Nat) (f : DieSt → DieSt) : (modDie s n f).reftime = s.reftime := rfl
@[simp] theorem modDie_mem (s : State) (n : Nat) (f : DieSt → DieSt) : (modDie s n f).mem = s.mem := rfl
@[simp] theorem modDie_poison (s : State) (n : Nat) (f : DieSt → DieSt) : (modDie s n f).poison = s.poison := rfl
@[simp] theorem modDie_errors (s : State) (n : Nat) (f : DieSt → DieSt) : (modDie s n f).errors = s.errors := rfl
@[simp] theorem modDie_corrected (s : State) (n : Nat) (f : DieSt → DieSt) : (modDie s n f).corrected = s.corrected := rfl
@[simp] theorem modDie_spares (s : State) (n : Nat) (f : DieSt → DieSt) : (modDie s n f).spares = s.spares := rfl
@[simp] theorem modDie_codeErr (s : State) (n : Nat) (f : DieSt → DieSt) : (modDie s n f).codeErr = s.codeErr := rfl
@[simp] theorem modDie_retired (s : State) (n : Nat) (f : DieSt → DieSt) : (modDie s n f).retired = s.retired := rfl
@[simp] theorem modDie_rowWork (s : State) (n : Nat) (f : DieSt → DieSt) : (modDie s n f).rowWork = s.rowWork := rfl
@[simp] theorem modDie_cores (s : State) (n : Nat) (f : DieSt → DieSt) : (modDie s n f).cores = s.cores := rfl
@[simp] theorem modDie_crews (s : State) (n : Nat) (f : DieSt → DieSt) : (modDie s n f).crews = s.crews := rfl
@[simp] theorem modDie_teams (s : State) (n : Nat) (f : DieSt → DieSt) : (modDie s n f).teams = s.teams := rfl
@[simp] theorem modDie_saved (s : State) (n : Nat) (f : DieSt → DieSt) : (modDie s n f).saved = s.saved := rfl
@[simp] theorem modDie_launches (s : State) (n : Nat) (f : DieSt → DieSt) : (modDie s n f).launches = s.launches := rfl
@[simp] theorem modDie_contexts (s : State) (n : Nat) (f : DieSt → DieSt) : (modDie s n f).contexts = s.contexts := rfl
@[simp] theorem modDie_devs (s : State) (n : Nat) (f : DieSt → DieSt) : (modDie s n f).devs = s.devs := rfl
@[simp] theorem modDie_mode (s : State) (n : Nat) (f : DieSt → DieSt) : (modDie s n f).mode = s.mode := rfl
@[simp] theorem modDie_fatal (s : State) (n : Nat) (f : DieSt → DieSt) : (modDie s n f).fatal = s.fatal := rfl
@[simp] theorem modDie_stopped (s : State) (n : Nat) (f : DieSt → DieSt) : (modDie s n f).stopped = s.stopped := rfl
@[simp] theorem modDie_xtmo (s : State) (n : Nat) (f : DieSt → DieSt) : (modDie s n f).xtmo = s.xtmo := rfl
@[simp] theorem modDie_late (s : State) (n : Nat) (f : DieSt → DieSt) : (modDie s n f).late = s.late := rfl
@[simp] theorem modDie_cxlFailed (s : State) (n : Nat) (f : DieSt → DieSt) : (modDie s n f).cxlFailed = s.cxlFailed := rfl
@[simp] theorem modDie_hostCxl (s : State) (n : Nat) (f : DieSt → DieSt) : (modDie s n f).hostCxl = s.hostCxl := rfl
@[simp] theorem modDie_cxlWindow (s : State) (n : Nat) (f : DieSt → DieSt) : (modDie s n f).cxlWindow = s.cxlWindow := rfl
@[simp] theorem modDie_hostRead (s : State) (n : Nat) (f : DieSt → DieSt) : (modDie s n f).hostRead = s.hostRead := rfl
@[simp] theorem modDie_hostBad (s : State) (n : Nat) (f : DieSt → DieSt) : (modDie s n f).hostBad = s.hostBad := rfl
@[simp] theorem modDie_cap (s : State) (n : Nat) (f : DieSt → DieSt) : (modDie s n f).cap = s.cap := rfl
@[simp] theorem modDie_samples (s : State) (n : Nat) (f : DieSt → DieSt) : (modDie s n f).samples = s.samples := rfl
@[simp] theorem modDie_sampleAt (s : State) (n : Nat) (f : DieSt → DieSt) : (modDie s n f).sampleAt = s.sampleAt := rfl
@[simp] theorem modDie_stretch (s : State) (n : Nat) (f : DieSt → DieSt) : (modDie s n f).stretch = s.stretch := rfl
@[simp] theorem modDie_fwActive (s : State) (n : Nat) (f : DieSt → DieSt) : (modDie s n f).fwActive = s.fwActive := rfl
@[simp] theorem modDie_fwStaged (s : State) (n : Nat) (f : DieSt → DieSt) : (modDie s n f).fwStaged = s.fwStaged := rfl
@[simp] theorem modDie_fwUp (s : State) (n : Nat) (f : DieSt → DieSt) : (modDie s n f).fwUp = s.fwUp := rfl
@[simp] theorem modDie_recal (s : State) (n : Nat) (f : DieSt → DieSt) : (modDie s n f).recal = s.recal := rfl
@[simp] theorem modDie_fabrics (s : State) (n : Nat) (f : DieSt → DieSt) : (modDie s n f).fabrics = s.fabrics := rfl
@[simp] theorem modDie_sent (s : State) (n : Nat) (f : DieSt → DieSt) : (modDie s n f).sent = s.sent := rfl
@[simp] theorem modDie_alerts (s : State) (n : Nat) (f : DieSt → DieSt) : (modDie s n f).alerts = s.alerts := rfl
@[simp] theorem modDie_nextUid (s : State) (n : Nat) (f : DieSt → DieSt) : (modDie s n f).nextUid = s.nextUid := rfl
@[simp] theorem modDie_nextCmd (s : State) (n : Nat) (f : DieSt → DieSt) : (modDie s n f).nextCmd = s.nextCmd := rfl
@[simp] theorem modDie_nextStamp (s : State) (n : Nat) (f : DieSt → DieSt) : (modDie s n f).nextStamp = s.nextStamp := rfl
@[simp] theorem modDie_nextAge (s : State) (n : Nat) (f : DieSt → DieSt) : (modDie s n f).nextAge = s.nextAge := rfl
@[simp] theorem modDie_nextTag (s : State) (n : Nat) (f : DieSt → DieSt) : (modDie s n f).nextTag = s.nextTag := rfl
@[simp] theorem modDie_nextLaunch (s : State) (n : Nat) (f : DieSt → DieSt) : (modDie s n f).nextLaunch = s.nextLaunch := rfl
@[simp] theorem modDie_cur (s : State) (n : Nat) (f : DieSt → DieSt) : (modDie s n f).cur = s.cur := rfl
@[simp] theorem modDie_request (s : State) (n : Nat) (f : DieSt → DieSt) : (modDie s n f).request = s.request := rfl
@[simp] theorem modDie_message (s : State) (n : Nat) (f : DieSt → DieSt) : (modDie s n f).message = s.message := rfl
@[simp] theorem modDie_stalled (s : State) (n : Nat) (f : DieSt → DieSt) : (modDie s n f).stalled = s.stalled := rfl
@[simp] theorem modDie_agenda (s : State) (n : Nat) (f : DieSt → DieSt) : (modDie s n f).agenda = s.agenda := rfl
@[simp] theorem modDie_rr (s : State) (n : Nat) (f : DieSt → DieSt) : (modDie s n f).rr = s.rr := rfl
@[simp] theorem modDie_free (s : State) (n : Nat) (f : DieSt → DieSt) : (modDie s n f).free = s.free := rfl
@[simp] theorem crewOf_modDie (s : State) (n : Nat) (f : DieSt → DieSt) (v : Nat) : crewOf (modDie s n f) v = crewOf s v := rfl
@[simp] theorem teamOf_modDie (s : State) (n : Nat) (f : DieSt → DieSt) (v : Nat) : teamOf (modDie s n f) v = teamOf s v := rfl
@[simp] theorem launchOf_modDie (s : State) (n : Nat) (f : DieSt → DieSt) (v : Nat) : launchOf (modDie s n f) v = launchOf s v := rfl
@[simp] theorem devOf_modDie (s : State) (n : Nat) (f : DieSt → DieSt) (v : Nat) : devOf (modDie s n f) v = devOf s v := rfl
@[simp] theorem fabricOf_modDie (s : State) (n : Nat) (f : DieSt → DieSt) (v : Nat) : fabricOf (modDie s n f) v = fabricOf s v := rfl
@[simp] theorem ctxOf_modDie (s : State) (n : Nat) (f : DieSt → DieSt) (v : Nat) : ctxOf (modDie s n f) v = ctxOf s v := rfl
@[simp] theorem coreAt_modDie (s : State) (n : Nat) (f : DieSt → DieSt) (v w : Nat) : coreAt (modDie s n f) v w = coreAt s v w := rfl

/-! ## modFabric -/

@[simp] theorem modFabric_reftime (s : State) (n : Nat) (f : FabricSt → FabricSt) : (modFabric s n f).reftime = s.reftime := rfl
@[simp] theorem modFabric_mem (s : State) (n : Nat) (f : FabricSt → FabricSt) : (modFabric s n f).mem = s.mem := rfl
@[simp] theorem modFabric_poison (s : State) (n : Nat) (f : FabricSt → FabricSt) : (modFabric s n f).poison = s.poison := rfl
@[simp] theorem modFabric_errors (s : State) (n : Nat) (f : FabricSt → FabricSt) : (modFabric s n f).errors = s.errors := rfl
@[simp] theorem modFabric_corrected (s : State) (n : Nat) (f : FabricSt → FabricSt) : (modFabric s n f).corrected = s.corrected := rfl
@[simp] theorem modFabric_spares (s : State) (n : Nat) (f : FabricSt → FabricSt) : (modFabric s n f).spares = s.spares := rfl
@[simp] theorem modFabric_codeErr (s : State) (n : Nat) (f : FabricSt → FabricSt) : (modFabric s n f).codeErr = s.codeErr := rfl
@[simp] theorem modFabric_retired (s : State) (n : Nat) (f : FabricSt → FabricSt) : (modFabric s n f).retired = s.retired := rfl
@[simp] theorem modFabric_rowWork (s : State) (n : Nat) (f : FabricSt → FabricSt) : (modFabric s n f).rowWork = s.rowWork := rfl
@[simp] theorem modFabric_dies (s : State) (n : Nat) (f : FabricSt → FabricSt) : (modFabric s n f).dies = s.dies := rfl
@[simp] theorem modFabric_cores (s : State) (n : Nat) (f : FabricSt → FabricSt) : (modFabric s n f).cores = s.cores := rfl
@[simp] theorem modFabric_crews (s : State) (n : Nat) (f : FabricSt → FabricSt) : (modFabric s n f).crews = s.crews := rfl
@[simp] theorem modFabric_teams (s : State) (n : Nat) (f : FabricSt → FabricSt) : (modFabric s n f).teams = s.teams := rfl
@[simp] theorem modFabric_saved (s : State) (n : Nat) (f : FabricSt → FabricSt) : (modFabric s n f).saved = s.saved := rfl
@[simp] theorem modFabric_launches (s : State) (n : Nat) (f : FabricSt → FabricSt) : (modFabric s n f).launches = s.launches := rfl
@[simp] theorem modFabric_contexts (s : State) (n : Nat) (f : FabricSt → FabricSt) : (modFabric s n f).contexts = s.contexts := rfl
@[simp] theorem modFabric_devs (s : State) (n : Nat) (f : FabricSt → FabricSt) : (modFabric s n f).devs = s.devs := rfl
@[simp] theorem modFabric_mode (s : State) (n : Nat) (f : FabricSt → FabricSt) : (modFabric s n f).mode = s.mode := rfl
@[simp] theorem modFabric_fatal (s : State) (n : Nat) (f : FabricSt → FabricSt) : (modFabric s n f).fatal = s.fatal := rfl
@[simp] theorem modFabric_stopped (s : State) (n : Nat) (f : FabricSt → FabricSt) : (modFabric s n f).stopped = s.stopped := rfl
@[simp] theorem modFabric_xtmo (s : State) (n : Nat) (f : FabricSt → FabricSt) : (modFabric s n f).xtmo = s.xtmo := rfl
@[simp] theorem modFabric_late (s : State) (n : Nat) (f : FabricSt → FabricSt) : (modFabric s n f).late = s.late := rfl
@[simp] theorem modFabric_cxlFailed (s : State) (n : Nat) (f : FabricSt → FabricSt) : (modFabric s n f).cxlFailed = s.cxlFailed := rfl
@[simp] theorem modFabric_hostCxl (s : State) (n : Nat) (f : FabricSt → FabricSt) : (modFabric s n f).hostCxl = s.hostCxl := rfl
@[simp] theorem modFabric_cxlWindow (s : State) (n : Nat) (f : FabricSt → FabricSt) : (modFabric s n f).cxlWindow = s.cxlWindow := rfl
@[simp] theorem modFabric_hostRead (s : State) (n : Nat) (f : FabricSt → FabricSt) : (modFabric s n f).hostRead = s.hostRead := rfl
@[simp] theorem modFabric_hostBad (s : State) (n : Nat) (f : FabricSt → FabricSt) : (modFabric s n f).hostBad = s.hostBad := rfl
@[simp] theorem modFabric_cap (s : State) (n : Nat) (f : FabricSt → FabricSt) : (modFabric s n f).cap = s.cap := rfl
@[simp] theorem modFabric_samples (s : State) (n : Nat) (f : FabricSt → FabricSt) : (modFabric s n f).samples = s.samples := rfl
@[simp] theorem modFabric_sampleAt (s : State) (n : Nat) (f : FabricSt → FabricSt) : (modFabric s n f).sampleAt = s.sampleAt := rfl
@[simp] theorem modFabric_stretch (s : State) (n : Nat) (f : FabricSt → FabricSt) : (modFabric s n f).stretch = s.stretch := rfl
@[simp] theorem modFabric_fwActive (s : State) (n : Nat) (f : FabricSt → FabricSt) : (modFabric s n f).fwActive = s.fwActive := rfl
@[simp] theorem modFabric_fwStaged (s : State) (n : Nat) (f : FabricSt → FabricSt) : (modFabric s n f).fwStaged = s.fwStaged := rfl
@[simp] theorem modFabric_fwUp (s : State) (n : Nat) (f : FabricSt → FabricSt) : (modFabric s n f).fwUp = s.fwUp := rfl
@[simp] theorem modFabric_recal (s : State) (n : Nat) (f : FabricSt → FabricSt) : (modFabric s n f).recal = s.recal := rfl
@[simp] theorem modFabric_sent (s : State) (n : Nat) (f : FabricSt → FabricSt) : (modFabric s n f).sent = s.sent := rfl
@[simp] theorem modFabric_alerts (s : State) (n : Nat) (f : FabricSt → FabricSt) : (modFabric s n f).alerts = s.alerts := rfl
@[simp] theorem modFabric_nextUid (s : State) (n : Nat) (f : FabricSt → FabricSt) : (modFabric s n f).nextUid = s.nextUid := rfl
@[simp] theorem modFabric_nextCmd (s : State) (n : Nat) (f : FabricSt → FabricSt) : (modFabric s n f).nextCmd = s.nextCmd := rfl
@[simp] theorem modFabric_nextStamp (s : State) (n : Nat) (f : FabricSt → FabricSt) : (modFabric s n f).nextStamp = s.nextStamp := rfl
@[simp] theorem modFabric_nextAge (s : State) (n : Nat) (f : FabricSt → FabricSt) : (modFabric s n f).nextAge = s.nextAge := rfl
@[simp] theorem modFabric_nextTag (s : State) (n : Nat) (f : FabricSt → FabricSt) : (modFabric s n f).nextTag = s.nextTag := rfl
@[simp] theorem modFabric_nextLaunch (s : State) (n : Nat) (f : FabricSt → FabricSt) : (modFabric s n f).nextLaunch = s.nextLaunch := rfl
@[simp] theorem modFabric_cur (s : State) (n : Nat) (f : FabricSt → FabricSt) : (modFabric s n f).cur = s.cur := rfl
@[simp] theorem modFabric_request (s : State) (n : Nat) (f : FabricSt → FabricSt) : (modFabric s n f).request = s.request := rfl
@[simp] theorem modFabric_message (s : State) (n : Nat) (f : FabricSt → FabricSt) : (modFabric s n f).message = s.message := rfl
@[simp] theorem modFabric_stalled (s : State) (n : Nat) (f : FabricSt → FabricSt) : (modFabric s n f).stalled = s.stalled := rfl
@[simp] theorem modFabric_agenda (s : State) (n : Nat) (f : FabricSt → FabricSt) : (modFabric s n f).agenda = s.agenda := rfl
@[simp] theorem modFabric_rr (s : State) (n : Nat) (f : FabricSt → FabricSt) : (modFabric s n f).rr = s.rr := rfl
@[simp] theorem modFabric_free (s : State) (n : Nat) (f : FabricSt → FabricSt) : (modFabric s n f).free = s.free := rfl
@[simp] theorem crewOf_modFabric (s : State) (n : Nat) (f : FabricSt → FabricSt) (v : Nat) : crewOf (modFabric s n f) v = crewOf s v := rfl
@[simp] theorem teamOf_modFabric (s : State) (n : Nat) (f : FabricSt → FabricSt) (v : Nat) : teamOf (modFabric s n f) v = teamOf s v := rfl
@[simp] theorem launchOf_modFabric (s : State) (n : Nat) (f : FabricSt → FabricSt) (v : Nat) : launchOf (modFabric s n f) v = launchOf s v := rfl
@[simp] theorem devOf_modFabric (s : State) (n : Nat) (f : FabricSt → FabricSt) (v : Nat) : devOf (modFabric s n f) v = devOf s v := rfl
@[simp] theorem dieOf_modFabric (s : State) (n : Nat) (f : FabricSt → FabricSt) (v : Nat) : dieOf (modFabric s n f) v = dieOf s v := rfl
@[simp] theorem ctxOf_modFabric (s : State) (n : Nat) (f : FabricSt → FabricSt) (v : Nat) : ctxOf (modFabric s n f) v = ctxOf s v := rfl
@[simp] theorem coreAt_modFabric (s : State) (n : Nat) (f : FabricSt → FabricSt) (v w : Nat) : coreAt (modFabric s n f) v w = coreAt s v w := rfl

/-! ## modCtx -/

@[simp] theorem modCtx_reftime (s : State) (n : Nat) (f : Context → Context) : (modCtx s n f).reftime = s.reftime := rfl
@[simp] theorem modCtx_mem (s : State) (n : Nat) (f : Context → Context) : (modCtx s n f).mem = s.mem := rfl
@[simp] theorem modCtx_poison (s : State) (n : Nat) (f : Context → Context) : (modCtx s n f).poison = s.poison := rfl
@[simp] theorem modCtx_errors (s : State) (n : Nat) (f : Context → Context) : (modCtx s n f).errors = s.errors := rfl
@[simp] theorem modCtx_corrected (s : State) (n : Nat) (f : Context → Context) : (modCtx s n f).corrected = s.corrected := rfl
@[simp] theorem modCtx_spares (s : State) (n : Nat) (f : Context → Context) : (modCtx s n f).spares = s.spares := rfl
@[simp] theorem modCtx_codeErr (s : State) (n : Nat) (f : Context → Context) : (modCtx s n f).codeErr = s.codeErr := rfl
@[simp] theorem modCtx_retired (s : State) (n : Nat) (f : Context → Context) : (modCtx s n f).retired = s.retired := rfl
@[simp] theorem modCtx_rowWork (s : State) (n : Nat) (f : Context → Context) : (modCtx s n f).rowWork = s.rowWork := rfl
@[simp] theorem modCtx_dies (s : State) (n : Nat) (f : Context → Context) : (modCtx s n f).dies = s.dies := rfl
@[simp] theorem modCtx_cores (s : State) (n : Nat) (f : Context → Context) : (modCtx s n f).cores = s.cores := rfl
@[simp] theorem modCtx_crews (s : State) (n : Nat) (f : Context → Context) : (modCtx s n f).crews = s.crews := rfl
@[simp] theorem modCtx_teams (s : State) (n : Nat) (f : Context → Context) : (modCtx s n f).teams = s.teams := rfl
@[simp] theorem modCtx_saved (s : State) (n : Nat) (f : Context → Context) : (modCtx s n f).saved = s.saved := rfl
@[simp] theorem modCtx_launches (s : State) (n : Nat) (f : Context → Context) : (modCtx s n f).launches = s.launches := rfl
@[simp] theorem modCtx_devs (s : State) (n : Nat) (f : Context → Context) : (modCtx s n f).devs = s.devs := rfl
@[simp] theorem modCtx_mode (s : State) (n : Nat) (f : Context → Context) : (modCtx s n f).mode = s.mode := rfl
@[simp] theorem modCtx_fatal (s : State) (n : Nat) (f : Context → Context) : (modCtx s n f).fatal = s.fatal := rfl
@[simp] theorem modCtx_stopped (s : State) (n : Nat) (f : Context → Context) : (modCtx s n f).stopped = s.stopped := rfl
@[simp] theorem modCtx_xtmo (s : State) (n : Nat) (f : Context → Context) : (modCtx s n f).xtmo = s.xtmo := rfl
@[simp] theorem modCtx_late (s : State) (n : Nat) (f : Context → Context) : (modCtx s n f).late = s.late := rfl
@[simp] theorem modCtx_cxlFailed (s : State) (n : Nat) (f : Context → Context) : (modCtx s n f).cxlFailed = s.cxlFailed := rfl
@[simp] theorem modCtx_hostCxl (s : State) (n : Nat) (f : Context → Context) : (modCtx s n f).hostCxl = s.hostCxl := rfl
@[simp] theorem modCtx_cxlWindow (s : State) (n : Nat) (f : Context → Context) : (modCtx s n f).cxlWindow = s.cxlWindow := rfl
@[simp] theorem modCtx_hostRead (s : State) (n : Nat) (f : Context → Context) : (modCtx s n f).hostRead = s.hostRead := rfl
@[simp] theorem modCtx_hostBad (s : State) (n : Nat) (f : Context → Context) : (modCtx s n f).hostBad = s.hostBad := rfl
@[simp] theorem modCtx_cap (s : State) (n : Nat) (f : Context → Context) : (modCtx s n f).cap = s.cap := rfl
@[simp] theorem modCtx_samples (s : State) (n : Nat) (f : Context → Context) : (modCtx s n f).samples = s.samples := rfl
@[simp] theorem modCtx_sampleAt (s : State) (n : Nat) (f : Context → Context) : (modCtx s n f).sampleAt = s.sampleAt := rfl
@[simp] theorem modCtx_stretch (s : State) (n : Nat) (f : Context → Context) : (modCtx s n f).stretch = s.stretch := rfl
@[simp] theorem modCtx_fwActive (s : State) (n : Nat) (f : Context → Context) : (modCtx s n f).fwActive = s.fwActive := rfl
@[simp] theorem modCtx_fwStaged (s : State) (n : Nat) (f : Context → Context) : (modCtx s n f).fwStaged = s.fwStaged := rfl
@[simp] theorem modCtx_fwUp (s : State) (n : Nat) (f : Context → Context) : (modCtx s n f).fwUp = s.fwUp := rfl
@[simp] theorem modCtx_recal (s : State) (n : Nat) (f : Context → Context) : (modCtx s n f).recal = s.recal := rfl
@[simp] theorem modCtx_fabrics (s : State) (n : Nat) (f : Context → Context) : (modCtx s n f).fabrics = s.fabrics := rfl
@[simp] theorem modCtx_sent (s : State) (n : Nat) (f : Context → Context) : (modCtx s n f).sent = s.sent := rfl
@[simp] theorem modCtx_alerts (s : State) (n : Nat) (f : Context → Context) : (modCtx s n f).alerts = s.alerts := rfl
@[simp] theorem modCtx_nextUid (s : State) (n : Nat) (f : Context → Context) : (modCtx s n f).nextUid = s.nextUid := rfl
@[simp] theorem modCtx_nextCmd (s : State) (n : Nat) (f : Context → Context) : (modCtx s n f).nextCmd = s.nextCmd := rfl
@[simp] theorem modCtx_nextStamp (s : State) (n : Nat) (f : Context → Context) : (modCtx s n f).nextStamp = s.nextStamp := rfl
@[simp] theorem modCtx_nextAge (s : State) (n : Nat) (f : Context → Context) : (modCtx s n f).nextAge = s.nextAge := rfl
@[simp] theorem modCtx_nextTag (s : State) (n : Nat) (f : Context → Context) : (modCtx s n f).nextTag = s.nextTag := rfl
@[simp] theorem modCtx_nextLaunch (s : State) (n : Nat) (f : Context → Context) : (modCtx s n f).nextLaunch = s.nextLaunch := rfl
@[simp] theorem modCtx_cur (s : State) (n : Nat) (f : Context → Context) : (modCtx s n f).cur = s.cur := rfl
@[simp] theorem modCtx_request (s : State) (n : Nat) (f : Context → Context) : (modCtx s n f).request = s.request := rfl
@[simp] theorem modCtx_message (s : State) (n : Nat) (f : Context → Context) : (modCtx s n f).message = s.message := rfl
@[simp] theorem modCtx_stalled (s : State) (n : Nat) (f : Context → Context) : (modCtx s n f).stalled = s.stalled := rfl
@[simp] theorem modCtx_agenda (s : State) (n : Nat) (f : Context → Context) : (modCtx s n f).agenda = s.agenda := rfl
@[simp] theorem modCtx_rr (s : State) (n : Nat) (f : Context → Context) : (modCtx s n f).rr = s.rr := rfl
@[simp] theorem modCtx_free (s : State) (n : Nat) (f : Context → Context) : (modCtx s n f).free = s.free := rfl
@[simp] theorem crewOf_modCtx (s : State) (n : Nat) (f : Context → Context) (v : Nat) : crewOf (modCtx s n f) v = crewOf s v := rfl
@[simp] theorem teamOf_modCtx (s : State) (n : Nat) (f : Context → Context) (v : Nat) : teamOf (modCtx s n f) v = teamOf s v := rfl
@[simp] theorem launchOf_modCtx (s : State) (n : Nat) (f : Context → Context) (v : Nat) : launchOf (modCtx s n f) v = launchOf s v := rfl
@[simp] theorem devOf_modCtx (s : State) (n : Nat) (f : Context → Context) (v : Nat) : devOf (modCtx s n f) v = devOf s v := rfl
@[simp] theorem dieOf_modCtx (s : State) (n : Nat) (f : Context → Context) (v : Nat) : dieOf (modCtx s n f) v = dieOf s v := rfl
@[simp] theorem fabricOf_modCtx (s : State) (n : Nat) (f : Context → Context) (v : Nat) : fabricOf (modCtx s n f) v = fabricOf s v := rfl
@[simp] theorem coreAt_modCtx (s : State) (n : Nat) (f : Context → Context) (v w : Nat) : coreAt (modCtx s n f) v w = coreAt s v w := rfl

/-! ## Reading back -/

@[simp] theorem crewOf_putCrew (s : State) (n v : Nat) (c : Crew) : crewOf (putCrew s n c) v = if v = n then some c else crewOf s v :=
  kget_kset _ _ _ _
@[simp] theorem teamOf_putTeam (s : State) (n v : Nat) (t : Team) : teamOf (putTeam s n t) v = if v = n then some t else teamOf s v :=
  kget_kset _ _ _ _
@[simp] theorem launchOf_putLaunch (s : State) (n v : Nat) (l : Launch) : launchOf (putLaunch s n l) v = if v = n then some l else launchOf s v :=
  kget_kset _ _ _ _
@[simp] theorem crewOf_modCrew (s : State) (n v : Nat) (f : Crew → Crew) :
    crewOf (modCrew s n f) v = if v = n then (crewOf s n).map f else crewOf s v := kget_kmod _ _ _ _
@[simp] theorem teamOf_modTeam (s : State) (n v : Nat) (f : Team → Team) :
    teamOf (modTeam s n f) v = if v = n then (teamOf s n).map f else teamOf s v := kget_kmod _ _ _ _
@[simp] theorem launchOf_modLaunch (s : State) (n v : Nat) (f : Launch → Launch) :
    launchOf (modLaunch s n f) v = if v = n then (launchOf s n).map f else launchOf s v := kget_kmod _ _ _ _
@[simp] theorem ctxOf_modCtx (s : State) (n v : Nat) (f : Context → Context) :
    ctxOf (modCtx s n f) v = if v = n then (ctxOf s n).map f else ctxOf s v := kget_kmod _ _ _ _

@[simp] theorem vget_vmod {α : Type} {n : Nat} (v : Vector α n) (i j : Nat) (f : α → α) (d : α) :
    vget (vmod v i f) j d = if j = i ∧ i < n then f (vget v i d) else vget v j d := by
  unfold vget vmod
  by_cases hi : i < n
  · by_cases hj : j < n
    · by_cases e : j = i
      · subst e; simp [hi]
      · simp [hi, hj, e, Ne.symm e]
    · have e : j ≠ i := by omega
      simp [hi, hj, e]
  · simp [hi]

@[simp] theorem devOf_modDev (s : State) (n v : Nat) (f : DevSt → DevSt) :
    devOf (modDev s n f) v = if v = n ∧ n < 3 then f (devOf s n) else devOf s v := vget_vmod _ _ _ _ _
@[simp] theorem dieOf_modDie (s : State) (n v : Nat) (f : DieSt → DieSt) :
    dieOf (modDie s n f) v = if v = n ∧ n < 2 then f (dieOf s n) else dieOf s v := vget_vmod _ _ _ _ _
@[simp] theorem fabricOf_modFabric (s : State) (n v : Nat) (f : FabricSt → FabricSt) :
    fabricOf (modFabric s n f) v = if v = n ∧ n < 3 then f (fabricOf s n) else fabricOf s v := vget_vmod _ _ _ _ _

/-! ## The counter of free values -/

@[simp] theorem takeFree_reftime (s : State) : (takeFree s).1.reftime = s.reftime := rfl
@[simp] theorem takeFree_mem (s : State) : (takeFree s).1.mem = s.mem := rfl
@[simp] theorem takeFree_poison (s : State) : (takeFree s).1.poison = s.poison := rfl
@[simp] theorem takeFree_errors (s : State) : (takeFree s).1.errors = s.errors := rfl
@[simp] theorem takeFree_corrected (s : State) : (takeFree s).1.corrected = s.corrected := rfl
@[simp] theorem takeFree_spares (s : State) : (takeFree s).1.spares = s.spares := rfl
@[simp] theorem takeFree_codeErr (s : State) : (takeFree s).1.codeErr = s.codeErr := rfl
@[simp] theorem takeFree_retired (s : State) : (takeFree s).1.retired = s.retired := rfl
@[simp] theorem takeFree_rowWork (s : State) : (takeFree s).1.rowWork = s.rowWork := rfl
@[simp] theorem takeFree_dies (s : State) : (takeFree s).1.dies = s.dies := rfl
@[simp] theorem takeFree_cores (s : State) : (takeFree s).1.cores = s.cores := rfl
@[simp] theorem takeFree_crews (s : State) : (takeFree s).1.crews = s.crews := rfl
@[simp] theorem takeFree_teams (s : State) : (takeFree s).1.teams = s.teams := rfl
@[simp] theorem takeFree_saved (s : State) : (takeFree s).1.saved = s.saved := rfl
@[simp] theorem takeFree_launches (s : State) : (takeFree s).1.launches = s.launches := rfl
@[simp] theorem takeFree_contexts (s : State) : (takeFree s).1.contexts = s.contexts := rfl
@[simp] theorem takeFree_devs (s : State) : (takeFree s).1.devs = s.devs := rfl
@[simp] theorem takeFree_mode (s : State) : (takeFree s).1.mode = s.mode := rfl
@[simp] theorem takeFree_fatal (s : State) : (takeFree s).1.fatal = s.fatal := rfl
@[simp] theorem takeFree_stopped (s : State) : (takeFree s).1.stopped = s.stopped := rfl
@[simp] theorem takeFree_xtmo (s : State) : (takeFree s).1.xtmo = s.xtmo := rfl
@[simp] theorem takeFree_late (s : State) : (takeFree s).1.late = s.late := rfl
@[simp] theorem takeFree_cxlFailed (s : State) : (takeFree s).1.cxlFailed = s.cxlFailed := rfl
@[simp] theorem takeFree_hostCxl (s : State) : (takeFree s).1.hostCxl = s.hostCxl := rfl
@[simp] theorem takeFree_cxlWindow (s : State) : (takeFree s).1.cxlWindow = s.cxlWindow := rfl
@[simp] theorem takeFree_hostRead (s : State) : (takeFree s).1.hostRead = s.hostRead := rfl
@[simp] theorem takeFree_hostBad (s : State) : (takeFree s).1.hostBad = s.hostBad := rfl
@[simp] theorem takeFree_cap (s : State) : (takeFree s).1.cap = s.cap := rfl
@[simp] theorem takeFree_samples (s : State) : (takeFree s).1.samples = s.samples := rfl
@[simp] theorem takeFree_sampleAt (s : State) : (takeFree s).1.sampleAt = s.sampleAt := rfl
@[simp] theorem takeFree_stretch (s : State) : (takeFree s).1.stretch = s.stretch := rfl
@[simp] theorem takeFree_fwActive (s : State) : (takeFree s).1.fwActive = s.fwActive := rfl
@[simp] theorem takeFree_fwStaged (s : State) : (takeFree s).1.fwStaged = s.fwStaged := rfl
@[simp] theorem takeFree_fwUp (s : State) : (takeFree s).1.fwUp = s.fwUp := rfl
@[simp] theorem takeFree_recal (s : State) : (takeFree s).1.recal = s.recal := rfl
@[simp] theorem takeFree_fabrics (s : State) : (takeFree s).1.fabrics = s.fabrics := rfl
@[simp] theorem takeFree_sent (s : State) : (takeFree s).1.sent = s.sent := rfl
@[simp] theorem takeFree_alerts (s : State) : (takeFree s).1.alerts = s.alerts := rfl
@[simp] theorem takeFree_nextUid (s : State) : (takeFree s).1.nextUid = s.nextUid := rfl
@[simp] theorem takeFree_nextCmd (s : State) : (takeFree s).1.nextCmd = s.nextCmd := rfl
@[simp] theorem takeFree_nextStamp (s : State) : (takeFree s).1.nextStamp = s.nextStamp := rfl
@[simp] theorem takeFree_nextAge (s : State) : (takeFree s).1.nextAge = s.nextAge := rfl
@[simp] theorem takeFree_nextTag (s : State) : (takeFree s).1.nextTag = s.nextTag := rfl
@[simp] theorem takeFree_nextLaunch (s : State) : (takeFree s).1.nextLaunch = s.nextLaunch := rfl
@[simp] theorem takeFree_cur (s : State) : (takeFree s).1.cur = s.cur := rfl
@[simp] theorem takeFree_request (s : State) : (takeFree s).1.request = s.request := rfl
@[simp] theorem takeFree_message (s : State) : (takeFree s).1.message = s.message := rfl
@[simp] theorem takeFree_stalled (s : State) : (takeFree s).1.stalled = s.stalled := rfl
@[simp] theorem takeFree_agenda (s : State) : (takeFree s).1.agenda = s.agenda := rfl
@[simp] theorem takeFree_rr (s : State) : (takeFree s).1.rr = s.rr := rfl

/-! ## Updates of a crew -/

@[simp] theorem Crew.ws_uid (c : Crew) (r : SReg) (x : W64) : (c.ws r x).uid = c.uid := by unfold Crew.ws; split <;> rfl
@[simp] theorem Crew.ws_team (c : Crew) (r : SReg) (x : W64) : (c.ws r x).team = c.team := by unfold Crew.ws; split <;> rfl
@[simp] theorem Crew.ws_index (c : Crew) (r : SReg) (x : W64) : (c.ws r x).index = c.index := by unfold Crew.ws; split <;> rfl
@[simp] theorem Crew.ws_die (c : Crew) (r : SReg) (x : W64) : (c.ws r x).die = c.die := by unfold Crew.ws; split <;> rfl
@[simp] theorem Crew.ws_core (c : Crew) (r : SReg) (x : W64) : (c.ws r x).core = c.core := by unfold Crew.ws; split <;> rfl
@[simp] theorem Crew.ws_slot (c : Crew) (r : SReg) (x : W64) : (c.ws r x).slot = c.slot := by unfold Crew.ws; split <;> rfl
@[simp] theorem Crew.ws_role (c : Crew) (r : SReg) (x : W64) : (c.ws r x).role = c.role := by unfold Crew.ws; split <;> rfl
@[simp] theorem Crew.ws_fast (c : Crew) (r : SReg) (x : W64) : (c.ws r x).fast = c.fast := by unfold Crew.ws; split <;> rfl
@[simp] theorem Crew.ws_slow (c : Crew) (r : SReg) (x : W64) : (c.ws r x).slow = c.slow := by unfold Crew.ws; split <;> rfl
@[simp] theorem Crew.ws_st (c : Crew) (r : SReg) (x : W64) : (c.ws r x).st = c.st := by unfold Crew.ws; split <;> rfl
@[simp] theorem Crew.ws_reqLeft (c : Crew) (r : SReg) (x : W64) : (c.ws r x).reqLeft = c.reqLeft := by unfold Crew.ws; split <;> rfl
@[simp] theorem Crew.ws_spc (c : Crew) (r : SReg) (x : W64) : (c.ws r x).spc = c.spc := by unfold Crew.ws; split <;> rfl
@[simp] theorem Crew.ws_v (c : Crew) (r : SReg) (x : W64) : (c.ws r x).v = c.v := by unfold Crew.ws; split <;> rfl
@[simp] theorem Crew.ws_p (c : Crew) (r : SReg) (x : W64) : (c.ws r x).p = c.p := by unfold Crew.ws; split <;> rfl
@[simp] theorem Crew.ws_t (c : Crew) (r : SReg) (x : W64) : (c.ws r x).t = c.t := by unfold Crew.ws; split <;> rfl
@[simp] theorem Crew.ws_astat (c : Crew) (r : SReg) (x : W64) : (c.ws r x).astat = c.astat := by unfold Crew.ws; split <;> rfl
@[simp] theorem Crew.ws_skew (c : Crew) (r : SReg) (x : W64) : (c.ws r x).skew = c.skew := by unfold Crew.ws; split <;> rfl
@[simp] theorem Crew.ws_tscr (c : Crew) (r : SReg) (x : W64) : (c.ws r x).tscr = c.tscr := by unfold Crew.ws; split <;> rfl
@[simp] theorem Crew.ws_tcause (c : Crew) (r : SReg) (x : W64) : (c.ws r x).tcause = c.tcause := by unfold Crew.ws; split <;> rfl
@[simp] theorem Crew.ws_tspc (c : Crew) (r : SReg) (x : W64) : (c.ws r x).tspc = c.tspc := by unfold Crew.ws; split <;> rfl
@[simp] theorem Crew.ws_tlpc (c : Crew) (r : SReg) (x : W64) : (c.ws r x).tlpc = c.tlpc := by unfold Crew.ws; split <;> rfl
@[simp] theorem Crew.ws_texec (c : Crew) (r : SReg) (x : W64) : (c.ws r x).texec = c.texec := by unfold Crew.ws; split <;> rfl
@[simp] theorem Crew.ws_tfmask (c : Crew) (r : SReg) (x : W64) : (c.ws r x).tfmask = c.tfmask := by unfold Crew.ws; split <;> rfl
@[simp] theorem Crew.ws_tinfo (c : Crew) (r : SReg) (x : W64) : (c.ws r x).tinfo = c.tinfo := by unfold Crew.ws; split <;> rfl
@[simp] theorem Crew.ws_taddr (c : Crew) (r : SReg) (x : W64) : (c.ws r x).taddr = c.taddr := by unfold Crew.ws; split <;> rfl
@[simp] theorem Crew.ws_tvec (c : Crew) (r : SReg) (x : W64) : (c.ws r x).tvec = c.tvec := by unfold Crew.ws; split <;> rfl
@[simp] theorem Crew.ws_tword (c : Crew) (r : SReg) (x : W64) : (c.ws r x).tword = c.tword := by unfold Crew.ws; split <;> rfl
@[simp] theorem Crew.ws_tsplit (c : Crew) (r : SReg) (x : W64) : (c.ws r x).tsplit = c.tsplit := by unfold Crew.ws; split <;> rfl
@[simp] theorem Crew.ws_cc (c : Crew) (r : SReg) (x : W64) : (c.ws r x).cc = c.cc := by unfold Crew.ws; split <;> rfl
@[simp] theorem Crew.ws_firing (c : Crew) (r : SReg) (x : W64) : (c.ws r x).firing = c.firing := by unfold Crew.ws; split <;> rfl
@[simp] theorem Crew.ws_laneQ (c : Crew) (r : SReg) (x : W64) : (c.ws r x).laneQ = c.laneQ := by unfold Crew.ws; split <;> rfl
@[simp] theorem Crew.ws_nextBlock (c : Crew) (r : SReg) (x : W64) : (c.ws r x).nextBlock = c.nextBlock := by unfold Crew.ws; split <;> rfl
@[simp] theorem Crew.ws_synced (c : Crew) (r : SReg) (x : W64) : (c.ws r x).synced = c.synced := by unfold Crew.ws; split <;> rfl
@[simp] theorem Crew.ws_fences (c : Crew) (r : SReg) (x : W64) : (c.ws r x).fences = c.fences := by unfold Crew.ws; split <;> rfl
@[simp] theorem Crew.ws_div (c : Crew) (r : SReg) (x : W64) : (c.ws r x).div = c.div := by unfold Crew.ws; split <;> rfl
@[simp] theorem Crew.ws_handler (c : Crew) (r : SReg) (x : W64) : (c.ws r x).handler = c.handler := by unfold Crew.ws; split <;> rfl
@[simp] theorem Crew.ws_frozen (c : Crew) (r : SReg) (x : W64) : (c.ws r x).frozen = c.frozen := by unfold Crew.ws; split <;> rfl
@[simp] theorem Crew.ws_trapping (c : Crew) (r : SReg) (x : W64) : (c.ws r x).trapping = c.trapping := by unfold Crew.ws; split <;> rfl
@[simp] theorem Crew.ws_loads (c : Crew) (r : SReg) (x : W64) : (c.ws r x).loads = c.loads := by unfold Crew.ws; split <;> rfl
@[simp] theorem Crew.ws_storeQ (c : Crew) (r : SReg) (x : W64) : (c.ws r x).storeQ = c.storeQ := by unfold Crew.ws; split <;> rfl
@[simp] theorem Crew.ws_sideLog (c : Crew) (r : SReg) (x : W64) : (c.ws r x).sideLog = c.sideLog := by unfold Crew.ws; split <;> rfl
@[simp] theorem Crew.ws_discard (c : Crew) (r : SReg) (x : W64) : (c.ws r x).discard = c.discard := by unfold Crew.ws; split <;> rfl
@[simp] theorem Crew.ws_stamp (c : Crew) (r : SReg) (x : W64) : (c.ws r x).stamp = c.stamp := by unfold Crew.ws; split <;> rfl
@[simp] theorem Crew.ws_held (c : Crew) (r : SReg) (x : W64) : (c.ws r x).held = c.held := by unfold Crew.ws; split <;> rfl
@[simp] theorem Crew.ws_bpPass (c : Crew) (r : SReg) (x : W64) : (c.ws r x).bpPass = c.bpPass := by unfold Crew.ws; split <;> rfl
@[simp] theorem Crew.ws_fair (c : Crew) (r : SReg) (x : W64) : (c.ws r x).fair = c.fair := by unfold Crew.ws; split <;> rfl
@[simp] theorem Crew.ws_await (c : Crew) (r : SReg) (x : W64) : (c.ws r x).await = c.await := by unfold Crew.ws; split <;> rfl
@[simp] theorem Crew.ws_reply (c : Crew) (r : SReg) (x : W64) : (c.ws r x).reply = c.reply := by unfold Crew.ws; split <;> rfl
@[simp] theorem Crew.ws_cfence (c : Crew) (r : SReg) (x : W64) : (c.ws r x).cfence = c.cfence := by unfold Crew.ws; split <;> rfl
@[simp] theorem Crew.ws_constRead (c : Crew) (r : SReg) (x : W64) : (c.ws r x).constRead = c.constRead := by unfold Crew.ws; split <;> rfl
@[simp] theorem Crew.ws_fenceFlag (c : Crew) (r : SReg) (x : W64) : (c.ws r x).fenceFlag = c.fenceFlag := by unfold Crew.ws; split <;> rfl
@[simp] theorem Crew.ws_mma (c : Crew) (r : SReg) (x : W64) : (c.ws r x).mma = c.mma := by unfold Crew.ws; split <;> rfl
@[simp] theorem Crew.ws_capture (c : Crew) (r : SReg) (x : W64) : (c.ws r x).capture = c.capture := by unfold Crew.ws; split <;> rfl
@[simp] theorem Crew.ws_engineRegs (c : Crew) (r : SReg) (x : W64) : (c.ws r x).engineRegs = c.engineRegs := by unfold Crew.ws; split <;> rfl
@[simp] theorem Crew.ws_holds (c : Crew) (r : SReg) (x : W64) : (c.ws r x).holds = c.holds := by unfold Crew.ws; split <;> rfl

@[simp] theorem Crew.goto_uid (c : Crew) (i : Nat) : (c.goto i).uid = c.uid := rfl
@[simp] theorem Crew.goto_team (c : Crew) (i : Nat) : (c.goto i).team = c.team := rfl
@[simp] theorem Crew.goto_index (c : Crew) (i : Nat) : (c.goto i).index = c.index := rfl
@[simp] theorem Crew.goto_die (c : Crew) (i : Nat) : (c.goto i).die = c.die := rfl
@[simp] theorem Crew.goto_core (c : Crew) (i : Nat) : (c.goto i).core = c.core := rfl
@[simp] theorem Crew.goto_slot (c : Crew) (i : Nat) : (c.goto i).slot = c.slot := rfl
@[simp] theorem Crew.goto_role (c : Crew) (i : Nat) : (c.goto i).role = c.role := rfl
@[simp] theorem Crew.goto_fast (c : Crew) (i : Nat) : (c.goto i).fast = c.fast := rfl
@[simp] theorem Crew.goto_slow (c : Crew) (i : Nat) : (c.goto i).slow = c.slow := rfl
@[simp] theorem Crew.goto_st (c : Crew) (i : Nat) : (c.goto i).st = c.st := rfl
@[simp] theorem Crew.goto_reqLeft (c : Crew) (i : Nat) : (c.goto i).reqLeft = c.reqLeft := rfl
@[simp] theorem Crew.goto_s (c : Crew) (i : Nat) : (c.goto i).s = c.s := rfl
@[simp] theorem Crew.goto_v (c : Crew) (i : Nat) : (c.goto i).v = c.v := rfl
@[simp] theorem Crew.goto_p (c : Crew) (i : Nat) : (c.goto i).p = c.p := rfl
@[simp] theorem Crew.goto_t (c : Crew) (i : Nat) : (c.goto i).t = c.t := rfl
@[simp] theorem Crew.goto_astat (c : Crew) (i : Nat) : (c.goto i).astat = c.astat := rfl
@[simp] theorem Crew.goto_skew (c : Crew) (i : Nat) : (c.goto i).skew = c.skew := rfl
@[simp] theorem Crew.goto_tscr (c : Crew) (i : Nat) : (c.goto i).tscr = c.tscr := rfl
@[simp] theorem Crew.goto_tcause (c : Crew) (i : Nat) : (c.goto i).tcause = c.tcause := rfl
@[simp] theorem Crew.goto_tspc (c : Crew) (i : Nat) : (c.goto i).tspc = c.tspc := rfl
@[simp] theorem Crew.goto_tlpc (c : Crew) (i : Nat) : (c.goto i).tlpc = c.tlpc := rfl
@[simp] theorem Crew.goto_texec (c : Crew) (i : Nat) : (c.goto i).texec = c.texec := rfl
@[simp] theorem Crew.goto_tfmask (c : Crew) (i : Nat) : (c.goto i).tfmask = c.tfmask := rfl
@[simp] theorem Crew.goto_tinfo (c : Crew) (i : Nat) : (c.goto i).tinfo = c.tinfo := rfl
@[simp] theorem Crew.goto_taddr (c : Crew) (i : Nat) : (c.goto i).taddr = c.taddr := rfl
@[simp] theorem Crew.goto_tvec (c : Crew) (i : Nat) : (c.goto i).tvec = c.tvec := rfl
@[simp] theorem Crew.goto_tword (c : Crew) (i : Nat) : (c.goto i).tword = c.tword := rfl
@[simp] theorem Crew.goto_tsplit (c : Crew) (i : Nat) : (c.goto i).tsplit = c.tsplit := rfl
@[simp] theorem Crew.goto_cc (c : Crew) (i : Nat) : (c.goto i).cc = c.cc := rfl
@[simp] theorem Crew.goto_firing (c : Crew) (i : Nat) : (c.goto i).firing = c.firing := rfl
@[simp] theorem Crew.goto_laneQ (c : Crew) (i : Nat) : (c.goto i).laneQ = c.laneQ := rfl
@[simp] theorem Crew.goto_nextBlock (c : Crew) (i : Nat) : (c.goto i).nextBlock = c.nextBlock := rfl
@[simp] theorem Crew.goto_synced (c : Crew) (i : Nat) : (c.goto i).synced = c.synced := rfl
@[simp] theorem Crew.goto_fences (c : Crew) (i : Nat) : (c.goto i).fences = c.fences := rfl
@[simp] theorem Crew.goto_div (c : Crew) (i : Nat) : (c.goto i).div = c.div := rfl
@[simp] theorem Crew.goto_handler (c : Crew) (i : Nat) : (c.goto i).handler = c.handler := rfl
@[simp] theorem Crew.goto_frozen (c : Crew) (i : Nat) : (c.goto i).frozen = c.frozen := rfl
@[simp] theorem Crew.goto_trapping (c : Crew) (i : Nat) : (c.goto i).trapping = c.trapping := rfl
@[simp] theorem Crew.goto_loads (c : Crew) (i : Nat) : (c.goto i).loads = c.loads := rfl
@[simp] theorem Crew.goto_storeQ (c : Crew) (i : Nat) : (c.goto i).storeQ = c.storeQ := rfl
@[simp] theorem Crew.goto_sideLog (c : Crew) (i : Nat) : (c.goto i).sideLog = c.sideLog := rfl
@[simp] theorem Crew.goto_discard (c : Crew) (i : Nat) : (c.goto i).discard = c.discard := rfl
@[simp] theorem Crew.goto_stamp (c : Crew) (i : Nat) : (c.goto i).stamp = c.stamp := rfl
@[simp] theorem Crew.goto_fair (c : Crew) (i : Nat) : (c.goto i).fair = c.fair := rfl
@[simp] theorem Crew.goto_reply (c : Crew) (i : Nat) : (c.goto i).reply = c.reply := rfl
@[simp] theorem Crew.goto_cfence (c : Crew) (i : Nat) : (c.goto i).cfence = c.cfence := rfl
@[simp] theorem Crew.goto_constRead (c : Crew) (i : Nat) : (c.goto i).constRead = c.constRead := rfl
@[simp] theorem Crew.goto_fenceFlag (c : Crew) (i : Nat) : (c.goto i).fenceFlag = c.fenceFlag := rfl
@[simp] theorem Crew.goto_mma (c : Crew) (i : Nat) : (c.goto i).mma = c.mma := rfl
@[simp] theorem Crew.goto_capture (c : Crew) (i : Nat) : (c.goto i).capture = c.capture := rfl
@[simp] theorem Crew.goto_engineRegs (c : Crew) (i : Nat) : (c.goto i).engineRegs = c.engineRegs := rfl
@[simp] theorem Crew.goto_holds (c : Crew) (i : Nat) : (c.goto i).holds = c.holds := rfl

@[simp] theorem Crew.next_uid (c : Crew) : (c.next).uid = c.uid := rfl
@[simp] theorem Crew.next_team (c : Crew) : (c.next).team = c.team := rfl
@[simp] theorem Crew.next_index (c : Crew) : (c.next).index = c.index := rfl
@[simp] theorem Crew.next_die (c : Crew) : (c.next).die = c.die := rfl
@[simp] theorem Crew.next_core (c : Crew) : (c.next).core = c.core := rfl
@[simp] theorem Crew.next_slot (c : Crew) : (c.next).slot = c.slot := rfl
@[simp] theorem Crew.next_role (c : Crew) : (c.next).role = c.role := rfl
@[simp] theorem Crew.next_fast (c : Crew) : (c.next).fast = c.fast := rfl
@[simp] theorem Crew.next_slow (c : Crew) : (c.next).slow = c.slow := rfl
@[simp] theorem Crew.next_st (c : Crew) : (c.next).st = c.st := rfl
@[simp] theorem Crew.next_reqLeft (c : Crew) : (c.next).reqLeft = c.reqLeft := rfl
@[simp] theorem Crew.next_s (c : Crew) : (c.next).s = c.s := rfl
@[simp] theorem Crew.next_v (c : Crew) : (c.next).v = c.v := rfl
@[simp] theorem Crew.next_p (c : Crew) : (c.next).p = c.p := rfl
@[simp] theorem Crew.next_t (c : Crew) : (c.next).t = c.t := rfl
@[simp] theorem Crew.next_astat (c : Crew) : (c.next).astat = c.astat := rfl
@[simp] theorem Crew.next_skew (c : Crew) : (c.next).skew = c.skew := rfl
@[simp] theorem Crew.next_tscr (c : Crew) : (c.next).tscr = c.tscr := rfl
@[simp] theorem Crew.next_tcause (c : Crew) : (c.next).tcause = c.tcause := rfl
@[simp] theorem Crew.next_tspc (c : Crew) : (c.next).tspc = c.tspc := rfl
@[simp] theorem Crew.next_tlpc (c : Crew) : (c.next).tlpc = c.tlpc := rfl
@[simp] theorem Crew.next_texec (c : Crew) : (c.next).texec = c.texec := rfl
@[simp] theorem Crew.next_tfmask (c : Crew) : (c.next).tfmask = c.tfmask := rfl
@[simp] theorem Crew.next_tinfo (c : Crew) : (c.next).tinfo = c.tinfo := rfl
@[simp] theorem Crew.next_taddr (c : Crew) : (c.next).taddr = c.taddr := rfl
@[simp] theorem Crew.next_tvec (c : Crew) : (c.next).tvec = c.tvec := rfl
@[simp] theorem Crew.next_tword (c : Crew) : (c.next).tword = c.tword := rfl
@[simp] theorem Crew.next_tsplit (c : Crew) : (c.next).tsplit = c.tsplit := rfl
@[simp] theorem Crew.next_cc (c : Crew) : (c.next).cc = c.cc := rfl
@[simp] theorem Crew.next_firing (c : Crew) : (c.next).firing = c.firing := rfl
@[simp] theorem Crew.next_laneQ (c : Crew) : (c.next).laneQ = c.laneQ := rfl
@[simp] theorem Crew.next_nextBlock (c : Crew) : (c.next).nextBlock = c.nextBlock := rfl
@[simp] theorem Crew.next_synced (c : Crew) : (c.next).synced = c.synced := rfl
@[simp] theorem Crew.next_fences (c : Crew) : (c.next).fences = c.fences := rfl
@[simp] theorem Crew.next_div (c : Crew) : (c.next).div = c.div := rfl
@[simp] theorem Crew.next_handler (c : Crew) : (c.next).handler = c.handler := rfl
@[simp] theorem Crew.next_frozen (c : Crew) : (c.next).frozen = c.frozen := rfl
@[simp] theorem Crew.next_trapping (c : Crew) : (c.next).trapping = c.trapping := rfl
@[simp] theorem Crew.next_loads (c : Crew) : (c.next).loads = c.loads := rfl
@[simp] theorem Crew.next_storeQ (c : Crew) : (c.next).storeQ = c.storeQ := rfl
@[simp] theorem Crew.next_sideLog (c : Crew) : (c.next).sideLog = c.sideLog := rfl
@[simp] theorem Crew.next_discard (c : Crew) : (c.next).discard = c.discard := rfl
@[simp] theorem Crew.next_stamp (c : Crew) : (c.next).stamp = c.stamp := rfl
@[simp] theorem Crew.next_fair (c : Crew) : (c.next).fair = c.fair := rfl
@[simp] theorem Crew.next_reply (c : Crew) : (c.next).reply = c.reply := rfl
@[simp] theorem Crew.next_cfence (c : Crew) : (c.next).cfence = c.cfence := rfl
@[simp] theorem Crew.next_constRead (c : Crew) : (c.next).constRead = c.constRead := rfl
@[simp] theorem Crew.next_fenceFlag (c : Crew) : (c.next).fenceFlag = c.fenceFlag := rfl
@[simp] theorem Crew.next_mma (c : Crew) : (c.next).mma = c.mma := rfl
@[simp] theorem Crew.next_capture (c : Crew) : (c.next).capture = c.capture := rfl
@[simp] theorem Crew.next_engineRegs (c : Crew) : (c.next).engineRegs = c.engineRegs := rfl
@[simp] theorem Crew.next_holds (c : Crew) : (c.next).holds = c.holds := rfl

@[simp] theorem Crew.wv_uid (c : Crew) (n : Nat) (m : W64) (x : Lanes) : (c.wv n m x).uid = c.uid := rfl
@[simp] theorem Crew.wv_team (c : Crew) (n : Nat) (m : W64) (x : Lanes) : (c.wv n m x).team = c.team := rfl
@[simp] theorem Crew.wv_index (c : Crew) (n : Nat) (m : W64) (x : Lanes) : (c.wv n m x).index = c.index := rfl
@[simp] theorem Crew.wv_die (c : Crew) (n : Nat) (m : W64) (x : Lanes) : (c.wv n m x).die = c.die := rfl
@[simp] theorem Crew.wv_core (c : Crew) (n : Nat) (m : W64) (x : Lanes) : (c.wv n m x).core = c.core := rfl
@[simp] theorem Crew.wv_slot (c : Crew) (n : Nat) (m : W64) (x : Lanes) : (c.wv n m x).slot = c.slot := rfl
@[simp] theorem Crew.wv_role (c : Crew) (n : Nat) (m : W64) (x : Lanes) : (c.wv n m x).role = c.role := rfl
@[simp] theorem Crew.wv_fast (c : Crew) (n : Nat) (m : W64) (x : Lanes) : (c.wv n m x).fast = c.fast := rfl
@[simp] theorem Crew.wv_slow (c : Crew) (n : Nat) (m : W64) (x : Lanes) : (c.wv n m x).slow = c.slow := rfl
@[simp] theorem Crew.wv_st (c : Crew) (n : Nat) (m : W64) (x : Lanes) : (c.wv n m x).st = c.st := rfl
@[simp] theorem Crew.wv_reqLeft (c : Crew) (n : Nat) (m : W64) (x : Lanes) : (c.wv n m x).reqLeft = c.reqLeft := rfl
@[simp] theorem Crew.wv_spc (c : Crew) (n : Nat) (m : W64) (x : Lanes) : (c.wv n m x).spc = c.spc := rfl
@[simp] theorem Crew.wv_s (c : Crew) (n : Nat) (m : W64) (x : Lanes) : (c.wv n m x).s = c.s := rfl
@[simp] theorem Crew.wv_p (c : Crew) (n : Nat) (m : W64) (x : Lanes) : (c.wv n m x).p = c.p := rfl
@[simp] theorem Crew.wv_t (c : Crew) (n : Nat) (m : W64) (x : Lanes) : (c.wv n m x).t = c.t := rfl
@[simp] theorem Crew.wv_astat (c : Crew) (n : Nat) (m : W64) (x : Lanes) : (c.wv n m x).astat = c.astat := rfl
@[simp] theorem Crew.wv_skew (c : Crew) (n : Nat) (m : W64) (x : Lanes) : (c.wv n m x).skew = c.skew := rfl
@[simp] theorem Crew.wv_tscr (c : Crew) (n : Nat) (m : W64) (x : Lanes) : (c.wv n m x).tscr = c.tscr := rfl
@[simp] theorem Crew.wv_tcause (c : Crew) (n : Nat) (m : W64) (x : Lanes) : (c.wv n m x).tcause = c.tcause := rfl
@[simp] theorem Crew.wv_tspc (c : Crew) (n : Nat) (m : W64) (x : Lanes) : (c.wv n m x).tspc = c.tspc := rfl
@[simp] theorem Crew.wv_tlpc (c : Crew) (n : Nat) (m : W64) (x : Lanes) : (c.wv n m x).tlpc = c.tlpc := rfl
@[simp] theorem Crew.wv_texec (c : Crew) (n : Nat) (m : W64) (x : Lanes) : (c.wv n m x).texec = c.texec := rfl
@[simp] theorem Crew.wv_tfmask (c : Crew) (n : Nat) (m : W64) (x : Lanes) : (c.wv n m x).tfmask = c.tfmask := rfl
@[simp] theorem Crew.wv_tinfo (c : Crew) (n : Nat) (m : W64) (x : Lanes) : (c.wv n m x).tinfo = c.tinfo := rfl
@[simp] theorem Crew.wv_taddr (c : Crew) (n : Nat) (m : W64) (x : Lanes) : (c.wv n m x).taddr = c.taddr := rfl
@[simp] theorem Crew.wv_tvec (c : Crew) (n : Nat) (m : W64) (x : Lanes) : (c.wv n m x).tvec = c.tvec := rfl
@[simp] theorem Crew.wv_tword (c : Crew) (n : Nat) (m : W64) (x : Lanes) : (c.wv n m x).tword = c.tword := rfl
@[simp] theorem Crew.wv_tsplit (c : Crew) (n : Nat) (m : W64) (x : Lanes) : (c.wv n m x).tsplit = c.tsplit := rfl
@[simp] theorem Crew.wv_cc (c : Crew) (n : Nat) (m : W64) (x : Lanes) : (c.wv n m x).cc = c.cc := rfl
@[simp] theorem Crew.wv_firing (c : Crew) (n : Nat) (m : W64) (x : Lanes) : (c.wv n m x).firing = c.firing := rfl
@[simp] theorem Crew.wv_laneQ (c : Crew) (n : Nat) (m : W64) (x : Lanes) : (c.wv n m x).laneQ = c.laneQ := rfl
@[simp] theorem Crew.wv_nextBlock (c : Crew) (n : Nat) (m : W64) (x : Lanes) : (c.wv n m x).nextBlock = c.nextBlock := rfl
@[simp] theorem Crew.wv_synced (c : Crew) (n : Nat) (m : W64) (x : Lanes) : (c.wv n m x).synced = c.synced := rfl
@[simp] theorem Crew.wv_fences (c : Crew) (n : Nat) (m : W64) (x : Lanes) : (c.wv n m x).fences = c.fences := rfl
@[simp] theorem Crew.wv_div (c : Crew) (n : Nat) (m : W64) (x : Lanes) : (c.wv n m x).div = c.div := rfl
@[simp] theorem Crew.wv_handler (c : Crew) (n : Nat) (m : W64) (x : Lanes) : (c.wv n m x).handler = c.handler := rfl
@[simp] theorem Crew.wv_frozen (c : Crew) (n : Nat) (m : W64) (x : Lanes) : (c.wv n m x).frozen = c.frozen := rfl
@[simp] theorem Crew.wv_trapping (c : Crew) (n : Nat) (m : W64) (x : Lanes) : (c.wv n m x).trapping = c.trapping := rfl
@[simp] theorem Crew.wv_loads (c : Crew) (n : Nat) (m : W64) (x : Lanes) : (c.wv n m x).loads = c.loads := rfl
@[simp] theorem Crew.wv_storeQ (c : Crew) (n : Nat) (m : W64) (x : Lanes) : (c.wv n m x).storeQ = c.storeQ := rfl
@[simp] theorem Crew.wv_sideLog (c : Crew) (n : Nat) (m : W64) (x : Lanes) : (c.wv n m x).sideLog = c.sideLog := rfl
@[simp] theorem Crew.wv_discard (c : Crew) (n : Nat) (m : W64) (x : Lanes) : (c.wv n m x).discard = c.discard := rfl
@[simp] theorem Crew.wv_stamp (c : Crew) (n : Nat) (m : W64) (x : Lanes) : (c.wv n m x).stamp = c.stamp := rfl
@[simp] theorem Crew.wv_held (c : Crew) (n : Nat) (m : W64) (x : Lanes) : (c.wv n m x).held = c.held := rfl
@[simp] theorem Crew.wv_bpPass (c : Crew) (n : Nat) (m : W64) (x : Lanes) : (c.wv n m x).bpPass = c.bpPass := rfl
@[simp] theorem Crew.wv_fair (c : Crew) (n : Nat) (m : W64) (x : Lanes) : (c.wv n m x).fair = c.fair := rfl
@[simp] theorem Crew.wv_await (c : Crew) (n : Nat) (m : W64) (x : Lanes) : (c.wv n m x).await = c.await := rfl
@[simp] theorem Crew.wv_reply (c : Crew) (n : Nat) (m : W64) (x : Lanes) : (c.wv n m x).reply = c.reply := rfl
@[simp] theorem Crew.wv_cfence (c : Crew) (n : Nat) (m : W64) (x : Lanes) : (c.wv n m x).cfence = c.cfence := rfl
@[simp] theorem Crew.wv_constRead (c : Crew) (n : Nat) (m : W64) (x : Lanes) : (c.wv n m x).constRead = c.constRead := rfl
@[simp] theorem Crew.wv_fenceFlag (c : Crew) (n : Nat) (m : W64) (x : Lanes) : (c.wv n m x).fenceFlag = c.fenceFlag := rfl
@[simp] theorem Crew.wv_mma (c : Crew) (n : Nat) (m : W64) (x : Lanes) : (c.wv n m x).mma = c.mma := rfl
@[simp] theorem Crew.wv_capture (c : Crew) (n : Nat) (m : W64) (x : Lanes) : (c.wv n m x).capture = c.capture := rfl
@[simp] theorem Crew.wv_engineRegs (c : Crew) (n : Nat) (m : W64) (x : Lanes) : (c.wv n m x).engineRegs = c.engineRegs := rfl
@[simp] theorem Crew.wv_holds (c : Crew) (n : Nat) (m : W64) (x : Lanes) : (c.wv n m x).holds = c.holds := rfl

@[simp] theorem Crew.wp_uid (c : Crew) (n : Nat) (m x : W64) : (c.wp n m x).uid = c.uid := by unfold Crew.wp; split <;> rfl
@[simp] theorem Crew.wp_team (c : Crew) (n : Nat) (m x : W64) : (c.wp n m x).team = c.team := by unfold Crew.wp; split <;> rfl
@[simp] theorem Crew.wp_index (c : Crew) (n : Nat) (m x : W64) : (c.wp n m x).index = c.index := by unfold Crew.wp; split <;> rfl
@[simp] theorem Crew.wp_die (c : Crew) (n : Nat) (m x : W64) : (c.wp n m x).die = c.die := by unfold Crew.wp; split <;> rfl
@[simp] theorem Crew.wp_core (c : Crew) (n : Nat) (m x : W64) : (c.wp n m x).core = c.core := by unfold Crew.wp; split <;> rfl
@[simp] theorem Crew.wp_slot (c : Crew) (n : Nat) (m x : W64) : (c.wp n m x).slot = c.slot := by unfold Crew.wp; split <;> rfl
@[simp] theorem Crew.wp_role (c : Crew) (n : Nat) (m x : W64) : (c.wp n m x).role = c.role := by unfold Crew.wp; split <;> rfl
@[simp] theorem Crew.wp_fast (c : Crew) (n : Nat) (m x : W64) : (c.wp n m x).fast = c.fast := by unfold Crew.wp; split <;> rfl
@[simp] theorem Crew.wp_slow (c : Crew) (n : Nat) (m x : W64) : (c.wp n m x).slow = c.slow := by unfold Crew.wp; split <;> rfl
@[simp] theorem Crew.wp_st (c : Crew) (n : Nat) (m x : W64) : (c.wp n m x).st = c.st := by unfold Crew.wp; split <;> rfl
@[simp] theorem Crew.wp_reqLeft (c : Crew) (n : Nat) (m x : W64) : (c.wp n m x).reqLeft = c.reqLeft := by unfold Crew.wp; split <;> rfl
@[simp] theorem Crew.wp_spc (c : Crew) (n : Nat) (m x : W64) : (c.wp n m x).spc = c.spc := by unfold Crew.wp; split <;> rfl
@[simp] theorem Crew.wp_s (c : Crew) (n : Nat) (m x : W64) : (c.wp n m x).s = c.s := by unfold Crew.wp; split <;> rfl
@[simp] theorem Crew.wp_v (c : Crew) (n : Nat) (m x : W64) : (c.wp n m x).v = c.v := by unfold Crew.wp; split <;> rfl
@[simp] theorem Crew.wp_t (c : Crew) (n : Nat) (m x : W64) : (c.wp n m x).t = c.t := by unfold Crew.wp; split <;> rfl
@[simp] theorem Crew.wp_astat (c : Crew) (n : Nat) (m x : W64) : (c.wp n m x).astat = c.astat := by unfold Crew.wp; split <;> rfl
@[simp] theorem Crew.wp_skew (c : Crew) (n : Nat) (m x : W64) : (c.wp n m x).skew = c.skew := by unfold Crew.wp; split <;> rfl
@[simp] theorem Crew.wp_tscr (c : Crew) (n : Nat) (m x : W64) : (c.wp n m x).tscr = c.tscr := by unfold Crew.wp; split <;> rfl
@[simp] theorem Crew.wp_tcause (c : Crew) (n : Nat) (m x : W64) : (c.wp n m x).tcause = c.tcause := by unfold Crew.wp; split <;> rfl
@[simp] theorem Crew.wp_tspc (c : Crew) (n : Nat) (m x : W64) : (c.wp n m x).tspc = c.tspc := by unfold Crew.wp; split <;> rfl
@[simp] theorem Crew.wp_tlpc (c : Crew) (n : Nat) (m x : W64) : (c.wp n m x).tlpc = c.tlpc := by unfold Crew.wp; split <;> rfl
@[simp] theorem Crew.wp_texec (c : Crew) (n : Nat) (m x : W64) : (c.wp n m x).texec = c.texec := by unfold Crew.wp; split <;> rfl
@[simp] theorem Crew.wp_tfmask (c : Crew) (n : Nat) (m x : W64) : (c.wp n m x).tfmask = c.tfmask := by unfold Crew.wp; split <;> rfl
@[simp] theorem Crew.wp_tinfo (c : Crew) (n : Nat) (m x : W64) : (c.wp n m x).tinfo = c.tinfo := by unfold Crew.wp; split <;> rfl
@[simp] theorem Crew.wp_taddr (c : Crew) (n : Nat) (m x : W64) : (c.wp n m x).taddr = c.taddr := by unfold Crew.wp; split <;> rfl
@[simp] theorem Crew.wp_tvec (c : Crew) (n : Nat) (m x : W64) : (c.wp n m x).tvec = c.tvec := by unfold Crew.wp; split <;> rfl
@[simp] theorem Crew.wp_tword (c : Crew) (n : Nat) (m x : W64) : (c.wp n m x).tword = c.tword := by unfold Crew.wp; split <;> rfl
@[simp] theorem Crew.wp_tsplit (c : Crew) (n : Nat) (m x : W64) : (c.wp n m x).tsplit = c.tsplit := by unfold Crew.wp; split <;> rfl
@[simp] theorem Crew.wp_cc (c : Crew) (n : Nat) (m x : W64) : (c.wp n m x).cc = c.cc := by unfold Crew.wp; split <;> rfl
@[simp] theorem Crew.wp_firing (c : Crew) (n : Nat) (m x : W64) : (c.wp n m x).firing = c.firing := by unfold Crew.wp; split <;> rfl
@[simp] theorem Crew.wp_laneQ (c : Crew) (n : Nat) (m x : W64) : (c.wp n m x).laneQ = c.laneQ := by unfold Crew.wp; split <;> rfl
@[simp] theorem Crew.wp_nextBlock (c : Crew) (n : Nat) (m x : W64) : (c.wp n m x).nextBlock = c.nextBlock := by unfold Crew.wp; split <;> rfl
@[simp] theorem Crew.wp_synced (c : Crew) (n : Nat) (m x : W64) : (c.wp n m x).synced = c.synced := by unfold Crew.wp; split <;> rfl
@[simp] theorem Crew.wp_fences (c : Crew) (n : Nat) (m x : W64) : (c.wp n m x).fences = c.fences := by unfold Crew.wp; split <;> rfl
@[simp] theorem Crew.wp_div (c : Crew) (n : Nat) (m x : W64) : (c.wp n m x).div = c.div := by unfold Crew.wp; split <;> rfl
@[simp] theorem Crew.wp_handler (c : Crew) (n : Nat) (m x : W64) : (c.wp n m x).handler = c.handler := by unfold Crew.wp; split <;> rfl
@[simp] theorem Crew.wp_frozen (c : Crew) (n : Nat) (m x : W64) : (c.wp n m x).frozen = c.frozen := by unfold Crew.wp; split <;> rfl
@[simp] theorem Crew.wp_trapping (c : Crew) (n : Nat) (m x : W64) : (c.wp n m x).trapping = c.trapping := by unfold Crew.wp; split <;> rfl
@[simp] theorem Crew.wp_loads (c : Crew) (n : Nat) (m x : W64) : (c.wp n m x).loads = c.loads := by unfold Crew.wp; split <;> rfl
@[simp] theorem Crew.wp_storeQ (c : Crew) (n : Nat) (m x : W64) : (c.wp n m x).storeQ = c.storeQ := by unfold Crew.wp; split <;> rfl
@[simp] theorem Crew.wp_sideLog (c : Crew) (n : Nat) (m x : W64) : (c.wp n m x).sideLog = c.sideLog := by unfold Crew.wp; split <;> rfl
@[simp] theorem Crew.wp_discard (c : Crew) (n : Nat) (m x : W64) : (c.wp n m x).discard = c.discard := by unfold Crew.wp; split <;> rfl
@[simp] theorem Crew.wp_stamp (c : Crew) (n : Nat) (m x : W64) : (c.wp n m x).stamp = c.stamp := by unfold Crew.wp; split <;> rfl
@[simp] theorem Crew.wp_held (c : Crew) (n : Nat) (m x : W64) : (c.wp n m x).held = c.held := by unfold Crew.wp; split <;> rfl
@[simp] theorem Crew.wp_bpPass (c : Crew) (n : Nat) (m x : W64) : (c.wp n m x).bpPass = c.bpPass := by unfold Crew.wp; split <;> rfl
@[simp] theorem Crew.wp_fair (c : Crew) (n : Nat) (m x : W64) : (c.wp n m x).fair = c.fair := by unfold Crew.wp; split <;> rfl
@[simp] theorem Crew.wp_await (c : Crew) (n : Nat) (m x : W64) : (c.wp n m x).await = c.await := by unfold Crew.wp; split <;> rfl
@[simp] theorem Crew.wp_reply (c : Crew) (n : Nat) (m x : W64) : (c.wp n m x).reply = c.reply := by unfold Crew.wp; split <;> rfl
@[simp] theorem Crew.wp_cfence (c : Crew) (n : Nat) (m x : W64) : (c.wp n m x).cfence = c.cfence := by unfold Crew.wp; split <;> rfl
@[simp] theorem Crew.wp_constRead (c : Crew) (n : Nat) (m x : W64) : (c.wp n m x).constRead = c.constRead := by unfold Crew.wp; split <;> rfl
@[simp] theorem Crew.wp_fenceFlag (c : Crew) (n : Nat) (m x : W64) : (c.wp n m x).fenceFlag = c.fenceFlag := by unfold Crew.wp; split <;> rfl
@[simp] theorem Crew.wp_mma (c : Crew) (n : Nat) (m x : W64) : (c.wp n m x).mma = c.mma := by unfold Crew.wp; split <;> rfl
@[simp] theorem Crew.wp_capture (c : Crew) (n : Nat) (m x : W64) : (c.wp n m x).capture = c.capture := by unfold Crew.wp; split <;> rfl
@[simp] theorem Crew.wp_engineRegs (c : Crew) (n : Nat) (m x : W64) : (c.wp n m x).engineRegs = c.engineRegs := by unfold Crew.wp; split <;> rfl
@[simp] theorem Crew.wp_holds (c : Crew) (n : Nat) (m x : W64) : (c.wp n m x).holds = c.holds := by unfold Crew.wp; split <;> rfl

@[simp] theorem Crew.raiseFlags_uid (c : Crew) (n : Nat) : (c.raiseFlags n).uid = c.uid := rfl
@[simp] theorem Crew.raiseFlags_team (c : Crew) (n : Nat) : (c.raiseFlags n).team = c.team := rfl
@[simp] theorem Crew.raiseFlags_index (c : Crew) (n : Nat) : (c.raiseFlags n).index = c.index := rfl
@[simp] theorem Crew.raiseFlags_die (c : Crew) (n : Nat) : (c.raiseFlags n).die = c.die := rfl
@[simp] theorem Crew.raiseFlags_core (c : Crew) (n : Nat) : (c.raiseFlags n).core = c.core := rfl
@[simp] theorem Crew.raiseFlags_slot (c : Crew) (n : Nat) : (c.raiseFlags n).slot = c.slot := rfl
@[simp] theorem Crew.raiseFlags_role (c : Crew) (n : Nat) : (c.raiseFlags n).role = c.role := rfl
@[simp] theorem Crew.raiseFlags_fast (c : Crew) (n : Nat) : (c.raiseFlags n).fast = c.fast := rfl
@[simp] theorem Crew.raiseFlags_slow (c : Crew) (n : Nat) : (c.raiseFlags n).slow = c.slow := rfl
@[simp] theorem Crew.raiseFlags_st (c : Crew) (n : Nat) : (c.raiseFlags n).st = c.st := rfl
@[simp] theorem Crew.raiseFlags_reqLeft (c : Crew) (n : Nat) : (c.raiseFlags n).reqLeft = c.reqLeft := rfl
@[simp] theorem Crew.raiseFlags_spc (c : Crew) (n : Nat) : (c.raiseFlags n).spc = c.spc := rfl
@[simp] theorem Crew.raiseFlags_s (c : Crew) (n : Nat) : (c.raiseFlags n).s = c.s := rfl
@[simp] theorem Crew.raiseFlags_v (c : Crew) (n : Nat) : (c.raiseFlags n).v = c.v := rfl
@[simp] theorem Crew.raiseFlags_p (c : Crew) (n : Nat) : (c.raiseFlags n).p = c.p := rfl
@[simp] theorem Crew.raiseFlags_t (c : Crew) (n : Nat) : (c.raiseFlags n).t = c.t := rfl
@[simp] theorem Crew.raiseFlags_skew (c : Crew) (n : Nat) : (c.raiseFlags n).skew = c.skew := rfl
@[simp] theorem Crew.raiseFlags_tscr (c : Crew) (n : Nat) : (c.raiseFlags n).tscr = c.tscr := rfl
@[simp] theorem Crew.raiseFlags_tcause (c : Crew) (n : Nat) : (c.raiseFlags n).tcause = c.tcause := rfl
@[simp] theorem Crew.raiseFlags_tspc (c : Crew) (n : Nat) : (c.raiseFlags n).tspc = c.tspc := rfl
@[simp] theorem Crew.raiseFlags_tlpc (c : Crew) (n : Nat) : (c.raiseFlags n).tlpc = c.tlpc := rfl
@[simp] theorem Crew.raiseFlags_texec (c : Crew) (n : Nat) : (c.raiseFlags n).texec = c.texec := rfl
@[simp] theorem Crew.raiseFlags_tfmask (c : Crew) (n : Nat) : (c.raiseFlags n).tfmask = c.tfmask := rfl
@[simp] theorem Crew.raiseFlags_tinfo (c : Crew) (n : Nat) : (c.raiseFlags n).tinfo = c.tinfo := rfl
@[simp] theorem Crew.raiseFlags_taddr (c : Crew) (n : Nat) : (c.raiseFlags n).taddr = c.taddr := rfl
@[simp] theorem Crew.raiseFlags_tvec (c : Crew) (n : Nat) : (c.raiseFlags n).tvec = c.tvec := rfl
@[simp] theorem Crew.raiseFlags_tword (c : Crew) (n : Nat) : (c.raiseFlags n).tword = c.tword := rfl
@[simp] theorem Crew.raiseFlags_tsplit (c : Crew) (n : Nat) : (c.raiseFlags n).tsplit = c.tsplit := rfl
@[simp] theorem Crew.raiseFlags_cc (c : Crew) (n : Nat) : (c.raiseFlags n).cc = c.cc := rfl
@[simp] theorem Crew.raiseFlags_firing (c : Crew) (n : Nat) : (c.raiseFlags n).firing = c.firing := rfl
@[simp] theorem Crew.raiseFlags_laneQ (c : Crew) (n : Nat) : (c.raiseFlags n).laneQ = c.laneQ := rfl
@[simp] theorem Crew.raiseFlags_nextBlock (c : Crew) (n : Nat) : (c.raiseFlags n).nextBlock = c.nextBlock := rfl
@[simp] theorem Crew.raiseFlags_synced (c : Crew) (n : Nat) : (c.raiseFlags n).synced = c.synced := rfl
@[simp] theorem Crew.raiseFlags_fences (c : Crew) (n : Nat) : (c.raiseFlags n).fences = c.fences := rfl
@[simp] theorem Crew.raiseFlags_div (c : Crew) (n : Nat) : (c.raiseFlags n).div = c.div := rfl
@[simp] theorem Crew.raiseFlags_handler (c : Crew) (n : Nat) : (c.raiseFlags n).handler = c.handler := rfl
@[simp] theorem Crew.raiseFlags_frozen (c : Crew) (n : Nat) : (c.raiseFlags n).frozen = c.frozen := rfl
@[simp] theorem Crew.raiseFlags_trapping (c : Crew) (n : Nat) : (c.raiseFlags n).trapping = c.trapping := rfl
@[simp] theorem Crew.raiseFlags_loads (c : Crew) (n : Nat) : (c.raiseFlags n).loads = c.loads := rfl
@[simp] theorem Crew.raiseFlags_storeQ (c : Crew) (n : Nat) : (c.raiseFlags n).storeQ = c.storeQ := rfl
@[simp] theorem Crew.raiseFlags_sideLog (c : Crew) (n : Nat) : (c.raiseFlags n).sideLog = c.sideLog := rfl
@[simp] theorem Crew.raiseFlags_discard (c : Crew) (n : Nat) : (c.raiseFlags n).discard = c.discard := rfl
@[simp] theorem Crew.raiseFlags_stamp (c : Crew) (n : Nat) : (c.raiseFlags n).stamp = c.stamp := rfl
@[simp] theorem Crew.raiseFlags_held (c : Crew) (n : Nat) : (c.raiseFlags n).held = c.held := rfl
@[simp] theorem Crew.raiseFlags_bpPass (c : Crew) (n : Nat) : (c.raiseFlags n).bpPass = c.bpPass := rfl
@[simp] theorem Crew.raiseFlags_fair (c : Crew) (n : Nat) : (c.raiseFlags n).fair = c.fair := rfl
@[simp] theorem Crew.raiseFlags_await (c : Crew) (n : Nat) : (c.raiseFlags n).await = c.await := rfl
@[simp] theorem Crew.raiseFlags_reply (c : Crew) (n : Nat) : (c.raiseFlags n).reply = c.reply := rfl
@[simp] theorem Crew.raiseFlags_cfence (c : Crew) (n : Nat) : (c.raiseFlags n).cfence = c.cfence := rfl
@[simp] theorem Crew.raiseFlags_constRead (c : Crew) (n : Nat) : (c.raiseFlags n).constRead = c.constRead := rfl
@[simp] theorem Crew.raiseFlags_fenceFlag (c : Crew) (n : Nat) : (c.raiseFlags n).fenceFlag = c.fenceFlag := rfl
@[simp] theorem Crew.raiseFlags_mma (c : Crew) (n : Nat) : (c.raiseFlags n).mma = c.mma := rfl
@[simp] theorem Crew.raiseFlags_capture (c : Crew) (n : Nat) : (c.raiseFlags n).capture = c.capture := rfl
@[simp] theorem Crew.raiseFlags_engineRegs (c : Crew) (n : Nat) : (c.raiseFlags n).engineRegs = c.engineRegs := rfl
@[simp] theorem Crew.raiseFlags_holds (c : Crew) (n : Nat) : (c.raiseFlags n).holds = c.holds := rfl

@[simp] theorem Crew.writeAstat_uid (c : Crew) (x : W64) : (c.writeAstat x).uid = c.uid := rfl
@[simp] theorem Crew.writeAstat_team (c : Crew) (x : W64) : (c.writeAstat x).team = c.team := rfl
@[simp] theorem Crew.writeAstat_index (c : Crew) (x : W64) : (c.writeAstat x).index = c.index := rfl
@[simp] theorem Crew.writeAstat_die (c : Crew) (x : W64) : (c.writeAstat x).die = c.die := rfl
@[simp] theorem Crew.writeAstat_core (c : Crew) (x : W64) : (c.writeAstat x).core = c.core := rfl
@[simp] theorem Crew.writeAstat_slot (c : Crew) (x : W64) : (c.writeAstat x).slot = c.slot := rfl
@[simp] theorem Crew.writeAstat_role (c : Crew) (x : W64) : (c.writeAstat x).role = c.role := rfl
@[simp] theorem Crew.writeAstat_fast (c : Crew) (x : W64) : (c.writeAstat x).fast = c.fast := rfl
@[simp] theorem Crew.writeAstat_slow (c : Crew) (x : W64) : (c.writeAstat x).slow = c.slow := rfl
@[simp] theorem Crew.writeAstat_st (c : Crew) (x : W64) : (c.writeAstat x).st = c.st := rfl
@[simp] theorem Crew.writeAstat_reqLeft (c : Crew) (x : W64) : (c.writeAstat x).reqLeft = c.reqLeft := rfl
@[simp] theorem Crew.writeAstat_spc (c : Crew) (x : W64) : (c.writeAstat x).spc = c.spc := rfl
@[simp] theorem Crew.writeAstat_s (c : Crew) (x : W64) : (c.writeAstat x).s = c.s := rfl
@[simp] theorem Crew.writeAstat_v (c : Crew) (x : W64) : (c.writeAstat x).v = c.v := rfl
@[simp] theorem Crew.writeAstat_p (c : Crew) (x : W64) : (c.writeAstat x).p = c.p := rfl
@[simp] theorem Crew.writeAstat_t (c : Crew) (x : W64) : (c.writeAstat x).t = c.t := rfl
@[simp] theorem Crew.writeAstat_skew (c : Crew) (x : W64) : (c.writeAstat x).skew = c.skew := rfl
@[simp] theorem Crew.writeAstat_tscr (c : Crew) (x : W64) : (c.writeAstat x).tscr = c.tscr := rfl
@[simp] theorem Crew.writeAstat_tcause (c : Crew) (x : W64) : (c.writeAstat x).tcause = c.tcause := rfl
@[simp] theorem Crew.writeAstat_tspc (c : Crew) (x : W64) : (c.writeAstat x).tspc = c.tspc := rfl
@[simp] theorem Crew.writeAstat_tlpc (c : Crew) (x : W64) : (c.writeAstat x).tlpc = c.tlpc := rfl
@[simp] theorem Crew.writeAstat_texec (c : Crew) (x : W64) : (c.writeAstat x).texec = c.texec := rfl
@[simp] theorem Crew.writeAstat_tfmask (c : Crew) (x : W64) : (c.writeAstat x).tfmask = c.tfmask := rfl
@[simp] theorem Crew.writeAstat_tinfo (c : Crew) (x : W64) : (c.writeAstat x).tinfo = c.tinfo := rfl
@[simp] theorem Crew.writeAstat_taddr (c : Crew) (x : W64) : (c.writeAstat x).taddr = c.taddr := rfl
@[simp] theorem Crew.writeAstat_tvec (c : Crew) (x : W64) : (c.writeAstat x).tvec = c.tvec := rfl
@[simp] theorem Crew.writeAstat_tword (c : Crew) (x : W64) : (c.writeAstat x).tword = c.tword := rfl
@[simp] theorem Crew.writeAstat_tsplit (c : Crew) (x : W64) : (c.writeAstat x).tsplit = c.tsplit := rfl
@[simp] theorem Crew.writeAstat_cc (c : Crew) (x : W64) : (c.writeAstat x).cc = c.cc := rfl
@[simp] theorem Crew.writeAstat_firing (c : Crew) (x : W64) : (c.writeAstat x).firing = c.firing := rfl
@[simp] theorem Crew.writeAstat_laneQ (c : Crew) (x : W64) : (c.writeAstat x).laneQ = c.laneQ := rfl
@[simp] theorem Crew.writeAstat_nextBlock (c : Crew) (x : W64) : (c.writeAstat x).nextBlock = c.nextBlock := rfl
@[simp] theorem Crew.writeAstat_synced (c : Crew) (x : W64) : (c.writeAstat x).synced = c.synced := rfl
@[simp] theorem Crew.writeAstat_fences (c : Crew) (x : W64) : (c.writeAstat x).fences = c.fences := rfl
@[simp] theorem Crew.writeAstat_div (c : Crew) (x : W64) : (c.writeAstat x).div = c.div := rfl
@[simp] theorem Crew.writeAstat_handler (c : Crew) (x : W64) : (c.writeAstat x).handler = c.handler := rfl
@[simp] theorem Crew.writeAstat_frozen (c : Crew) (x : W64) : (c.writeAstat x).frozen = c.frozen := rfl
@[simp] theorem Crew.writeAstat_trapping (c : Crew) (x : W64) : (c.writeAstat x).trapping = c.trapping := rfl
@[simp] theorem Crew.writeAstat_loads (c : Crew) (x : W64) : (c.writeAstat x).loads = c.loads := rfl
@[simp] theorem Crew.writeAstat_storeQ (c : Crew) (x : W64) : (c.writeAstat x).storeQ = c.storeQ := rfl
@[simp] theorem Crew.writeAstat_sideLog (c : Crew) (x : W64) : (c.writeAstat x).sideLog = c.sideLog := rfl
@[simp] theorem Crew.writeAstat_discard (c : Crew) (x : W64) : (c.writeAstat x).discard = c.discard := rfl
@[simp] theorem Crew.writeAstat_stamp (c : Crew) (x : W64) : (c.writeAstat x).stamp = c.stamp := rfl
@[simp] theorem Crew.writeAstat_held (c : Crew) (x : W64) : (c.writeAstat x).held = c.held := rfl
@[simp] theorem Crew.writeAstat_bpPass (c : Crew) (x : W64) : (c.writeAstat x).bpPass = c.bpPass := rfl
@[simp] theorem Crew.writeAstat_fair (c : Crew) (x : W64) : (c.writeAstat x).fair = c.fair := rfl
@[simp] theorem Crew.writeAstat_await (c : Crew) (x : W64) : (c.writeAstat x).await = c.await := rfl
@[simp] theorem Crew.writeAstat_reply (c : Crew) (x : W64) : (c.writeAstat x).reply = c.reply := rfl
@[simp] theorem Crew.writeAstat_cfence (c : Crew) (x : W64) : (c.writeAstat x).cfence = c.cfence := rfl
@[simp] theorem Crew.writeAstat_constRead (c : Crew) (x : W64) : (c.writeAstat x).constRead = c.constRead := rfl
@[simp] theorem Crew.writeAstat_fenceFlag (c : Crew) (x : W64) : (c.writeAstat x).fenceFlag = c.fenceFlag := rfl
@[simp] theorem Crew.writeAstat_mma (c : Crew) (x : W64) : (c.writeAstat x).mma = c.mma := rfl
@[simp] theorem Crew.writeAstat_capture (c : Crew) (x : W64) : (c.writeAstat x).capture = c.capture := rfl
@[simp] theorem Crew.writeAstat_engineRegs (c : Crew) (x : W64) : (c.writeAstat x).engineRegs = c.engineRegs := rfl
@[simp] theorem Crew.writeAstat_holds (c : Crew) (x : W64) : (c.writeAstat x).holds = c.holds := rfl

@[simp] theorem Crew.goto_spc (c : Crew) (i : Nat) : (c.goto i).spc = i := rfl
@[simp] theorem Crew.next_spc (c : Crew) : c.next.spc = c.spc + 1 := rfl

/-- s0 reads 0, and a write to it is discarded (R86). -/
@[simp] theorem Crew.rs_zero (c : Crew) : c.rs 0 = 0 := rfl

/-- A scalar register written reads back; the others keep their values. -/
@[simp] theorem Crew.rs_ws (c : Crew) (d r : SReg) (x : W64) : (c.ws d x).rs r = if r = d ∧ d ≠ 0 then x else c.rs r := by
  have val0 : ∀ k : SReg, k.val = 0 ↔ k = 0 := fun k => by rw [Fin.ext_iff]; rfl
  unfold Crew.rs Crew.ws
  by_cases hd : d = 0
  · subst hd; simp
  · by_cases hr : r = 0
    · subst hr; simp [Ne.symm hd]
    · by_cases e : r = d
      · subst e; simp [val0, hd]
      · have ne : d.val ≠ r.val := fun h => e (Fin.ext h.symm)
        simp [val0, hd, hr, e, ne]

@[simp] theorem Crew.rs_next (c : Crew) (r : SReg) : c.next.rs r = c.rs r := rfl
@[simp] theorem Crew.rs_goto (c : Crew) (i : Nat) (r : SReg) : (c.goto i).rs r = c.rs r := rfl
@[simp] theorem Crew.rv_next (c : Crew) (n : Nat) : c.next.rv n = c.rv n := rfl
@[simp] theorem Crew.rp_next (c : Crew) (n : Nat) : c.next.rp n = c.rp n := rfl
@[simp] theorem Crew.rp_zero (c : Crew) : c.rp 0 = allLanes := rfl

/-- A vector register written in the lanes of `m`; the others keep their values (R88). -/
@[simp] theorem Crew.rv_wv (c : Crew) (n k : Nat) (m : W64) (x : Lanes) :
    (c.wv n m x).rv k = if k = n then laneMerge m x (c.rv n) else c.rv k := by
  unfold Crew.rv Crew.wv kgetD
  simp only [kget_kset]
  split <;> rfl

@[simp] theorem laneGet_laneMerge (m : W64) (x y : Lanes) (k : Nat) (h : k < 64) :
    laneGet (laneMerge m x y) k = if m.getLsbD k then laneGet x k else laneGet y k := by
  simp [laneGet, laneMerge, vget, h]

@[simp] theorem laneGet_lanesFn (f : Nat → W32) (k : Nat) (h : k < 64) : laneGet (lanesFn f) k = f k := by
  simp [laneGet, lanesFn, vget, h]

end Sys2Proof.Machine
end

