-- ==== Sys2Proof/Laws/Ops.lean ====
section
/-! SUPPORT. The shared operations: which stream they run for, how they wait, what ends a word, and what taking a trap leaves alone. -/

namespace Sys2Proof.Machine

/-! ## The scalar stream -/

/-- Where a scalar stream runs, its word acts on that crew. -/
theorem onScalar_of {s : State} {u : Nat} {c : Crew} (h : RunsScalar s u c) (f : Nat → Crew → Result) : onScalar s f = f u c := by
  obtain ⟨⟨k, hk, hl, rfl⟩, hc⟩ := h
  simp [onScalar, hk, hl, hc]

/-- Where none runs, the word faults. -/
theorem onScalar_cases {s t : State} {f : Nat → Crew → Result} (h : onScalar s f = .next t) :
    ∃ u c, RunsScalar s u c ∧ f u c = .next t := by
  unfold onScalar at h
  split at h
  · cases h
  · next k hk =>
    split at h
    · cases h
    · next hl =>
      split at h
      · cases h
      · next c hc => exact ⟨k.crew, c, ⟨⟨k, hk, by simpa using hl, rfl⟩, hc⟩, h⟩

/-- A word whose registers wait for no data acts (R119). -/
theorem withScalar_of {s : State} {u : Nat} {c : Crew} {rs : List SReg} (h : ScalarReady s u c rs) (f : Nat → Crew → Result) :
    withScalar s rs f = f u c := by
  rw [withScalar, onScalar_of h.1, if_pos h.2]

/-- A word one of whose registers waits for data waits too (R119). -/
theorem withScalar_waits {s : State} {u : Nat} {c : Crew} {rs : List SReg} (h : RunsScalar s u c) (w : c.free rs = false)
    (f : Nat → Crew → Result) : withScalar s rs f = stall s := by
  rw [withScalar, onScalar_of h, w]; rfl

/-- All that a scalar word can do that reaches a next state: wait, or act on the crew that runs it. -/
theorem withScalar_cases {s t : State} {rs : List SReg} {f : Nat → Crew → Result} (h : withScalar s rs f = .next t) :
    ∃ u c, RunsScalar s u c ∧ ((c.free rs = false ∧ t = { s with stalled := true }) ∨ (c.free rs = true ∧ f u c = .next t)) := by
  obtain ⟨u, c, hr, hf⟩ := onScalar_cases h
  refine ⟨u, c, hr, ?_⟩
  split at hf
  · next hw => exact .inr ⟨hw, hf⟩
  · next hw => exact .inl ⟨by simpa using hw, by simpa [stall] using hf.symm⟩

/-- A register list that waits for nothing has no part that waits. -/
theorem free_of_subset {c : Crew} {rs qs : List SReg} (h : c.free rs = true) (sub : ∀ r ∈ qs, r ∈ rs) : c.free qs = true := by
  simp only [Crew.free, List.all_eq_true] at *
  exact fun r hr => h r (sub r hr)

theorem ScalarReady.subset {s : State} {u : Nat} {c : Crew} {rs qs : List SReg} (h : ScalarReady s u c rs) (sub : ∀ r ∈ qs, r ∈ rs) :
    ScalarReady s u c qs := ⟨h.1, free_of_subset h.2 sub⟩

/-- A word that waits as LSYNC acts once the queue is empty (R83). -/
theorem withSync_of {s : State} {u : Nat} {c : Crew} {rs : List SReg} (h : ScalarReady s u c rs) (e : c.laneQ = [])
    (f : Nat → Crew → Result) : withSync s rs f = f u { c with synced := c.nextBlock - 1 } := by
  simp [withSync, withScalar_of h, Crew.synced?, e]

/-- Until then it waits. -/
theorem withSync_waits {s : State} {u : Nat} {c : Crew} {rs : List SReg} (h : ScalarReady s u c rs) (e : c.laneQ ≠ [])
    (f : Nat → Crew → Result) : withSync s rs f = stall s := by
  simp [withSync, withScalar_of h, Crew.synced?, e]

/-! ## Registers of a crew that a write leaves alone -/

@[simp] theorem free_ws (c : Crew) (d : SReg) (x : W64) (rs : List SReg) : (c.ws d x).free rs = c.free rs := by
  simp only [Crew.free, Crew.pending, Crew.ws]; split <;> rfl

@[simp] theorem free_next (c : Crew) (rs : List SReg) : c.next.free rs = c.free rs := rfl

@[simp] theorem next_spc (c : Crew) : c.next.spc = c.spc + 1 := rfl

@[simp] theorem goto_spc (c : Crew) (i : Nat) : (c.goto i).spc = i := rfl

/-- Replacing a crew's record touches no other crew. -/
theorem putCrew_onlyCrew (s : State) (u : Nat) (c : Crew) : OnlyCrew s (putCrew s u c) u c :=
  ⟨by simp, fun v hv => by simp [hv], rfl⟩

/-! ## The lane stream -/

/-- Where a fragment runs, its word acts on that fragment. -/
theorem onLane_of {s : State} {x : LaneCx} (h : RunsLane s x) (f : LaneCx → Result) : onLane s f = f x := by
  obtain ⟨u, c, slot, fr, blk, win, use, lset, word⟩ := x
  obtain ⟨⟨k, hk, hl, hu, hs, hw⟩, hc, hf, hb, ⟨l, hL, hwin⟩, huse, hset⟩ := h
  simp only at *
  subst hu hs hw huse hset hwin
  simp only [onLane, hk, hl, hc, hf, hb, hL]
  cases fr.win <;> rfl

/-- A lane word that nothing holds back acts on what it sees once its latches are filled (R29, R145), if the crew may run it. -/
theorem laneWord_of {s s1 : State} {i : Instr} {m : Crew → Frag → W64} {x : LaneCx} (h : LaneReady s i m s1 x) (p : privDetail x.c i = none)
    (f : State → LaneCx → Result) : laneWord s i m f = f s1 x := by
  obtain ⟨rfl, x0, hr, hbad, hl, hla, hbusy, hx⟩ := h
  subst hx
  rw [laneWord, onLane_of hr]
  simp only [LaneCx.of] at hbad hl hla hbusy p ⊢
  simp only [hbad, hla, hbusy, p, beq_eq_false_iff_ne.mpr hl]
  rfl

/-- A word that the crew may not run raises PRIV, whatever its lanes (R29, R145, R244). -/
theorem laneWord_priv {s s1 : State} {i : Instr} {m : Crew → Frag → W64} {x : LaneCx} {d : Nat} (h : LaneReady s i m s1 x)
    (p : privDetail x.c i = some d) (f : State → LaneCx → Result) :
    ∃ x0 : LaneCx, RunsLane s x0 ∧ x0.c = x.c ∧ laneWord s i m f = (x0.of i m).raise s 0x04 d 0 allLanes 0 := by
  obtain ⟨rfl, x0, hr, hbad, hl, hla, hbusy, hx⟩ := h
  subst hx
  refine ⟨x0, hr, rfl, ?_⟩
  rw [laneWord, onLane_of hr]
  simp only [LaneCx.of] at hbad p ⊢
  simp only [hbad, p]
  rfl

/-! ## The end of a word -/

/-- Where no trap waits, the end of a word changes nothing more. -/
theorem settleTrap_of {s : State} {u : Nat} {c : Crew} (h : crewOf s u = some c) (e : c.trapping = none) : settleTrap s u = s := by
  simp [settleTrap, h, e]

/-- The end of a lane word of a crew that no trap waits for: its fragment alone moves on. -/
theorem finishAt_of (x : LaneCx) (s : State) (c : Crew) (fr : Frag) (i : Nat) (h : c.trapping = none) :
    x.finishAt s c fr i = putCrew s x.u { c with div := c.div.setFrag x.slot (some (x.frNext fr i)) } :=
  settleTrap_of (c := { c with div := c.div.setFrag x.slot (some (x.frNext fr i)) }) (by simp) h

theorem finish_of (x : LaneCx) (s : State) (c : Crew) (h : c.trapping = none) :
    x.finish s c = .next (putCrew s x.u { c with div := c.div.setFrag x.slot (some (x.frNext x.fr (x.fr.lpc + 1))) }) := by
  rw [LaneCx.finish, finishAt_of x s c x.fr _ h]

/-- The words that end by `finish`, `writeVec`, `writePred` or a trap go on. -/
@[simp] theorem goesOn_finish (x : LaneCx) (s : State) (c : Crew) : goesOn (x.finish s c) = true := rfl
@[simp] theorem goesOn_writeVec (x : LaneCx) (s : State) (w : LaneWord) (d : Lanes) (fl : Nat) : goesOn (x.writeVec s w d fl) = true := rfl
@[simp] theorem goesOn_writePred (x : LaneCx) (s : State) (w : LaneWord) (d : W64) : goesOn (x.writePred s w d) = true := rfl
@[simp] theorem goesOn_raiseScalar (s : State) (u cause detail arg : Nat) (addr : W64) : goesOn (raiseScalar s u cause detail arg addr) = true := rfl
@[simp] theorem goesOn_raise (x : LaneCx) (s : State) (cause detail arg : Nat) (mask addr : W64) :
    goesOn (x.raise s cause detail arg mask addr) = true := rfl
@[simp] theorem goesOn_stall (s : State) : goesOn (stall s) = true := rfl

/-! ## Fragments -/

theorem frag_setFrag (d : Diverge) (n m : Nat) (f : Option Frag) (h : n < 8) :
    (d.setFrag n f).frag m = if m = n then f else d.frag m := by
  simp only [Diverge.frag, Diverge.setFrag, vget_vmod]
  by_cases e : m = n
  · subst e; simp [h]
  · simp [e]

@[simp] theorem setFrag_serial (d : Diverge) (n : Nat) (f : Option Frag) : (d.setFrag n f).serial = d.serial := rfl

/-! ## Halting and trapping keep the canonical form of memory -/

theorem endTeamIf_mem (s : State) (t : Nat) : (endTeamIf s t).mem = s.mem := by
  unfold endTeamIf; split <;> rfl

theorem haltCrew_memoryOk {s : State} (h : s.memoryOk = true) (u code addr : Nat) : (haltCrew s u code addr).memoryOk = true := by
  unfold haltCrew
  split
  · exact h
  · next c _ =>
    split
    · exact h
    · apply memoryOk_of_mem _ (endTeamIf_mem _ _)
      apply memoryOk_of_mem _ rfl
      apply journalTeam_memoryOk
      exact memoryOk_of_mem h rfl

theorem takeTrap_memoryOk {s : State} (h : s.memoryOk = true) (u : Nat) (i : TrapInfo) : (takeTrap s u i).memoryOk = true := by
  unfold takeTrap
  split
  · exact h
  · split
    · exact haltCrew_memoryOk h _ _ _
    · split
      · exact haltCrew_memoryOk h _ _ _
      · exact memoryOk_of_mem h rfl

theorem settleTrap_memoryOk {s : State} (h : s.memoryOk = true) (u : Nat) : (settleTrap s u).memoryOk = true := by
  unfold settleTrap
  split
  · exact h
  · split
    · exact h
    · split
      · exact takeTrap_memoryOk h _ _
      · exact h

theorem raise_memoryOk {s : State} (h : s.memoryOk = true) (u : Nat) (i : TrapInfo) : (raise s u i).memoryOk = true := by
  unfold raise
  split
  · exact h
  · split
    · exact h
    · split
      · exact settleTrap_memoryOk h _
      · apply settleTrap_memoryOk; exact memoryOk_of_mem h rfl

theorem finishAt_memoryOk (x : LaneCx) {s : State} (h : s.memoryOk = true) (c : Crew) (fr : Frag) (i : Nat) :
    (x.finishAt s c fr i).memoryOk = true := by
  apply settleTrap_memoryOk; exact memoryOk_of_mem h rfl

theorem raiseWith_memoryOk (x : LaneCx) {s t : State} (h : s.memoryOk = true) {cause detail arg : Nat} {mask addr : W64} {e : Option Nat}
    (r : x.raiseWith s cause detail arg mask addr e = .next t) : t.memoryOk = true := by
  simp only [LaneCx.raiseWith, Host.Outcome.next.injEq] at r
  rw [← r]; apply raise_memoryOk; exact memoryOk_of_mem h rfl

theorem raiseScalar_memoryOk {s t : State} (h : s.memoryOk = true) {u cause detail arg : Nat} {addr : W64}
    (r : raiseScalar s u cause detail arg addr = .next t) : t.memoryOk = true := by
  simp only [raiseScalar, Host.Outcome.next.injEq] at r
  rw [← r]; exact raise_memoryOk h _ _

/-- Filling latches changes nothing of a fragment but its latches. -/
theorem fillLatches_same (left : Nat → Nat → W32) (m : W64) (bs : List Nat) :
    ∀ fr : Frag, ∃ latch latchSet, fillLatches left m fr bs = { fr with latch := latch, latchSet := latchSet } := by
  induction bs with
  | nil => exact fun fr => ⟨fr.latch, fr.latchSet, rfl⟩
  | cons b bs ih =>
    intro fr
    simp only [fillLatches]
    split
    · exact ih fr
    · obtain ⟨l, k, e⟩ := ih { fr with
        latch := vmod fr.latch b (laneMerge (m &&& ~~~ vget fr.latchSet b 0) (lanesFn fun i => left b i)),
        latchSet := vmod fr.latchSet b (· ||| (m &&& ~~~ vget fr.latchSet b 0)) }
      exact ⟨l, k, e⟩

end Sys2Proof.Machine
end

