-- ==== Sys2Proof/Laws/PerInstr.lean ====
section
/-! SUPPORT. A law of every instruction, one lemma for each constructor: the words that encode it have 32 or 96 bits (R19, R21, R27). -/

namespace Sys2Proof.Laws.Width

/-- A word given with its length, if there is one, is one of 32 or of 96 bits. -/
def Fits (p : Option (Nat × Nat)) : Prop := ∀ n w, p = some (n, w) → (n = 32 ∨ n = 96) ∧ w < 2 ^ n

/-- An instruction is encoded, if at all, in 32 or in 96 bits. -/
def Statement (i : Instr) : Prop := Fits (encode i)

theorem none_fits : Fits none := by simp [Fits]

theorem fits_scalar {w : Nat} (h : w < 2 ^ 32) : Fits (some (32, w)) := by
  intro n v e; cases e; exact ⟨.inl rfl, h⟩

theorem fits_lane {w : Nat} (h : w < 2 ^ 96) : Fits (some (96, w)) := by
  intro n v e; cases e; exact ⟨.inr rfl, h⟩

theorem encR_fits {op fn : Nat} {d a b : SReg} (h : op < 128) (hf : fn < 128) : Fits (some (32, encR op d a b fn)) :=
  fits_scalar (by simp only [encR]; omega)

theorem encAtom_lt {ord w : Bool} {scope : Fin 4} {op : Nat} (h : op < 8) : encAtom ord scope w op < 128 := by
  have ho := Bool.toNat_lt ord
  have hw := Bool.toNat_lt w
  simp only [encAtom]; omega

theorem encI_fits {op i : Nat} {d a : SReg} (h : op < 128) (hi : i < 8192) : Fits (some (32, encI op d a i)) :=
  fits_scalar (by simp only [encI]; omega)

theorem encJ_fits {op i : Nat} (h : op < 128) (hi : i < 33554432) : Fits (some (32, encJ op i)) :=
  fits_scalar (by simp only [encJ]; omega)

theorem encU_fits {op i : Nat} {d : SReg} (h : op < 128) (hi : i < 524288) : Fits (some (32, encU op d i)) :=
  fits_scalar (by simp only [encU]; omega)

theorem srcCode_lt (o : Src) : o.code < 512 := by
  cases o <;> simp only [Src.code] <;> omega

theorem encLane_fits {op : Nat} {w : LaneWord} (h : op < 256) : Fits (some (96, encLane op w)) := by
  have ha := srcCode_lt w.a
  have hb := srcCode_lt w.b
  have hc := srcCode_lt w.c
  have ht : w.ty.code < 16 := by cases w.ty <;> decide
  have hs := Bool.toNat_lt w.ws
  have hn := Bool.toNat_lt w.pn
  exact fits_lane (by simp only [encLane]; omega)

theorem encM_fits {op : Nat} {w : MWord} (h : op < 256) : Fits (some (96, encM op w)) := by
  have hs := Bool.toNat_lt w.slot
  have hi := Bool.toNat_lt w.init
  exact fits_lane (by simp only [encM]; omega)

theorem add (d a b : SReg) : Statement (.add d a b) := encR_fits (by omega) (by omega)
theorem sub (d a b : SReg) : Statement (.sub d a b) := encR_fits (by omega) (by omega)
theorem andd (d a b : SReg) : Statement (.andd d a b) := encR_fits (by omega) (by omega)
theorem orr (d a b : SReg) : Statement (.orr d a b) := encR_fits (by omega) (by omega)
theorem xor (d a b : SReg) : Statement (.xor d a b) := encR_fits (by omega) (by omega)
theorem shl (d a b : SReg) : Statement (.shl d a b) := encR_fits (by omega) (by omega)
theorem shr (d a b : SReg) : Statement (.shr d a b) := encR_fits (by omega) (by omega)
theorem sra (d a b : SReg) : Statement (.sra d a b) := encR_fits (by omega) (by omega)
theorem slt (d a b : SReg) : Statement (.slt d a b) := encR_fits (by omega) (by omega)
theorem sltu (d a b : SReg) : Statement (.sltu d a b) := encR_fits (by omega) (by omega)
theorem min (d a b : SReg) : Statement (.min d a b) := encR_fits (by omega) (by omega)
theorem max (d a b : SReg) : Statement (.max d a b) := encR_fits (by omega) (by omega)
theorem minu (d a b : SReg) : Statement (.minu d a b) := encR_fits (by omega) (by omega)
theorem maxu (d a b : SReg) : Statement (.maxu d a b) := encR_fits (by omega) (by omega)
theorem mul (d a b : SReg) : Statement (.mul d a b) := encR_fits (by omega) (by omega)
theorem mulh (d a b : SReg) : Statement (.mulh d a b) := encR_fits (by omega) (by omega)
theorem mulhu (d a b : SReg) : Statement (.mulhu d a b) := encR_fits (by omega) (by omega)
theorem div (d a b : SReg) : Statement (.div d a b) := encR_fits (by omega) (by omega)
theorem divu (d a b : SReg) : Statement (.divu d a b) := encR_fits (by omega) (by omega)
theorem rem (d a b : SReg) : Statement (.rem d a b) := encR_fits (by omega) (by omega)
theorem remu (d a b : SReg) : Statement (.remu d a b) := encR_fits (by omega) (by omega)
theorem addw (d a b : SReg) : Statement (.addw d a b) := encR_fits (by omega) (by omega)
theorem subw (d a b : SReg) : Statement (.subw d a b) := encR_fits (by omega) (by omega)
theorem addi (d a : SReg) (i : Imm13) : Statement (.addi d a i) := encI_fits (by omega) (by omega)
theorem andi (d a : SReg) (i : Imm13) : Statement (.andi d a i) := encI_fits (by omega) (by omega)
theorem ori (d a : SReg) (i : Imm13) : Statement (.ori d a i) := encI_fits (by omega) (by omega)
theorem xori (d a : SReg) (i : Imm13) : Statement (.xori d a i) := encI_fits (by omega) (by omega)
theorem shli (d a : SReg) (k : Fin 64) : Statement (.shli d a k) := encI_fits (by omega) (by omega)
theorem shri (d a : SReg) (k : Fin 64) : Statement (.shri d a k) := encI_fits (by omega) (by omega)
theorem srai (d a : SReg) (k : Fin 64) : Statement (.srai d a k) := encI_fits (by omega) (by omega)
theorem slti (d a : SReg) (i : Imm13) : Statement (.slti d a i) := encI_fits (by omega) (by omega)
theorem sltiu (d a : SReg) (i : Imm13) : Statement (.sltiu d a i) := encI_fits (by omega) (by omega)
theorem shi (d : SReg) (i : BitVec 19) : Statement (.shi d i) := encU_fits (by omega) (by omega)
theorem clz (d a : SReg) : Statement (.clz d a) := encR_fits (by omega) (by omega)
theorem ctz (d a : SReg) : Statement (.ctz d a) := encR_fits (by omega) (by omega)
theorem popc (d a : SReg) : Statement (.popc d a) := encR_fits (by omega) (by omega)
theorem brev (d a : SReg) : Statement (.brev d a) := encR_fits (by omega) (by omega)
theorem sextb (d a : SReg) : Statement (.sextb d a) := encR_fits (by omega) (by omega)
theorem sexth (d a : SReg) : Statement (.sexth d a) := encR_fits (by omega) (by omega)
theorem sextw (d a : SReg) : Statement (.sextw d a) := encR_fits (by omega) (by omega)
theorem zextw (d a : SReg) : Statement (.zextw d a) := encR_fits (by omega) (by omega)
theorem madd (d a b c : SReg) : Statement (.madd d a b c) := encR_fits (by omega) (by omega)
theorem addsh (d a b : SReg) (k : Fin 8) : Statement (.addsh d a b k) := encR_fits (by omega) (by omega)
theorem sel (d a b c : SReg) : Statement (.sel d a b c) := encR_fits (by omega) (by omega)
theorem beq (a b : SReg) (i : Imm13) : Statement (.beq a b i) := encI_fits (by omega) (by omega)
theorem bne (a b : SReg) (i : Imm13) : Statement (.bne a b i) := encI_fits (by omega) (by omega)
theorem blt (a b : SReg) (i : Imm13) : Statement (.blt a b i) := encI_fits (by omega) (by omega)
theorem bge (a b : SReg) (i : Imm13) : Statement (.bge a b i) := encI_fits (by omega) (by omega)
theorem bltu (a b : SReg) (i : Imm13) : Statement (.bltu a b i) := encI_fits (by omega) (by omega)
theorem bgeu (a b : SReg) (i : Imm13) : Statement (.bgeu a b i) := encI_fits (by omega) (by omega)
theorem bra (i : BitVec 25) : Statement (.bra i) := encJ_fits (by omega) (by omega)
theorem call (i : BitVec 25) : Statement (.call i) := encJ_fits (by omega) (by omega)
theorem jmpr (d a : SReg) (i : Imm13) : Statement (.jmpr d a i) := encI_fits (by omega) (by omega)
theorem loopDec (a : SReg) (i : Imm13) : Statement (.loopDec a i) := encI_fits (by omega) (by omega)
theorem sldb (d a : SReg) (i : Imm13) : Statement (.sldb d a i) := encI_fits (by omega) (by omega)
theorem sldh (d a : SReg) (i : Imm13) : Statement (.sldh d a i) := encI_fits (by omega) (by omega)
theorem sldw (d a : SReg) (i : Imm13) : Statement (.sldw d a i) := encI_fits (by omega) (by omega)
theorem sldd (d a : SReg) (i : Imm13) : Statement (.sldd d a i) := encI_fits (by omega) (by omega)
theorem sstb (d a : SReg) (i : Imm13) : Statement (.sstb d a i) := encI_fits (by omega) (by omega)
theorem ssth (d a : SReg) (i : Imm13) : Statement (.ssth d a i) := encI_fits (by omega) (by omega)
theorem sstw (d a : SReg) (i : Imm13) : Statement (.sstw d a i) := encI_fits (by omega) (by omega)
theorem sstd (d a : SReg) (i : Imm13) : Statement (.sstd d a i) := encI_fits (by omega) (by omega)
theorem sldk (d a : SReg) (i : Imm13) : Statement (.sldk d a i) := encI_fits (by omega) (by omega)
theorem satom (d a b : SReg) (ord : Bool) (scope : Fin 4) (w : Bool) (op : Fin 8) : Statement (.satom d a b ord scope w op) := encR_fits (by omega) (encAtom_lt (by omega))
theorem scas (d a b : SReg) (ord : Bool) (scope : Fin 4) (w : Bool) : Statement (.scas d a b ord scope w) := encR_fits (by omega) (encAtom_lt (by omega))
theorem srd (d : SReg) (x : Fin 256) : Statement (.srd d x) := encI_fits (by omega) (by omega)
theorem swr (a : SReg) (x : Fin 256) : Statement (.swr a x) := encI_fits (by omega) (by omega)
theorem lrun (l : Bool) (i : BitVec 22) : Statement (.lrun l i) := encJ_fits (by omega) (by have := Bool.toNat_lt l; omega)
theorem lrunr (l : Bool) (a : SReg) : Statement (.lrunr l a) := encJ_fits (by omega) (by have := Bool.toNat_lt l; omega)
theorem sgetp (d : SReg) (p : Fin 16) : Statement (.sgetp d p) := encI_fits (by omega) (by omega)
theorem sgetv (d a : SReg) (v : Fin 256) : Statement (.sgetv d a v) := encI_fits (by omega) (by omega)
theorem bara (d a : SReg) (i : Imm13) : Statement (.bara d a i) := encI_fits (by omega) (by omega)
theorem barw (d a : SReg) (i : Imm13) : Statement (.barw d a i) := encI_fits (by omega) (by omega)
theorem baraw (d a : SReg) (i : Imm13) : Statement (.baraw d a i) := encI_fits (by omega) (by omega)
theorem barinit (a b : SReg) : Statement (.barinit a b) := encR_fits (by omega) (by omega)
theorem qpush (a : SReg) (n : Fin 64) : Statement (.qpush a n) := encR_fits (by omega) (by omega)
theorem qpop (d : SReg) (n : Fin 64) : Statement (.qpop d n) := encI_fits (by omega) (by omega)
theorem qtryPush (d a : SReg) (n : Fin 64) : Statement (.qtryPush d a n) := encR_fits (by omega) (by omega)
theorem qtryPop (d : SReg) (n : Fin 64) : Statement (.qtryPop d n) := encR_fits (by omega) (by omega)
theorem qinit (a b : SReg) (n : Fin 64) : Statement (.qinit a b n) := encR_fits (by omega) (by omega)
theorem waitc (a : SReg) (n : Fin 8) : Statement (.waitc a n) := encI_fits (by omega) (by omega)
theorem armc (d a b : SReg) (w : Fin 4) (k : Fin 4) (n : Fin 8) : Statement (.armc d a b w k n) := encR_fits (by omega) (by omega)
theorem cyield (n : Fin 8) (a : SReg) (i : Imm13) : Statement (.cyield n a i) := encJ_fits (by omega) (by omega)
theorem pchk (d : SReg) : Statement (.pchk d) := encI_fits (by omega) (by omega)
theorem fenceWord (w : Bool) (k : Fin 4) (s : Fin 8) : Statement (.fenceWord w k s) := encI_fits (by omega) (by have := Bool.toNat_lt w; omega)
theorem wlpop (d a : SReg) (l : Fin 256) : Statement (.wlpop d a l) := encI_fits (by omega) (by omega)
theorem wldone (a : SReg) (l : Fin 256) : Statement (.wldone a l) := encI_fits (by omega) (by omega)
theorem trap (c : BitVec 19) : Statement (.trap c) := encU_fits (by omega) (by omega)
theorem bkpt (c : BitVec 19) : Statement (.bkpt c) := encU_fits (by omega) (by omega)
theorem sysc (d : SReg) (c : BitVec 19) : Statement (.sysc d c) := encU_fits (by omega) (by omega)
theorem gatedScalarOpcode (g : Fin 16) (x : BitVec 25) : Statement (.gatedScalarOpcode g x) := encJ_fits (by omega) (by omega)
theorem vadd (w : LaneWord) : Statement (.vadd w) := encLane_fits (by decide)
theorem vsub (w : LaneWord) : Statement (.vsub w) := encLane_fits (by decide)
theorem vmul (w : LaneWord) : Statement (.vmul w) := encLane_fits (by decide)
theorem vmulh (w : LaneWord) : Statement (.vmulh w) := encLane_fits (by decide)
theorem vmad (w : LaneWord) : Statement (.vmad w) := encLane_fits (by decide)
theorem vand (w : LaneWord) : Statement (.vand w) := encLane_fits (by decide)
theorem vor (w : LaneWord) : Statement (.vor w) := encLane_fits (by decide)
theorem vxor (w : LaneWord) : Statement (.vxor w) := encLane_fits (by decide)
theorem vshl (w : LaneWord) : Statement (.vshl w) := encLane_fits (by decide)
theorem vshr (w : LaneWord) : Statement (.vshr w) := encLane_fits (by decide)
theorem vmin (w : LaneWord) : Statement (.vmin w) := encLane_fits (by decide)
theorem vmax (w : LaneWord) : Statement (.vmax w) := encLane_fits (by decide)
theorem vabs (w : LaneWord) : Statement (.vabs w) := encLane_fits (by decide)
theorem vsel (w : LaneWord) : Statement (.vsel w) := encLane_fits (by decide)
theorem vclz (w : LaneWord) : Statement (.vclz w) := encLane_fits (by decide)
theorem vpopc (w : LaneWord) : Statement (.vpopc w) := encLane_fits (by decide)
theorem vbfe (w : LaneWord) : Statement (.vbfe w) := encLane_fits (by decide)
theorem vbfi (w : LaneWord) : Statement (.vbfi w) := encLane_fits (by decide)
theorem vmov (w : LaneWord) : Statement (.vmov w) := encLane_fits (by decide)
theorem vcmp (w : LaneWord) : Statement (.vcmp w) := encLane_fits (by decide)
theorem vaddc (w : LaneWord) : Statement (.vaddc w) := encLane_fits (by decide)
theorem vneg (w : LaneWord) : Statement (.vneg w) := encLane_fits (by decide)
theorem fadd (w : LaneWord) : Statement (.fadd w) := encLane_fits (by decide)
theorem fsub (w : LaneWord) : Statement (.fsub w) := encLane_fits (by decide)
theorem fmul (w : LaneWord) : Statement (.fmul w) := encLane_fits (by decide)
theorem ffma (w : LaneWord) : Statement (.ffma w) := encLane_fits (by decide)
theorem fscale (w : LaneWord) : Statement (.fscale w) := encLane_fits (by decide)
theorem fmin (w : LaneWord) : Statement (.fmin w) := encLane_fits (by decide)
theorem fmax (w : LaneWord) : Statement (.fmax w) := encLane_fits (by decide)
theorem fcmp (w : LaneWord) : Statement (.fcmp w) := encLane_fits (by decide)
theorem frcp (w : LaneWord) : Statement (.frcp w) := encLane_fits (by decide)
theorem frsq (w : LaneWord) : Statement (.frsq w) := encLane_fits (by decide)
theorem fsqrt (w : LaneWord) : Statement (.fsqrt w) := encLane_fits (by decide)
theorem fexp2 (w : LaneWord) : Statement (.fexp2 w) := encLane_fits (by decide)
theorem flog2 (w : LaneWord) : Statement (.flog2 w) := encLane_fits (by decide)
theorem fsin (w : LaneWord) : Statement (.fsin w) := encLane_fits (by decide)
theorem fcos (w : LaneWord) : Statement (.fcos w) := encLane_fits (by decide)
theorem fclass (w : LaneWord) : Statement (.fclass w) := encLane_fits (by decide)
theorem fcvt (w : LaneWord) : Statement (.fcvt w) := encLane_fits (by decide)
theorem frnd (w : LaneWord) : Statement (.frnd w) := encLane_fits (by decide)
theorem ftoi (w : LaneWord) : Statement (.ftoi w) := encLane_fits (by decide)
theorem itof (w : LaneWord) : Statement (.itof w) := encLane_fits (by decide)
theorem qpack (w : LaneWord) : Statement (.qpack w) := encLane_fits (by decide)
theorem qunpk (w : LaneWord) : Statement (.qunpk w) := encLane_fits (by decide)
theorem vshfl (w : LaneWord) : Statement (.vshfl w) := encLane_fits (by decide)
theorem vvote (w : LaneWord) : Statement (.vvote w) := encLane_fits (by decide)
theorem vfold (w : LaneWord) : Statement (.vfold w) := encLane_fits (by decide)
theorem vscan (w : LaneWord) : Statement (.vscan w) := encLane_fits (by decide)
theorem vsync (w : LaneWord) : Statement (.vsync w) := encLane_fits (by decide)
theorem plog (w : LaneWord) : Statement (.plog w) := encLane_fits (by decide)
theorem pset (w : LaneWord) : Statement (.pset w) := encLane_fits (by decide)
theorem execrd (w : LaneWord) : Statement (.execrd w) := encLane_fits (by decide)
theorem execwr (w : LaneWord) : Statement (.execwr w) := encLane_fits (by decide)
theorem brl (w : LaneWord) : Statement (.brl w) := encLane_fits (by decide)
theorem joinWord (w : LaneWord) : Statement (.joinWord w) := encLane_fits (by decide)
theorem lend (w : LaneWord) : Statement (.lend w) := encLane_fits (by decide)
theorem lyield (w : LaneWord) : Statement (.lyield w) := encLane_fits (by decide)
theorem lnop (w : LaneWord) : Statement (.lnop w) := encLane_fits (by decide)
theorem ltrap (w : LaneWord) : Statement (.ltrap w) := encLane_fits (by decide)
theorem lwaitc (w : LaneWord) : Statement (.lwaitc w) := encLane_fits (by decide)
theorem batch (w : LaneWord) : Statement (.batch w) := encLane_fits (by decide)
theorem vld (w : LaneWord) : Statement (.vld w) := encLane_fits (by decide)
theorem vst (w : LaneWord) : Statement (.vst w) := encLane_fits (by decide)
theorem vlds (w : LaneWord) : Statement (.vlds w) := encLane_fits (by decide)
theorem vsts (w : LaneWord) : Statement (.vsts w) := encLane_fits (by decide)
theorem vldk (w : LaneWord) : Statement (.vldk w) := encLane_fits (by decide)
theorem vatom (w : LaneWord) : Statement (.vatom w) := encLane_fits (by decide)
theorem vatomNoReturn (w : LaneWord) : Statement (.vatomNoReturn w) := encLane_fits (by decide)
theorem vcas (w : LaneWord) : Statement (.vcas w) := encLane_fits (by decide)
theorem vred (w : LaneWord) : Statement (.vred w) := encLane_fits (by decide)
theorem vrdx (w : LaneWord) : Statement (.vrdx w) := encLane_fits (by decide)
theorem vpref (w : LaneWord) : Statement (.vpref w) := encLane_fits (by decide)
theorem cpy (w : LaneWord) : Statement (.cpy w) := encLane_fits (by decide)
theorem cpym (w : LaneWord) : Statement (.cpym w) := encLane_fits (by decide)
theorem cpyt (w : LaneWord) : Statement (.cpyt w) := encLane_fits (by decide)
theorem wlapp (w : LaneWord) : Statement (.wlapp w) := encLane_fits (by decide)
theorem mxmma (w : MWord) : Statement (.mxmma w) := encM_fits (by decide)
theorem mxdrain (w : MWord) : Statement (.mxdrain w) := encM_fits (by decide)
theorem mxzero (w : MWord) : Statement (.mxzero w) := encM_fits (by decide)
theorem mxfence (w : MWord) : Statement (.mxfence w) := encM_fits (by decide)
theorem mxstat (w : MWord) : Statement (.mxstat w) := encM_fits (by decide)
theorem rput (w : LaneWord) : Statement (.rput w) := encLane_fits (by decide)
theorem rget (w : LaneWord) : Statement (.rget w) := encLane_fits (by decide)
theorem rred (w : LaneWord) : Statement (.rred w) := encLane_fits (by decide)
theorem coll (w : LaneWord) : Statement (.coll w) := encLane_fits (by decide)
theorem cwin (w : LaneWord) : Statement (.cwin w) := encLane_fits (by decide)
theorem cstat (w : LaneWord) : Statement (.cstat w) := encLane_fits (by decide)
theorem cabort (w : LaneWord) : Statement (.cabort w) := encLane_fits (by decide)
theorem gatedLaneOpcode (g : Fin 32) (x : BitVec 88) : Statement (.gatedLaneOpcode g x) := fits_lane (by omega)
theorem laneBlockComplete (crew : Nat) : Statement (.laneBlockComplete crew) := none_fits
theorem loadDataReturn (crew idx : Nat) (lanes : W64) : Statement (.loadDataReturn crew idx lanes) := none_fits
theorem fairtUrgent (crew : Nat) (slot : Option (Fin 8)) : Statement (.fairtUrgent crew slot) := none_fits
theorem yieldDemotionEnd (crew : Nat) (slot : Option (Fin 8)) : Statement (.yieldDemotionEnd crew slot) := none_fits
theorem teamBarrierRequest (team n : Nat) : Statement (.teamBarrierRequest team n) := none_fits
theorem teamBarrierCompletion (team core id : Nat) : Statement (.teamBarrierCompletion team core id) := none_fits
theorem copyComplete (die core n : Nat) : Statement (.copyComplete die core n) := none_fits
theorem batchComplete (crew : Nat) (cc : Fin 8) : Statement (.batchComplete crew cc) := none_fits
theorem armedPushRetry (crew : Nat) : Statement (.armedPushRetry crew) := none_fits
theorem mxmmaJointAccept (die core : Nat) : Statement (.mxmmaJointAccept die core) := none_fits
theorem mxEntryComplete (die core : Nat) (quad : Fin 4) (n : Nat) : Statement (.mxEntryComplete die core quad n) := none_fits
theorem mxdrainComplete (die core : Nat) (quad : Fin 4) (n : Nat) : Statement (.mxdrainComplete die core quad n) := none_fits
theorem granuleFillComplete (team core granule : Nat) : Statement (.granuleFillComplete team core granule) := none_fits
theorem granuleWriteBackDone (team core granule : Nat) : Statement (.granuleWriteBackDone team core granule) := none_fits
theorem sideLogReplay (crew : Nat) : Statement (.sideLogReplay crew) := none_fits
theorem pageMigration (ctx : Nat) (va frame : W64) : Statement (.pageMigration ctx va frame) := none_fits
theorem doorbellWrite (fn : Fin 3) (q : Nat) (p : W32) : Statement (.doorbellWrite fn q p) := none_fits
theorem registerWrite (fn : Fin 3) (off : Nat) (v : W32) : Statement (.registerWrite fn off v) := none_fits
theorem launchCmd (dev : Fin 3) (q : Nat) (a : W64) : Statement (.launchCmd dev q a) := none_fits
theorem waitCmd (dev : Fin 3) (q : Nat) (a b : W64) : Statement (.waitCmd dev q a b) := none_fits
theorem waitSatisfied (dev : Fin 3) (q : Nat) : Statement (.waitSatisfied dev q) := none_fits
theorem signalCmd (dev : Fin 3) (q : Nat) (a b : W64) : Statement (.signalCmd dev q a b) := none_fits
theorem distributorStep (dev : Fin 3) : Statement (.distributorStep dev) := none_fits
theorem pdeadExpiry (team : Nat) : Statement (.pdeadExpiry team) := none_fits
theorem teamSave (team : Nat) : Statement (.teamSave team) := none_fits
theorem teamRetire (team : Nat) : Statement (.teamRetire team) := none_fits
theorem quiescenceEvent (launch : Nat) : Statement (.quiescenceEvent launch) := none_fits
theorem hostAccess (op : HostOp) (pa : W64) (n : Nat) (data : List Byte) : Statement (.hostAccess op pa n data) := none_fits
theorem hostLinkTraining (cxl : Bool) (width : Nat) : Statement (.hostLinkTraining cxl width) := none_fits
theorem secondTierPortFail (port : Fin 4) : Statement (.secondTierPortFail port) := none_fits
theorem laneRecalibration (link : LinkName) : Statement (.laneRecalibration link) := none_fits
theorem soundRequestTimeout (req : SoundReq) (who n : Nat) : Statement (.soundRequestTimeout req who n) := none_fits
theorem diePowerUp (die : Fin 2) : Statement (.diePowerUp die) := none_fits
theorem diePowerDown (die : Fin 2) : Statement (.diePowerDown die) := none_fits
theorem dieReset (die : Fin 2) : Statement (.dieReset die) := none_fits
theorem dieReady (die : Fin 2) : Statement (.dieReady die) := none_fits
theorem packagePowerOn (activeOk otherOk : Bool) : Statement (.packagePowerOn activeOk otherOk) := none_fits
theorem referenceClockLoss (die : Fin 2) : Statement (.referenceClockLoss die) := none_fits
theorem powerSample (watts : Nat) : Statement (.powerSample watts) := none_fits
theorem beatSend (die : Fin 2) (pos : Nat) : Statement (.beatSend die pos) := none_fits
theorem beatWindowEnd (die : Fin 2) (pos nb flits : Nat) : Statement (.beatWindowEnd die pos nb flits) := none_fits
theorem accusationLapse (die : Fin 2) (pos from_ suspect : Nat) : Statement (.accusationLapse die pos from_ suspect) := none_fits
theorem fenceReport (die : Fin 2) (suspect : Nat) : Statement (.fenceReport die suspect) := none_fits
theorem bistResult (die : Fin 2) (pos : Nat) (pass tagOk : Bool) (failures : W64) : Statement (.bistResult die pos pass tagOk failures) := none_fits
theorem bistTimeout (die : Fin 2) (pos : Nat) : Statement (.bistTimeout die pos) := none_fits
theorem linkSession (dev : Fin 3) (port : Fin 24) (peer : Nat) (ok : Bool) : Statement (.linkSession dev port peer ok) := none_fits
theorem sessionRekey (dev : Fin 3) (port : Fin 24) (ok : Bool) : Statement (.sessionRekey dev port ok) := none_fits
theorem portLoss (dev : Fin 3) (port : Fin 24) : Statement (.portLoss dev port) := none_fits
theorem keepaliveSend (dev : Fin 3) (plane : Fin 8) : Statement (.keepaliveSend dev plane) := none_fits
theorem planeDead (dev : Fin 3) (plane : Fin 8) : Statement (.planeDead dev plane) := none_fits
theorem proposeTimeout (dev : Fin 3) : Statement (.proposeTimeout dev) := none_fits
theorem commitTimeout (dev : Fin 3) : Statement (.commitTimeout dev) := none_fits
theorem remoteTimeout (dev : Fin 3) (seq : Nat) : Statement (.remoteTimeout dev seq) := none_fits
theorem windowExpiry (dev : Fin 3) (w : Fin 256) : Statement (.windowExpiry dev w) := none_fits
theorem gangTimeout (dev : Fin 3) (gang : Nat) : Statement (.gangTimeout dev gang) := none_fits
theorem undecodableWord (lane : Bool) (w : BitVec 96) (reason : Reject) : Statement (.undecodableWord lane w reason) := none_fits
theorem storePerformed (crew idx : Nat) (lanes : W64) : Statement (.storePerformed crew idx lanes) := none_fits
theorem malformedCommand (dev : Fin 3) (q : Nat) (bytes : List Byte) : Statement (.malformedCommand dev q bytes) := none_fits
theorem consAdvance (ctx : Nat) (service : Bool) (cons : W32) : Statement (.consAdvance ctx service cons) := none_fits
theorem softwareSaveRequest (team : Nat) (reason : Fin 8) : Statement (.softwareSaveRequest team reason) := none_fits
theorem teamBarrierReply (crew : Nat) : Statement (.teamBarrierReply crew) := none_fits
theorem unifiedRangeFaultAnswer (ctx : Nat) (va frame : W64) : Statement (.unifiedRangeFaultAnswer ctx va frame) := none_fits
theorem processorStateUncorrectableError (die : Fin 2) : Statement (.processorStateUncorrectableError die) := none_fits
theorem lsync : Statement (.lsync) := encJ_fits (by omega) (by omega)
theorem yield : Statement (.yield) := encJ_fits (by omega) (by omega)
theorem pyield : Statement (.pyield) := encJ_fits (by omega) (by omega)
theorem endCrew : Statement (.endCrew) := encJ_fits (by omega) (by omega)
theorem fencep : Statement (.fencep) := encJ_fits (by omega) (by omega)
theorem cfence : Statement (.cfence) := encJ_fits (by omega) (by omega)
theorem rflush : Statement (.rflush) := encJ_fits (by omega) (by omega)
theorem rte : Statement (.rte) := encJ_fits (by omega) (by omega)
theorem createContext : Statement (.createContext) := none_fits
theorem destroyContext : Statement (.destroyContext) := none_fits
theorem mapPages : Statement (.mapPages) := none_fits
theorem unmapPages : Statement (.unmapPages) := none_fits
theorem protectPages : Statement (.protectPages) := none_fits
theorem resolvePage : Statement (.resolvePage) := none_fits
theorem translatePage : Statement (.translatePage) := none_fits
theorem respondReq : Statement (.respondReq) := none_fits
theorem plantWord : Statement (.plantWord) := none_fits
theorem unplantWord : Statement (.unplantWord) := none_fits
theorem debugReq : Statement (.debugReq) := none_fits
theorem attest : Statement (.attest) := none_fits
theorem fwStage : Statement (.fwStage) := none_fits
theorem fwActivate : Statement (.fwActivate) := none_fits
theorem pwrcap : Statement (.pwrcap) := none_fits
theorem fabricConfig : Statement (.fabricConfig) := none_fits
theorem gangArm : Statement (.gangArm) := none_fits
theorem gangStart : Statement (.gangStart) := none_fits
theorem deviceInit : Statement (.deviceInit) := none_fits
theorem beatReceive : Statement (.beatReceive) := none_fits
theorem accuseMsg : Statement (.accuseMsg) := none_fits
theorem withdrawMsg : Statement (.withdrawMsg) := none_fits
theorem readmitLink : Statement (.readmitLink) := none_fits
theorem retireLink : Statement (.retireLink) := none_fits
theorem reportMsg : Statement (.reportMsg) := none_fits
theorem proposeMsg : Statement (.proposeMsg) := none_fits
theorem ackMsg : Statement (.ackMsg) := none_fits
theorem commitMsg : Statement (.commitMsg) := none_fits
theorem remoteOpReceive : Statement (.remoteOpReceive) := none_fits
theorem remoteAnswerReceive : Statement (.remoteAnswerReceive) := none_fits
theorem collLineReceive : Statement (.collLineReceive) := none_fits
theorem windowAbort : Statement (.windowAbort) := none_fits
theorem gangPrepare : Statement (.gangPrepare) := none_fits
theorem gangReady : Statement (.gangReady) := none_fits
theorem gangNotready : Statement (.gangNotready) := none_fits
theorem gangStartMessage : Statement (.gangStartMessage) := none_fits
theorem gangStartAck : Statement (.gangStartAck) := none_fits
theorem gangCancel : Statement (.gangCancel) := none_fits
theorem gangAbort : Statement (.gangAbort) := none_fits
theorem gangAbsent : Statement (.gangAbsent) := none_fits
theorem malformedMailboxRequest : Statement (.malformedMailboxRequest) := none_fits
theorem keepaliveReceive : Statement (.keepaliveReceive) := none_fits

end Sys2Proof.Laws.Width
end

