-- ==== Sys2Proof/Tests/Slice0.lean ====
section
/-! SUPPORT. The model's own tests: ill-formed words, words written out from the encodings of the spec, and single steps. -/

namespace Sys2Proof.Tests

set_option Elab.async false

open Sys2Proof Sys2Proof.Machine

/-! ## Small states -/

/-- Eight scalar words and eight LNOPs (R172), loaded for context 0. -/
def code : Launch := fetchLaunch 0 (List.replicate 8 0) (List.replicate 8 (BitVec.ofNat 96 0x54))

/-- A package with one core, one team of `code` and no crew. -/
def small : State :=
  { State.reset with
    mode := 1, fwUp := true, cores := [(0, CoreSt.reset 0)], contexts := [(0, fetchContext)], launches := [(0, code)],
    teams := [(1, fetchTeam 1 0 0)], nextUid := 2, nextStamp := 2, nextLaunch := 1 }

/-- A producer crew that owns every vector register and has a handler at word 7. -/
def crew : Crew := { Crew.reset with uid := 0, team := 1, fast := 192, slow := 64, tvec := 0x8000000000000007 }

/-- The same crew in lane block 1, `snap` its snapshot: one fragment with all lanes. -/
def inBlock (snap : Vector W64 15) : Crew :=
  { crew with
    laneQ := [{ fetchBlock 0 with snap := snap }], nextBlock := 2,
    div := { Diverge.reset with slots := Diverge.reset.slots.set 0 { gen := false, frag := some (newFrag allLanes 0 1 []) }, started := true } }

/-- In a block whose snapshot holds zeros. -/
def blockCrew : Crew := inBlock (Vector.replicate 15 0)

/-- Crew 0 runs the scalar word at its SPC. -/
def scalarAt (c : Crew) : State := { small with crews := [(0, c)], cur := some { crew := 0, lane := false, slot := 0, word := 0, idx := c.spc } }

/-- Crew 0 runs the lane word of its fragment in slot 0. -/
def laneAt (c : Crew) : State := { small with crews := [(0, c)], cur := some { crew := 0, lane := true, slot := 0, word := 0, idx := 0 } }

/-- A crew whose s1 and s2 hold two values. -/
def holding (x y : W64) : Crew := (crew.ws 1 x).ws 2 y

/-- What crew 0 holds once a word has gone on. -/
def after {α : Type} (r : Result) (f : Crew → α) : Option α := match r with | .next s => (crewOf s 0).map f | _ => none

/-- What the state holds once a step has gone on. -/
def then_ {α : Type} (r : Result) (f : State → α) : Option α := match r with | .next s => some (f s) | _ => none

/-- The cause and the detail of the trap that the crew has taken (R111, R113). -/
def trapOf (c : Crew) : Nat × Nat := (c.tcause.toNat, bitsOf c.tinfo 15 8)

/-! ## Ill-formed terms that the checks refuse -/

/-- A lane word with every field 0. -/
def blank : LaneWord :=
  { vd := 0, ws := false, ld := 0, a := .vreg 0, b := .vreg 0, c := .vreg 0, pg := 0, pn := false, ty := .b32, fn := 0, imm := 0 }

/-- An M word with every field 0. -/
def blankM : MWord :=
  { tyA := 0, tyB := 0, tyC := 0, tyD := 0, lvl := 0, tA := 0, vB := 0, slot := false, init := false, vc := 0, cc := 0, klen := 0 }

theorem test_wf_int_type : (Instr.vadd { blank with ty := .f32 }).wellFormed = false := by decide
theorem test_wf_unused_source : (Instr.vadd { blank with c := .laneId }).wellFormed = false := by decide
theorem test_wf_ws_register : (Instr.vadd { blank with ws := true, vd := 3 }).wellFormed = false := by decide
theorem test_wf_imm_unread : (Instr.vadd { blank with imm := 1 }).wellFormed = false := by decide
theorem test_wf_float_type : (Instr.fadd blank).wellFormed = false := by decide
theorem test_wf_round_mode : (Instr.fadd { blank with ty := .f32, fn := 5 }).wellFormed = false := by decide
theorem test_wf_function_sr : (Instr.frcp { blank with ty := .f32, fn := 4 }).wellFormed = false := by decide
theorem test_wf_fold_op : (Instr.vfold { blank with fn := 6 }).wellFormed = false := by decide
theorem test_wf_bare : (Instr.joinWord { blank with imm := 1 }).wellFormed = false := by decide
theorem test_wf_unguarded : (Instr.batch { blank with pg := 1 }).wellFormed = false := by decide
theorem test_wf_literal : (Instr.cpy blank).wellFormed = false := by decide
theorem test_wf_pack_slot : (Instr.qpack { blank with ty := .f16, imm := 2 }).wellFormed = false := by decide
theorem test_wf_convert_source : (Instr.fcvt { blank with ty := .f32, imm := 0 }).wellFormed = false := by decide
theorem test_wf_base : (Instr.vld { blank with a := .vreg 2 }).wellFormed = false := by decide
theorem test_wf_pair : (Instr.vst { blank with a := .zero, b := .vreg 3, ty := .b64 }).wellFormed = false := by decide
theorem test_wf_predicate : (Instr.vcmp { blank with vd := 16 }).wellFormed = false := by decide
theorem test_wf_matrix_pair : (Instr.mxmma { blankM with tyB := 2, klen := 8 }).wellFormed = false := by decide
theorem test_wf_matrix_klen : (Instr.mxmma blankM).wellFormed = false := by decide
theorem test_wf_drain_dst : (Instr.mxdrain { blankM with lvl := 3 }).wellFormed = false := by decide
theorem test_wf_zero_type : (Instr.mxzero { blankM with tyC := 2 }).wellFormed = false := by decide
theorem test_wf_stat : (Instr.mxstat { blankM with klen := 1 }).wellFormed = false := by decide
theorem test_wf_fence_word : (Instr.mxfence { blankM with slot := true }).wellFormed = false := by decide
theorem test_wf_fence_scope : (Instr.fenceWord false 0 5).wellFormed = false := by decide
theorem test_wf_special : (Instr.srd 1 0x0E).wellFormed = false := by decide
theorem test_wf_arm_kind : (Instr.armc 1 2 3 0 3 0).wellFormed = false := by decide

/-! ## Words of the spec's own examples and tables -/

/-- `ADDI s5, s3, -12` (R121). -/
theorem test_decode_addi : decodeTableWord 32 0x04287FF4 = some (.addi 5 3 0x1FF4) := by decide
/-- `SHI`'s format S-U: opcode 0x0B, sd 2, imm19 1 (R19, R122). -/
theorem test_decode_shi : decodeTableWord 32 0x16100001 = some (.shi 2 1) := by decide
/-- `SYSC s9, 0x12` (R335). -/
theorem test_decode_sysc : decodeTableWord 32 0xC4480012 = some (.sysc 9 0x12) := by decide
/-- `BARA s20, s0, 448` (R228). -/
theorem test_decode_bara : decodeTableWord 32 0x80A001C0 = some (.bara 20 0 448) := by decide
/-- `RTE` (R115). -/
theorem test_decode_rte : decodeTableWord 32 0xC6000000 = some .rte := by decide
/-- `PCHK s5` (R326). -/
theorem test_decode_pchk : decodeTableWord 32 0x98280000 = some (.pchk 5) := by decide
/-- `LRUN`, index 64, flag L clear (R141). -/
theorem test_decode_lrun : decodeTableWord 32 0x70000040 = some (.lrun false 64) := by decide
/-- `SRD s12, REFTIME` (R139). -/
theorem test_decode_srd : decodeTableWord 32 0x60600007 = some (.srd 12 7) := by decide
/-- The worked example of FFMA (R21). -/
theorem test_decode_ffma : (decodeTableWord 96 0x3F0000000014E2B000220923).map (fun i => match i with
    | .ffma w => (w.vd.val, w.ty, w.imm) | _ => (0, .b32, 0)) = some (9, .f32, 0x3F000000) := by decide
/-- `LWAITC cc1, 2, lt` (R222). -/
theorem test_decode_lwaitc : decodeTableWord 96 0x000000020480000008A80056 =
    some (.lwaitc { blank with a := .imm, fn := 9, imm := 2 }) := by decide
/-- An unassigned opcode has no instruction (R29 step 1). -/
theorem test_decode_unassigned : decodeTableWord 32 0 = none := by decide
/-- A reserved source code has no instruction (R22, R29 step 3). -/
theorem test_decode_reserved : decodeTableWord 96 (0x01 + 511 * 2 ^ 19) = none := by decide

/-! One word of every other family, its fields put together by R19 to R27. -/

/-- `MULHU s9, s8, s7` (R120). -/
theorem test_decode_mulhu : decodeTableWord 32 (0x01 * 2 ^ 25 + 9 * 2 ^ 19 + 8 * 2 ^ 13 + 7 * 2 ^ 7 + 16) = some (.mulhu 9 8 7) := by decide
/-- `CTZ s4, s7` (R123). -/
theorem test_decode_ctz : decodeTableWord 32 (0x0C * 2 ^ 25 + 4 * 2 ^ 19 + 7 * 2 ^ 13 + 1) = some (.ctz 4 7) := by decide
/-- `SEL s1, s2, s3, s4`: the third source in fn (R124). -/
theorem test_decode_sel : decodeTableWord 32 (0x0F * 2 ^ 25 + 1 * 2 ^ 19 + 2 * 2 ^ 13 + 3 * 2 ^ 7 + 4 * 2) = some (.sel 1 2 3 4) := by decide
/-- `SSTD s3, s7, -8` (R132). -/
theorem test_decode_sstd : decodeTableWord 32 (0x27 * 2 ^ 25 + 3 * 2 ^ 19 + 7 * 2 ^ 13 + 0x1FF8) = some (.sstd 3 7 0x1FF8) := by decide
/-- `QPUSH s7, q5` (R232). -/
theorem test_decode_qpush : decodeTableWord 32 (0x44 * 2 ^ 25 + 7 * 2 ^ 13 + 5) = some (.qpush 7 5) := by decide
/-- `WAITC s1, cc1` in the words of R222's program: 0x9000_E001 names s7. -/
theorem test_decode_waitc : decodeTableWord 32 0x9000E001 = some (.waitc 7 1) := by decide
/-- `FENCE` of kind 2 at scope 4 with W set (R234). -/
theorem test_decode_fence : decodeTableWord 32 (0x50 * 2 ^ 25 + 32 + 2 * 8 + 4) = some (.fenceWord true 2 4) := by decide
/-- `WLPOP s3, s4, 9` (R239). -/
theorem test_decode_wlpop : decodeTableWord 32 (0x58 * 2 ^ 25 + 3 * 2 ^ 19 + 4 * 2 ^ 13 + 9) = some (.wlpop 3 4 9) := by decide
/-- The second gated scalar opcode (R32). -/
theorem test_decode_gated_scalar : decodeTableWord 32 (0x71 * 2 ^ 25 + 5) = some (.gatedScalarOpcode 1 5) := by decide
/-- `VCMP.i32 p3, v1, v2, lt` (R149): fn 2. -/
theorem test_decode_vcmp : decodeTableWord 96 (0x14 + 3 * 2 ^ 8 + 1 * 2 ^ 19 + 2 * 2 ^ 28 + 1 * 2 ^ 51 + 2 * 2 ^ 55) =
    some (.vcmp { blank with vd := 3, a := .vreg 1, b := .vreg 2, ty := .i32, fn := 2 }) := by decide
/-- `VFOLD.b32 v6, v5, max` (R161): fn 2. -/
theorem test_decode_vfold : decodeTableWord 96 (0x42 + 6 * 2 ^ 8 + 5 * 2 ^ 19 + 2 * 2 ^ 55) =
    some (.vfold { blank with vd := 6, a := .vreg 5, fn := 2 }) := by decide
/-- `BRL` with guard p1, join displacement 5 in the high half and target displacement 2 in the low half (R21, R170). -/
theorem test_decode_brl : decodeTableWord 96 (0x50 + 1 * 2 ^ 46 + 0x00050002 * 2 ^ 64) =
    some (.brl { blank with pg := 1, imm := 0x00050002 }) := by decide
/-- A gated lane opcode (R32). -/
theorem test_decode_gated_lane : decodeTableWord 96 (0xC3 + 9 * 2 ^ 8) = some (.gatedLaneOpcode 3 9) := by decide
/-- SIGNAL of 7 at address 0x1000 (R339). -/
theorem test_decode_signal : decodeTableWord 512 (3 + 0x1000 * 2 ^ 64 + 7 * 2 ^ 128) = some (.signalCmd 0 0 0x1000 7) := by decide
/-- A command whose reserved bytes are not 0 (R339, R346). -/
theorem test_decode_malformed : (decodeTableWord 512 (2 + 2 ^ 8)).map (fun i => match i with | .malformedCommand .. => true | _ => false) =
    some true := by decide

/-! ## Single steps of scalar words -/

/-- Sums wrap (R45). -/
theorem test_add_wraps : after (exec (.add 3 1 2) (scalarAt (holding (BitVec.allOnes 64) 2))) (·.rs 3) = some 1 := by decide
/-- A write to s0 is discarded (R86). -/
theorem test_add_s0 : after (exec (.add 0 1 2) (scalarAt (holding 5 2))) (fun c => (c.rs 0, c.spc)) = some (0, 1) := by decide
/-- The quotient of any dividend by 0 has all bits set, the remainder is the dividend (R45). -/
theorem test_div_zero : after (exec (.div 3 1 2) (scalarAt (holding 9 0))) (·.rs 3) = some (BitVec.allOnes 64) := by decide
theorem test_rem_zero : after (exec (.rem 3 1 2) (scalarAt (holding 9 0))) (·.rs 3) = some 9 := by decide
/-- The quotient of the most negative number by -1 is itself (R45). -/
theorem test_div_overflow :
    after (exec (.div 3 1 2) (scalarAt (holding 0x8000000000000000 (BitVec.allOnes 64)))) (·.rs 3) = some 0x8000000000000000 := by decide
/-- A remainder takes the sign of the dividend: -7 by 2 (R45). -/
theorem test_rem_sign : after (exec (.rem 3 1 2) (scalarAt (holding (BitVec.ofInt 64 (-7)) 2))) (·.rs 3) = some (BitVec.allOnes 64) := by decide
/-- Shifts read six bits of the count (R120). -/
theorem test_sra_count : after (exec (.sra 3 1 2) (scalarAt (holding (BitVec.ofInt 64 (-8)) 65))) (·.rs 3) = some (BitVec.ofInt 64 (-4)) := by decide
/-- The high half of an unsigned square (R120). -/
theorem test_mulhu : after (exec (.mulhu 3 1 1) (scalarAt (holding (BitVec.allOnes 64) 0))) (·.rs 3) = some 0xFFFFFFFFFFFFFFFE := by decide
/-- A 32-bit difference is sign-extended (R120). -/
theorem test_subw : after (exec (.subw 3 1 2) (scalarAt (holding 0x100000000 1))) (·.rs 3) = some (BitVec.allOnes 64) := by decide
/-- The last of the three SHI words of R122's example. -/
theorem test_shi : after (exec (.shi 5 0x3CDEF) (scalarAt (crew.ws 5 (0x0123456789ABCDEF >>> 19)))) (·.rs 5) = some 0x0123456789ABCDEF := by decide
/-- No bit set: 64 trailing zeros (R123). -/
theorem test_ctz_zero : after (exec (.ctz 3 1) (scalarAt crew)) (·.rs 3) = some 64 := by decide
/-- SLTIU compares with the sign-extended immediate, unsigned (R121). -/
theorem test_sltiu : after (exec (.sltiu 3 1 0x1FFF) (scalarAt (holding 5 0))) (·.rs 3) = some 1 := by decide
/-- A branch below word 0 raises ILLEGAL, detail 3 (R125). -/
theorem test_branch_below : after (exec (.beq 1 2 0x1FFF) (scalarAt crew)) (fun c => (trapOf c, c.spc)) = some ((0x01, 3), 7) := by decide
/-- CALL leaves the next index in s62 (R127). -/
theorem test_call : after (exec (.call 5) (scalarAt { crew with spc := 2 })) (fun c => (c.rs 62, c.spc)) = some (3, 7) := by decide
/-- LOOP falls through when its counter reaches 0 (R129). -/
theorem test_loop_end : after (exec (.loopDec 1 0x1FFF) (scalarAt { holding 1 0 with spc := 4 })) (fun c => (c.rs 1, c.spc)) = some (0, 5) := by decide
/-- A misaligned load raises ALIGN with its address (R130). -/
theorem test_sldd_align : after (exec (.sldd 3 1 1) (scalarAt (holding 0x1000 0))) (fun c => (trapOf c, c.taddr)) = some ((0x0A, 0), 0x1001) := by decide
/-- Address bits above 55 raise PAGE, detail 0 (R130). -/
theorem test_sldb_high : after (exec (.sldb 3 1 0) (scalarAt (holding 0x100000000000000 0))) trapOf = some (0x0B, 0) := by decide
/-- A store of a mapped address is queued (R201). -/
theorem test_sstw_queued : after (exec (.sstw 2 1 4) (scalarAt (holding 0x1000 7))) (fun c => c.storeQ.map fun e => (e.width, e.lanes.map (·.pa))) =
    some [(4, [0x1004])] := by decide
/-- SWR of ASTAT keeps FTZ and the six flags (R65, R116). -/
theorem test_swr_astat : after (exec (.swr 1 0x09) (scalarAt (holding (BitVec.allOnes 64) 0))) (·.astat) = some 0x13F := by decide
/-- A special register that the table lacks raises RESFIELD (R139). -/
theorem test_srd_unlisted : after (exec (.srd 3 0x0E) (scalarAt crew)) trapOf = some (0x02, 0) := by decide
/-- LRUN enqueues a block that starts with all lanes (R80, R141). -/
theorem test_lrun : after (exec (.lrun false 3) (scalarAt crew)) (fun c => (c.laneQ.map (·.start), (c.div.frag 0).map (·.exec))) =
    some ([3], some allLanes) := by decide
/-- A barrier that the kernel does not have raises BARRIER, detail 0 (R229). -/
theorem test_bara_range : after (exec (.bara 3 1 0) (scalarAt crew)) trapOf = some (0x0E, 0) := by decide
/-- A queue that the kernel does not have raises QUEUE, detail 0 (R198). -/
theorem test_qpop_range : after (exec (.qpop 3 0) (scalarAt crew)) trapOf = some (0x0D, 0) := by decide
/-- WAITC goes on when DONE has reached the value (R221). -/
theorem test_waitc : after (exec (.waitc 1 0) (scalarAt crew)) (·.spc) = some 1 := by decide
/-- TRAP carries its code in TINFO.ARG (R111, R334). -/
theorem test_trap : after (exec (.trap 0x123) (scalarAt { crew with spc := 5 })) (fun c => (c.tcause, bitsOf c.tinfo 63 32, c.tspc, c.spc)) =
    some (0x05, 0x123, 5, 7) := by decide
/-- RTE outside handler mode raises PRIV (R115). -/
theorem test_rte_priv : after (exec .rte (scalarAt crew)) trapOf = some (0x04, 0) := by decide
/-- A trap in handler mode halts the crew with code 2 (R112, R202). -/
theorem test_trap_in_handler : after (exec (.trap 0) (scalarAt { crew with handler := true })) (·.st) = some (.halted 2) := by decide
/-- The only crew of a team ends it (R242). -/
theorem test_end : then_ (exec .endCrew (scalarAt crew)) (fun s => (teamOf s 1).map (·.st)) = some (some .ended) := by decide +kernel
/-- A gated opcode without a binding raises ILLEGAL, detail 2 (R32). -/
theorem test_gated : after (exec (.gatedScalarOpcode 0 0) (scalarAt crew)) trapOf = some (0x01, 2) := by decide

/-! ## Single steps of lane words -/

/-- The lane number as a source (R22, R148). -/
theorem test_vadd_lane : after (exec (.vadd { blank with vd := 3, a := .laneId, b := .imm, imm := 5 }) (laneAt blockCrew))
    (fun c => laneGet (c.rv 3) 7) = some 12 := by decide
/-- The worked VBFE of R150. -/
theorem test_vbfe : after (exec (.vbfe { blank with vd := 3, a := .snap 0, b := .imm, ty := .i32, imm := 0xC1C })
    (laneAt (inBlock (Vector.replicate 15 0xB0000000)))) (fun c => laneGet (c.rv 3) 0) = some 0xFFFFFFFB := by decide
/-- The carry of the low word (R151). -/
theorem test_vaddc : after (exec (.vaddc { blank with vd := 3, a := .imm, b := .laneId, c := .zero, imm := 0xFFFFFFFF }) (laneAt blockCrew))
    (fun c => (laneGet (c.rv 3) 0, laneGet (c.rv 3) 1)) = some (0, 1) := by decide
/-- The absolute value of the most negative number is itself (R148). -/
theorem test_vabs : after (exec (.vabs { blank with vd := 3, a := .imm, ty := .i32, imm := 0x80000000 }) (laneAt blockCrew))
    (fun c => laneGet (c.rv 3) 0) = some 0x80000000 := by decide
/-- 1.0 + 1.0 (R152). -/
theorem test_fadd : after (exec (.fadd { blank with vd := 3, a := .imm, b := .imm, ty := .f32, imm := 0x3F800000 }) (laneAt blockCrew))
    (fun c => (laneGet (c.rv 3) 9, c.astat)) = some (0x40000000, 0) := by decide
/-- 1/0 is infinite and divides by zero (R64). -/
theorem test_frcp_zero : after (exec (.frcp { blank with vd := 3, a := .zero, ty := .f32 }) (laneAt blockCrew))
    (fun c => laneGet (c.rv 3) 0) = some 0x7F800000 := by decide +kernel
/-- FEXP2 of 16.0 in FP16 overflows to infinity (R155). -/
theorem test_fexp2_overflow : after (exec (.fexp2 { blank with vd := 3, a := .imm, ty := .f16, imm := 0x4C00 }) (laneAt blockCrew))
    (fun c => laneGet (c.rv 3) 0) = some 0x7C00 := by decide +kernel
/-- An E4M3 slot with a NaN unpacks to the FP32 NaN (R158). -/
theorem test_qunpk_nan : after (exec (.qunpk { blank with vd := 3, a := .snap 0, b := .zero, ty := .e4m3 })
    (laneAt (inBlock (Vector.replicate 15 0x7F)))) (fun c => laneGet (c.rv 3) 0) = some 0x7FC00000 := by decide
/-- The sum of the lane numbers 0 to 63 in every lane (R161). -/
theorem test_vfold_sum : after (exec (.vfold { blank with vd := 3, a := .laneId }) (laneAt blockCrew)) (fun c => laneGet (c.rv 3) 20) =
    some 2016 := by decide
/-- Their running sum up to lane 3 (R162). -/
theorem test_vscan_sum : after (exec (.vscan { blank with vd := 3, a := .laneId }) (laneAt blockCrew)) (fun c => laneGet (c.rv 3) 3) =
    some 6 := by decide
/-- The lanes whose number is not 0 (R168). -/
theorem test_pset : after (exec (.pset { blank with vd := 2, a := .laneId }) (laneAt blockCrew)) (fun c => c.rp 2) =
    some 0xFFFFFFFFFFFFFFFE := by decide
/-- A branch that some lanes take splits the fragment (R99). -/
theorem test_brl_split : after (exec (.brl { blank with pg := 2, imm := 0x00050003 }) (laneAt (blockCrew.wp 2 allLanes 1)))
    (fun c => ((c.div.frag 0).map fun f => (f.exec, f.lpc), (c.div.frag 1).map fun f => (f.exec, f.lpc))) =
    some (some (0xFFFFFFFFFFFFFFFE, 1), some (1, 3)) := by decide +kernel
/-- LTRAP raises TRAP in the lanes of its set (R174). -/
theorem test_ltrap : after (exec (.ltrap { blank with imm := 9 }) (laneAt blockCrew)) (fun c => (c.tcause, bitsOf c.tinfo 63 32, c.tfmask)) =
    some (0x05, 9, allLanes) := by decide
/-- The lanes off their alignment are named (R207). -/
theorem test_vld_align : after (exec (.vld { blank with vd := 3, a := .zero, c := .laneId, imm := 2 }) (laneAt blockCrew))
    (fun c => (trapOf c, c.taddr, c.tfmask)) = some ((0x0A, 0), 2, 0xBBBBBBBBBBBBBBBB) := by decide
/-- An M word of a crew that is no matrix crew raises PRIV, detail 1 (R255). -/
theorem test_mxstat_priv : after (exec (.mxstat blankM) (laneAt blockCrew)) trapOf = some (0x04, 1) := by decide
/-- COLL of a crew that is no comm crew raises PRIV, detail 3 (R409). -/
theorem test_coll_priv : after (exec (.coll blank) (laneAt blockCrew)) trapOf = some (0x04, 3) := by decide

/-! ## Single steps of the other agents -/

/-- A batch that is closed and empty completes (R190). -/
theorem test_batch_complete : after (exec (.batchComplete 0 2) (scalarAt (crew.modCC 2 Counter.close))) (fun c => (c.counter 2).done) = some 1 := by decide
/-- A corner of the mesh has two neighbours to send its beat to (R356). -/
theorem test_beat_corner : then_ (exec (.beatSend 0 0) small) (fun s => s.sent.map (·.dest)) = some [1, 6] := by decide
/-- Loss of the reference clock is the third fatal cause (R377). -/
theorem test_clock_loss : then_ (exec (.referenceClockLoss 0) small) (·.fatal) = some (some 3) := by decide
/-- A cap of less than 1,500 W is refused with STATUS 3 (R395). -/
theorem test_pwrcap : then_ (exec .pwrcap { modDev small 0 (fun d => { d with go := true }) with
    request := { fn := 0, code := 15, tag := 4, ops := [1499] } }) (fun s => ((devOf s 0).status, (devOf s 0).go, s.cap)) = some (3, false, 3400) := by decide
/-- A queue that is not the function's ignores its doorbell (R391). -/
theorem test_doorbell : exec (.doorbellWrite 0 64 1) small = .next small := rfl
/-- REFTIME counts from 0 at package power-on (R4). -/
theorem test_power_on : then_ (exec (.packagePowerOn true true) { small with reftime := 99 }) (·.reftime) = some 0 := by decide

end Sys2Proof.Tests
end

