-- ==== Sys2Proof/Tests/Witness.lean ====
section
/-! SUPPORT. Witnesses for the statements about scalar words: for each of its hypotheses, clause by clause, a concrete state that meets them. -/

namespace Sys2Proof.Tests

set_option Elab.async false

open Sys2Proof Sys2Proof.Machine

/-! ## Streams that run -/

/-- The scalar stream of crew 0 runs in any state whose crew 0 and present word are those of `scalarAt`. -/
theorem ready {c : Crew} {rs : List SReg} (h : c.free rs = true := by decide) : ScalarReady (scalarAt c) 0 c rs := ⟨⟨⟨_, rfl, rfl, rfl⟩, rfl⟩, h⟩

theorem runs {c : Crew} : RunsScalar (scalarAt c) 0 c := ⟨⟨_, rfl, rfl, rfl⟩, rfl⟩

/-- An address that the context does not map. -/
def farVa : W64 := 0x40000000

/-! ## Scalar words that compute -/

/-- Dividends with a divisor that is 0 and one that is not. -/
theorem witness_ScalarAluWordsWriteTheirResults :
    (∃ s u c, ScalarReady s u c [3, 1, 2] ∧ c.rs 2 = 0) ∧ ∃ s u c, ScalarReady s u c [3, 1, 2] ∧ c.rs 2 ≠ 0 :=
  ⟨⟨_, 0, holding 9 0, ready, by decide⟩, ⟨_, 0, holding 9 64, ready, by decide⟩⟩

theorem witness_OtherScalarWordsWriteTheirResults :
    (∃ s u c, ScalarReady s u c [3, 1]) ∧ (∃ s u c, ScalarReady s u c [3, 1, 2, 4] ∧ c.rs 4 = 0) ∧
      ∃ s u c, ScalarReady s u c [3, 1, 2, 4] ∧ c.rs 4 ≠ 0 :=
  ⟨⟨_, 0, crew, ready⟩, ⟨_, 0, crew, ready, by decide⟩, ⟨_, 0, crew.ws 4 1, ready, by decide⟩⟩

/-- Targets at the last word, one past it and below word 0; both outcomes of a branch and of LOOP. -/
theorem witness_ControlTransfersGoWhereTheyShould :
    (∃ s u c, ScalarReady s u c [1, 2] ∧ c.spc = 4 ∧ scodeSize s c = 8 ∧ c.rs 1 = c.rs 2 ∧ ¬(c.rs 1 ≠ c.rs 2) ∧ ¬((c.rs 1).toInt < (c.rs 2).toInt) ∧
      (c.rs 2).toInt ≤ (c.rs 1).toInt ∧ ¬((c.rs 1).toNat < (c.rs 2).toNat) ∧ (c.rs 2).toNat ≤ (c.rs 1).toNat ∧
      (0 ≤ (c.spc : Int) + (3 : Imm13).toInt ∧ (c.spc : Int) + (3 : Imm13).toInt < 8) ∧ 8 ≤ (c.spc : Int) + (4 : Imm13).toInt ∧
      (c.spc : Int) + (0x1FFB : Imm13).toInt < 0) ∧
    (∃ s u c, ScalarReady s u c [1, 2] ∧ c.rs 1 ≠ c.rs 2 ∧ (c.rs 1).toInt < (c.rs 2).toInt ∧ ¬((c.rs 2).toInt ≤ (c.rs 1).toInt) ∧
      (c.rs 1).toNat < (c.rs 2).toNat ∧ ¬((c.rs 2).toNat ≤ (c.rs 1).toNat)) ∧
    (∃ s u c, RunsScalar s u c ∧ c.free [62] = true ∧ c.free [3, 1] = true ∧ c.free [1] = true ∧ c.rs 1 - 1 ≠ 0 ∧ scodeSize s c = 8 ∧
      (c.rs 1 + (0x1FFE : Imm13).signExtend 64).toNat = 7 ∧ (c.rs 1 + (0x1FFF : Imm13).signExtend 64).toNat = 8 ∧
      (c.spc : Int) + (7 : BitVec 25).toInt = 7 ∧ (c.spc : Int) + (8 : BitVec 25).toInt = 8 ∧ (c.spc : Int) + (0x1FFFFFF : BitVec 25).toInt < 0) ∧
    ∃ s u c, RunsScalar s u c ∧ c.free [1] = true ∧ c.rs 1 - 1 = 0 :=
  ⟨⟨_, 0, { holding 5 5 with spc := 4 }, ready, by decide⟩, ⟨_, 0, holding 4 5, ready, by decide⟩,
    ⟨_, 0, holding 9 0, runs, by decide⟩, ⟨_, 0, holding 1 0, runs, by decide⟩⟩

theorem witness_ScalarWritesLeaveTheRest : ∃ s u c, crewOf s u = some c := ⟨scalarAt crew, 0, crew, rfl⟩

/-! ## Scalar memory words -/

/-- A store of 8 bytes that the crew made before and that waits in its side log. -/
def logged (c : Crew) (va : W64) (pa : Nat) (waits : List PageWait) : StoreEntry := { scalarStoreEntry (scalarAt c) c 7 va pa 8 waits with stamp := 1 }

/-- The check of an address for the crew of `scalarAt c`. -/
def checked (c : Crew) (va : W64) (acc : Acc) : State × LaneCheck := checkLane (scalarAt c) 0 0 0 0 va 8 acc false

theorem checked_eq (c : Crew) (va : W64) (acc : Acc) (h : c.team = 1) (d : c.die = 0) (k : c.core = 0) :
    checkLane (scalarAt c) c.die c.core (crewDev (scalarAt c) c) (crewCtx (scalarAt c) c) va 8 acc false = checked c va acc := by
  have e1 : crewDev (scalarAt c) c = 0 := by simp only [crewDev, crewLaunch, h]; rfl
  have e2 : crewCtx (scalarAt c) c = 0 := by simp only [crewCtx, h]; rfl
  rw [checked, d, k, e1, e2]

/-- A page that the word in hand waits for. -/
def heldPage (x : Option Bool) : PageWait := { vp := 0x40000, answer := x }

/-- Addresses with bit 56 set, off their alignment, covered by the log and mapped; a missing page that was refused, that waits, and that has
no record yet. -/
theorem witness_ScalarLoadsAreIssued :
    let at_ : Crew → W64 := fun c => c.rs 1 + (0 : Imm13).signExtend 64
    let high := holding 0x100000000000000 0
    let odd := holding 0xFFFFFFFFFFFFFF 0
    let near := holding 0x1000 0
    let far := holding farVa 0
    let covered := { far with sideLog := [logged far farVa 0 []] }
    let no := { far with held := [heldPage (some false)] }
    let asked := { far with held := [heldPage none] }
    (ScalarReady (scalarAt high) 0 high [3, 1] ∧ high.acquiring = false ∧ 2 ^ 56 ≤ (at_ high).toNat) ∧
    (ScalarReady (scalarAt odd) 0 odd [3, 1] ∧ odd.acquiring = false ∧ (at_ odd).toNat < 2 ^ 56 ∧ (at_ odd).toNat % 2 ≠ 0) ∧
    (ScalarReady (scalarAt covered) 0 covered [3, 1] ∧ covered.acquiring = false ∧ (at_ covered).toNat % 8 = 0 ∧
      (loggedAll covered (scalarAt covered).nextStamp (at_ covered).toNat 8).isSome = true) ∧
    (ScalarReady (scalarAt near) 0 near [3, 1] ∧ near.acquiring = false ∧ near.cfence = 0 ∧
      loggedAll near (scalarAt near).nextStamp (at_ near).toNat 8 = none ∧ (checked near (at_ near) .load).2 = .ok 0x1000 ∧ refused near.held 1 = false ∧
      near.blindStore 0x1000 8 = false) ∧
    (ScalarReady (scalarAt no) 0 no [3, 1] ∧ (checked no (at_ no) .load).2 = .absent ∧ refused no.held 0x40000 = true) ∧
    (ScalarReady (scalarAt asked) 0 asked [3, 1] ∧ (checked asked (at_ asked) .load).2 = .absent ∧ refused asked.held 0x40000 = false ∧
      waiting asked.held 0x40000 = true) ∧
    (ScalarReady (scalarAt far) 0 far [3, 1] ∧ far.acquiring = false ∧ loggedAll far (scalarAt far).nextStamp (at_ far).toNat 8 = none ∧
      (checked far (at_ far) .load).2 = .absent ∧ refused far.held 0x40000 = false ∧ waiting far.held 0x40000 = false ∧
      (writeRecords (checked far (at_ far) .load).1 0 (crewRecords far false far.spc accLoad 0 [(0x40000, 0)])).isSome = true) :=
  ⟨⟨ready, by decide⟩, ⟨ready, by decide⟩, ⟨ready, by decide +kernel⟩, ⟨ready, by decide +kernel⟩, ⟨ready, by decide +kernel⟩,
    ⟨ready, by decide +kernel⟩, ⟨ready, by decide +kernel⟩⟩

/-- The oldest load of a crew, its data at 0x1000. -/
theorem witness_LoadDataReachesTheRegister :
    let p := scalarPending crew 1 3 0x1000 0x1000 8 .global .zero none 0 0 false
    let c := { crew with loads := [p] }
    let s := scalarAt c
    ∃ l, crewOf s 0 = some c ∧ c.loads = p :: [] ∧ p.scalar = true ∧ p.lanes = [l] ∧ l.lane = 0 ∧ p.space = .global ∧ p.atom = none ∧ p.ext = .zero ∧
      c.trapping = none ∧ loadReady s c p l = true ∧ soundGone s c p.sent [l] = false ∧
      loadBytes s c p.stamp l.va.toNat l.pa p.width = (s, List.replicate 8 0, false) :=
  ⟨_, rfl, rfl, rfl, rfl, rfl, rfl, rfl, rfl, rfl, by decide +kernel, by decide +kernel, by decide +kernel⟩

/-- A mapped address with an empty side log, with one entry, with 63; and a missing page. -/
theorem witness_ScalarStoresAreQueued :
    let near := holding 0x1000 7
    let behind := { near with sideLog := [logged near farVa 0 []] }
    let almost := { near with sideLog := List.replicate 63 (logged near farVa 0 []) }
    let far := holding farVa 7
    (ScalarReady (scalarAt near) 0 near [2, 1] ∧ near.acquiring = false ∧ (checked near (near.rs 1) .store).2 = .ok 0x1000 ∧ near.sideLog = []) ∧
    (ScalarReady (scalarAt behind) 0 behind [2, 1] ∧ (checked behind (behind.rs 1) .store).2 = .ok 0x1000 ∧ behind.sideLog ≠ []) ∧
    (ScalarReady (scalarAt almost) 0 almost [2, 1] ∧ (checked almost (almost.rs 1) .store).2 = .ok 0x1000 ∧ almost.sideLog.length = 63) ∧
    (ScalarReady (scalarAt far) 0 far [2, 1] ∧ (checked far (far.rs 1) .store).2 = .absent ∧
      (writeRecords (checked far (far.rs 1) .store).1 0 (crewRecords far false far.spc accStore 0 [(0x40000, 0)])).isSome = true) :=
  ⟨⟨ready, by decide +kernel⟩, ⟨ready, by decide +kernel⟩, ⟨ready, by decide +kernel⟩, ⟨ready, by decide +kernel⟩⟩

/-- A store of 8 bytes at physical 0x1000 that the port has accepted. -/
def portStore : StoreEntry := { logged crew 0x1000 0x1000 [] with port := some 0 }

/-- The launch of the tests is not audited. -/
theorem unaudited {c : Crew} (h : c.team = 1) : c.unaudited (scalarAt c) := by
  intro l hl
  have e : crewLaunch (scalarAt c) c = some code := by simp only [crewLaunch, h]; rfl
  rw [e] at hl
  exact .inl (Option.some.inj hl ▸ rfl)

theorem witness_StoresReachTheirHomes :
    let c := { crew with storeQ := [portStore] }
    let s := scalarAt c
    let l := laneAcc 0 0x1000 0x1000 7 0
    crewOf s 0 = some c ∧ portStore.lanes = [l] ∧ l.lane = 0 ∧ portStore.space = .global ∧ portStore.kind = .plain ∧ portStore.port.isSome = true ∧
      storeReady s c portStore = true ∧ portStore.width = 8 ∧ l.pa % 8 = 0 ∧
      (∃ k, homeKey (crewDev s c) l.pa = some k ∧ responder s c.die k = false) ∧ replayTeam s (some c.team) = none ∧
      c.unaudited s ∧ soundGone s c portStore.sent [l] = false :=
  ⟨rfl, rfl, rfl, rfl, rfl, rfl, by decide +kernel, rfl, rfl, ⟨_, rfl, by decide +kernel⟩, by decide +kernel, unaudited rfl, by decide +kernel⟩

theorem witness_SideLogIsReplayedInOrder :
    let e := logged crew 0x1000 0x1000 []
    let c := { crew with sideLog := [e] }
    crewOf (scalarAt c) 0 = some c ∧ c.sideLog = e :: [] ∧ c.storeQ = [] ∧ e.lanes = [laneAcc 0 0x1000 0x1000 7 0] ∧ e.kind = .plain ∧
      waitsAnswered e.waits = true ∧ refused e.waits 1 = false ∧ storeReady (scalarAt c) c e = true ∧ (checked c 0x1000 .store).2 = .ok 0x1000 ∧
      crewOf (checked c 0x1000 .store).1 0 = some c ∧ c.discard = none :=
  ⟨rfl, rfl, rfl, rfl, rfl, rfl, rfl, by decide +kernel, by decide +kernel, by decide +kernel, rfl⟩

/-- An SATOM or SCAS of 8 bytes that has been issued. -/
def atomLoad (cas ord : Bool) : PendingLoad :=
  scalarPending crew 1 3 0x1000 0x1000 8 .global .zero (some { cas := cas, op := 0, ord := ord, scope := 1 }) 5 0 false

/-- An atomic that may be issued, one behind a store that the port has not taken, one behind an acquire; and the issued ones as their turn comes. -/
theorem witness_ScalarAtomicsAreIssued :
    let c := holding 0x1000 7
    let behind := { c with storeQ := [{ portStore with port := none }] }
    let after := { c with loads := [atomLoad false true] }
    (ScalarReady (scalarAt c) 0 c [3, 1, 2] ∧ c.acquiring = false ∧ c.sideLog = [] ∧ c.portClear = true ∧ refused c.held 1 = false ∧
      (checked c (c.rs 1) .atomic).2 = .ok 0x1000) ∧
    (ScalarReady (scalarAt behind) 0 behind [3, 1, 2] ∧ behind.acquiring = false ∧ behind.portClear = false ∧ refused behind.held 1 = false ∧
      (checked behind (behind.rs 1) .atomic).2 = .ok 0x1000) ∧
    (ScalarReady (scalarAt after) 0 after [4, 1, 2] ∧ after.acquiring = true) ∧
    (∀ cas : Bool,
      let p := atomLoad cas false
      let k := { crew with loads := [p] }
      let s := scalarAt k
      ∃ a l, crewOf s 0 = some k ∧ k.loads = p :: [] ∧ p.scalar = true ∧ p.space = .global ∧ p.ext = .zero ∧ p.atom = some a ∧ p.lanes = [l] ∧ l.lane = 0 ∧
        k.trapping = none ∧ loadReady s k p l = true ∧ soundGone s k p.sent [l] = false ∧ l.took = none ∧ p.width = 8 ∧ l.pa % 8 = 0 ∧
        (∃ h, homeKey (crewDev s k) l.pa = some h ∧ responder s k.die h = false) ∧ replayTeam s (some k.team) = none ∧ k.unaudited s ∧
        readHome s (some k.team) (crewDev s k) k.die l.pa p.width = (s, List.replicate 8 0, false)) ∧
    (let l := { laneAcc 0 0x1000 0x1000 5 0 with took := some (9, false) }
     let p := { atomLoad true false with lanes := [l] }
     let k := { crew with loads := [p] }
     crewOf (scalarAt k) 0 = some k ∧ k.loads = p :: [] ∧ l.took = some (9, false) ∧ loadReady (scalarAt k) k p l = true ∧
       soundGone (scalarAt k) k p.sent [l] = false) :=
  ⟨⟨ready, by decide +kernel⟩, ⟨ready, by decide +kernel⟩, ⟨ready, by decide⟩, fun cas => by
    cases cas <;> exact ⟨_, _, rfl, rfl, rfl, rfl, rfl, rfl, rfl, rfl, rfl, by decide +kernel, by decide +kernel, rfl, rfl, rfl, ⟨_, rfl, by decide +kernel⟩,
      by decide +kernel, unaudited rfl, by decide +kernel⟩, ⟨rfl, rfl, rfl, by decide +kernel, by decide +kernel⟩⟩

theorem witness_AtomicOperationsComputeTheirResults : (32 = 32 ∨ 32 = 64) ∧ (64 = 32 ∨ 64 = 64) := by decide

/-! ## Special registers and lane blocks -/

/-- Registers at the ends of the listed ranges, one that is not listed, and a crew whose lane queue is empty or not. -/
theorem witness_SpecialRegistersAreReadAndWritten :
    (ScalarReady (scalarAt crew) 0 crew [3, 1] ∧ crew.laneQ = []) ∧ (ScalarReady (scalarAt blockCrew) 0 blockCrew [3, 1] ∧ blockCrew.laneQ ≠ []) ∧
    specialListed 0x0E = false ∧ specialListed 0x18 = true ∧ specialListed 0x19 = true ∧ specialListed 0x40 = true ∧ specialListed 0x4F = true ∧
    (0x18 : Nat) ∉ [0x09, 0x0D] :=
  ⟨⟨ready, by decide⟩, ⟨ready, by decide⟩, by decide⟩

/-- An index in `.lcode` and one past its end, with an empty queue, a queue with room, and a queue whose one block has no fragment left. -/
theorem witness_LaneBlocksAreEnqueued :
    let over_ := { blockCrew with div := { Diverge.reset with started := true } }
    (RunsScalar (scalarAt crew) 0 crew ∧ crew.laneQ = [] ∧ crew.laneQ.length < crew.queueDepth ∧ crew.windowLoad = false ∧
      crew.windowReply = false ∧ lcodeSize (scalarAt crew) crew ≤ (8 : BitVec 22).toNat ∧ (7 : BitVec 22).toNat < lcodeSize (scalarAt crew) crew ∧
      crew.free [1] = true ∧ crew.free [3] = true ∧ crew.owns 191 = true ∧ crew.owns 255 = true ∧ crew.free [3, 1] = true) ∧
    (RunsScalar (scalarAt blockCrew) 0 blockCrew ∧ blockCrew.laneQ ≠ [] ∧ blockCrew.laneQ.length < blockCrew.queueDepth) ∧
    (RunsScalar (scalarAt { crew with slow := 63 }) 0 { crew with slow := 63 } ∧ ({ crew with slow := 63 } : Crew).owns 255 = false) ∧
    (RunsScalar (scalarAt over_) 0 over_ ∧ over_.blockOver = true ∧ over_.laneQ ≠ []) :=
  ⟨⟨runs, by decide⟩, ⟨runs, by decide⟩, ⟨runs, by decide⟩, ⟨runs, by decide⟩⟩

end Sys2Proof.Tests
end

