-- ==== Sys2Proof/Tests/WitnessLane.lean ====
section
/-! SUPPORT. Witnesses for the statements about lane words, their fragments and their memory accesses. -/

namespace Sys2Proof.Tests

set_option Elab.async false

open Sys2Proof Sys2Proof.Machine

/-! ## Lane words that run -/

/-- The fragment in slot 0 and the running block. -/
def fragOf (c : Crew) : Frag := (c.div.frag 0).getD (newFrag 0 0 0 [])
def blockOf (c : Crew) : Block := c.laneQ.head?.getD (fetchBlock 0)

/-- What the fragment in slot 0 sees at the first word of a window of one word. -/
def sees (c : Crew) : LaneCx :=
  { u := 0, c := c, slot := 0, fr := fragOf c, blk := blockOf c, win := ⟨0, 1, 0, [], []⟩, use := LaneUse.none, lset := (fragOf c).exec, word := 0 }

/-- The crew is at the first word of such a window. -/
def atWindow (c : Crew) : Bool :=
  c.team == 1 && (c.div.frag 0).isSome && c.laneQ.head?.isSome && (fragOf c).win.getD (openWindow code (fragOf c).lpc) == ⟨0, 1, 0, [], []⟩

/-- Nothing is in the way of the word. -/
def clear (c : Crew) (i : Instr) (m : Crew → Frag → W64) : Bool :=
  let x := (sees c).of i m
  !x.badReg && x.lset != 0 && x.latchError == none && !x.busy && (laneUse i).latches == []

theorem runsLane {c : Crew} (h : atWindow c = true) : RunsLane (laneAt c) (sees c) := by
  simp only [atWindow, Bool.and_eq_true, beq_iff_eq, Option.isSome_iff_exists] at h
  obtain ⟨⟨⟨ht, f, hf⟩, b, hb⟩, hw⟩ := h
  refine ⟨⟨_, rfl, rfl, rfl, rfl, rfl⟩, rfl, ?_, ?_, ⟨code, ?_, ?_⟩, rfl, rfl⟩
  · simp [sees, fragOf, hf]
  · simp [sees, blockOf, hb]
  · simp only [crewLaunch, sees, ht]; rfl
  · exact hw.symm

theorem laneReady {c : Crew} {i : Instr} {m : Crew → Frag → W64} (h : atWindow c = true) (k : clear c i m = true) :
    LaneReady (laneAt c) i m (laneAt c) ((sees c).of i m) := by
  simp only [clear, Bool.and_eq_true, Bool.not_eq_true', bne_iff_ne, beq_iff_eq] at k
  obtain ⟨⟨⟨⟨h1, h2⟩, h3⟩, h4⟩, h5⟩ := k
  exact ⟨rfl, sees c, runsLane h, h1, h2, h3, h4, by rw [h5]; rfl⟩

/-- The words of a list that all run for a crew. -/
theorem allReady {c : Crew} {m : Crew → Frag → W64} {is : List Instr} (h : atWindow c = true) (k : is.all (clear c · m) = true) :
    ∀ i ∈ is, LaneReady (laneAt c) i m (laneAt c) ((sees c).of i m) :=
  fun i hi => laneReady h (List.all_eq_true.mp k i hi)

theorem blockCrew_atWindow : atWindow blockCrew = true := by decide

/-! ## Gates, results and arithmetic -/

/-- A register outside the allocation, an M word of a crew that has no matrix role, a lane set that is empty, an invalid latch, and a load that has not returned. -/
theorem witness_LaneWordsAreGated :
    let few := { blockCrew with slow := 0 }
    let waits := { blockCrew with loads := [{ scalarPending crew 1 3 0x1000 0x1000 4 .global .zero none 0 0 false with scalar := false }] }
    (RunsLane (laneAt blockCrew) (sees blockCrew) ∧ ((sees blockCrew).of (.mxzero blankM) wholeExec).badReg = false ∧
      privDetail blockCrew (.mxzero blankM) = some 1 ∧ privDetail blockCrew (.vmov blank) = none) ∧
    (RunsLane (laneAt few) (sees few) ∧ ((sees few).of (.vmov { blank with a := .vreg 192 }) (guarded blank)).badReg = true) ∧
    (RunsLane (laneAt blockCrew) (sees blockCrew) ∧ ((sees blockCrew).of (.vmov blank) (guarded { blank with pn := true })).badReg = false ∧
      ((sees blockCrew).of (.vmov blank) (guarded { blank with pn := true })).lset = 0) ∧
    (((sees blockCrew).of (.vmov { blank with a := .latch 3 }) (guarded blank)).lset ≠ 0 ∧
      ((sees blockCrew).of (.vmov { blank with a := .latch 3 }) (guarded blank)).latchError = some (0, 3)) ∧
    (RunsLane (laneAt waits) (sees waits) ∧ ((sees waits).of (.vmov { blank with a := .vreg 3 }) (guarded blank)).badReg = false ∧
      ((sees waits).of (.vmov { blank with a := .vreg 3 }) (guarded blank)).lset ≠ 0 ∧
      ((sees waits).of (.vmov { blank with a := .vreg 3 }) (guarded blank)).latchError = none ∧
      ((sees waits).of (.vmov { blank with a := .vreg 3 }) (guarded blank)).busy = true) :=
  ⟨⟨runsLane (by decide), by decide⟩, ⟨runsLane (by decide), by decide⟩, ⟨runsLane (by decide), by decide⟩, by decide, ⟨runsLane (by decide), by decide⟩⟩

/-- A word inside its window and the last word of one. -/
theorem witness_LaneResultsAreWritten :
    let x := sees blockCrew
    let y := { x with win := { x.win with len := 2 } }
    crewOf (laneAt blockCrew) x.u = some x.c ∧ x.c.trapping = none ∧ x.slot < 8 ∧ x.win.len ≤ x.win.done + 1 ∧ y.win.done + 1 < y.win.len :=
  ⟨rfl, rfl, by decide⟩

theorem witness_SourcesSupplyTheirValues :
    ({ blank with imm := 0 } : LaneWord).wa = false ∧ { blank with a := .zero }.wa = false ∧ ({ blank with a := .snap 14 } : LaneWord).a = .snap 14 ∧
      ∃ w : LaneWord, w.wa = true := by
  exact ⟨by decide, by decide, rfl, ⟨{ blank with fn := 1 }, by decide⟩⟩

theorem witness_LaneIntegerWordsWriteTheirResults : ∀ i ∈ [Instr.vadd blank, .vsub blank, .vmul blank, .vmulh blank, .vmad blank, .vand blank, .vor blank,
    .vxor blank, .vshl blank, .vshr blank, .vmin blank, .vmax blank, .vabs blank, .vsel blank, .vclz blank, .vpopc blank, .vbfe blank, .vbfi blank,
    .vmov blank, .vneg blank, .vaddc blank, .vcmp blank], LaneReady (laneAt blockCrew) i (guarded blank) (laneAt blockCrew) ((sees blockCrew).of i (guarded blank)) :=
  allReady blockCrew_atWindow (by decide)

theorem witness_LaneFloatWordsRoundTheirResults : ∀ i ∈ [Instr.fadd blank, .fsub blank, .fmul blank, .ffma blank, .fscale blank, .fmin blank, .fmax blank,
    .fcmp blank, .frcp blank, .frsq blank, .fsqrt blank, .fexp2 blank, .flog2 blank, .fsin blank, .fcos blank, .frnd blank, .fclass blank],
    LaneReady (laneAt blockCrew) i (guarded blank) (laneAt blockCrew) ((sees blockCrew).of i (guarded blank)) :=
  allReady blockCrew_atWindow (by decide)

/-- Numbers whose exact sum is zero and is not, an infinity beside a number, and the operands that FEXP2, FLOG2, FSIN and FCOS name: 3, 1, 2 and 1/2. -/
theorem witness_LaneFloatWordsRoundTheirResults_values :
    fp32 ∈ [fp32, fp16, bf16] ∧ bf16 ∈ [fp32, fp16, bf16] ∧ (-149 : Int) ≤ -1 ∧ (-149 : Int) ≤ -149 ∧
      signed false 1 * 2 ^ ((0 : Int) - 0).toNat + signed true 1 * 2 ^ ((0 : Int) - 0).toNat = 0 ∧
      signed false 1 * 2 ^ ((0 : Int) - 0).toNat + signed false 1 * 2 ^ ((0 : Int) - 0).toNat ≠ 0 ∧
      (FVal.inf true ≠ .nan ∧ (∀ p, FVal.num false 1 0 ≠ .zero p) ∧ ∀ p, FVal.num false 1 0 ≠ .inf p) ∧
      signed true 3 = -3 * 2 ^ (-(0 : Int)).toNat ∧ 2 = 2 ^ (-(-1 : Int)).toNat ∧ 4 % 2 ^ (-(-1 : Int)).toNat = 0 ∧
      2 * (1 % 2 ^ (-(-1 : Int)).toNat) = 2 ^ (-(-1 : Int)).toNat := by
  refine ⟨?_, ?_, ?_, ?_, ?_, ?_, ⟨?_, fun _ => ?_, fun _ => ?_⟩, ?_, ?_, ?_, ?_⟩ <;> first | decide | nofun

/-- A conversion between two types and within one, and the highest slot of a packing. -/
theorem witness_ConversionWordsConvert :
    (Ty.ofCode ((2 : W32).toNat % 16) = some .f32 ∧ Ty.f16 ≠ Ty.f32 ∧ (∀ i ∈ [Instr.fcvt { blank with ty := .f16, imm := 2 }, .ftoi { blank with ty := .i32, imm := 2 },
      .itof { blank with ty := .f32, imm := 2 }, .qpack { blank with ty := .f16, imm := 1 }, .qunpk { blank with ty := .f16, imm := 1 }],
      LaneReady (laneAt blockCrew) i (guarded blank) (laneAt blockCrew) ((sees blockCrew).of i (guarded blank)))) ∧
    (1 < 32 / slotBits .f16 ∧ 7 < 32 / slotBits .e2m1) ∧ e2m1 ∈ [fp32, fp16, bf16, e4m3, e5m2, e2m1] ∧ 0 < 3 ∧ (Rnd.mk 4 0 false false).rm ≤ 4 :=
  ⟨⟨by decide, by decide, allReady blockCrew_atWindow (by decide)⟩, by decide⟩

/-- An FP16 overflow, a normal result and a tiny one, flushed or not; the largest finite FP32 number and the smallest subnormal. -/
theorem witness_RoundingGivesTheNeighbour :
    let r : Rnd := { rm := 4, rb := 0, ftz := false, sat := false }
    let q : Rnd := { rm := 0, rb := 2 ^ 32 - 1, ftz := true, sat := false }
    let unit := 2 ^ (fp16.minQ - (-34)).toNat
    let top := (fp16.decode (fp16.maxF false)).amount (-34)
    let v := fun mag : Nat => roundedTo q false mag (2 ^ (Nat.log2 mag - fp16.mbits))
    (fp16 ∈ [fp32, fp16, bf16, e4m3, e5m2, e2m1] ∧ q.rm ≤ 4 ∧ q.rb < 2 ^ 32 ∧ min (0 : Int) fp16.minQ - fp16.mbits = -34 ∧
      top < v (65520 * 2 ^ 34) ∧ v (3 * 2 ^ 34) ≤ top ∧ 2 ^ fp16.mbits * unit ≤ v (3 * 2 ^ 34) ∧ q.ftz = true ∧ fp16 ∈ [fp32, fp16, bf16] ∧
      v 1 < 2 ^ fp16.mbits * unit) ∧
    fp32 ∈ [fp32, fp16, bf16, e4m3, e5m2, e2m1] ∧ 0x7F7FFFFF < 2 ^ fp32.width ∧ fp32.decode 0x7F7FFFFF = .num false 0xFFFFFF 104 ∧
      fp32.decode 1 = .num false 1 (-149) ∧ r.ftz = false ∧ r.rm ≤ 4 := by decide

/-! ## Exchange words -/

theorem witness_ExchangeWordsWriteTheirResults :
    (∀ i ∈ [Instr.vshfl blank, .vvote blank, .plog blank, .pset blank, .execrd blank],
      LaneReady (laneAt blockCrew) i (guarded blank) (laneAt blockCrew) ((sees blockCrew).of i (guarded blank))) ∧
    (0 : BitVec 9).toNat % 4 = 0 ∧ (1 : BitVec 9).toNat % 4 = 1 ∧ (2 : BitVec 9).toNat % 4 = 2 ∧ ({ blank with a := .snap 14 } : LaneWord).a = .snap 14 ∧
      ({ blank with a := .imm } : LaneWord).a = .imm ∧ blank.a ≠ .imm ∧ ∀ r, blank.a ≠ .snap r :=
  ⟨allReady blockCrew_atWindow (by decide), by decide⟩

theorem witness_FoldsAndScansRunInTheirOrder :
    (∀ i ∈ [Instr.vfold blank, .vscan blank], LaneReady (laneAt blockCrew) i (guarded blank) (laneAt blockCrew) ((sees blockCrew).of i (guarded blank))) ∧
    (blank.ty = .b32 ∨ blank.ty = .i32) ∧ blank.fn.getLsbD 7 = false :=
  ⟨allReady blockCrew_atWindow (by decide), by decide⟩

/-! ## Fragments -/

theorem noVsync_of {d : Diverge} (h : ∀ k : Fin 8, (d.slots[k].frag.all fun f => f.st != .atVsync) = true) : d.noVsync := by
  intro n f hf
  simp only [Diverge.frag, vget] at hf
  split at hf
  · next hn =>
    have := h ⟨n, hn⟩
    simp only [Fin.getElem_fin] at this
    simp [hf] at this
    exact this
  · cases hf

/-- A crew of one fragment that no trap and no VSYNC waits for. -/
theorem blockCrew_calm : (sees blockCrew).calm := ⟨rfl, noVsync_of (by decide)⟩

/-- A join entry of slot 0's first split. -/
def pair : JoinEntry := { join := 0, id := 0 }

/-- Two fragments that hold the entry: slot 0 owns the low lanes, slot 1 the rest. -/
def split (st : FragSt) : Diverge :=
  { blockCrew.div with
    slots := (blockCrew.div.slots.set 0 { gen := true, frag := some { newFrag 0xFFFFFFFF 0 1 [pair] with st := st } }).set 1
      { gen := false, frag := some { newFrag 0xFFFFFFFF00000000 0 2 [pair] with st := st } } }

/-- The same, the fragment in slot 1 parked alone. -/
def halfParked : Diverge :=
  { split .ready with slots := (split .ready).slots.set 1 { gen := false, frag := some { newFrag 0xFFFFFFFF00000000 0 2 [pair] with st := .parked } } }

def splitCrew : Crew := { blockCrew with div := split .ready }

/-- What the crew is once the fragment in slot 0 has arrived at a VSYNC. -/
def arrived (x : LaneCx) (w : LaneWord) : Crew :=
  { x.c with div := x.c.div.setFrag x.slot (some (x.frNext
    { x.fr with st := .atVsync, arrivals := (lanesOf x.lset).map fun k => (k, x.src w w.b k ++ x.src w w.a k), vlanes := x.lset } x.fr.lpc)) }

/-- A mask of all lanes in a block of one fragment and in one of two, and a mask that misses the lanes themselves. -/
theorem witness_VsyncWaitsForItsSets :
    let w := { blank with a := .imm, b := .imm, imm := 0xFFFFFFFF }
    let x := (sees blockCrew).of (.vsync w) (guarded w)
    let z := (sees splitCrew).of (.vsync w) (guarded w)
    (LaneReady (laneAt blockCrew) (.vsync w) (guarded w) (laneAt blockCrew) x ∧ x.c.trapping = none ∧ x.c.div.noVsync ∧
      ∀ k, x.lset.getLsbD k = true → x.src w w.b k ++ x.src w w.a k = x.lset) ∧
    (LaneReady (laneAt splitCrew) (.vsync w) (guarded w) (laneAt splitCrew) z ∧ z.c.trapping = none ∧ (arrived z w).div.maskError (some z.slot) = none ∧
      (arrived z w).div.complete = [] ∧ (arrived z w).div.waitError = none) ∧
    (let y := (sees blockCrew).of (.vsync blank) (guarded blank)
     LaneReady (laneAt blockCrew) (.vsync blank) (guarded blank) (laneAt blockCrew) y ∧ y.lset.getLsbD 63 = true ∧
       (y.src blank blank.b 63 ++ y.src blank blank.a 63).getLsbD 63 = false) :=
  ⟨⟨laneReady blockCrew_atWindow (by decide), rfl, blockCrew_calm.2,
      fun _ _ => show (0xFFFFFFFF : W32) ++ (0xFFFFFFFF : W32) = (fragOf blockCrew).exec &&& guardMask blockCrew 0 false from by decide⟩,
    ⟨laneReady (by decide) (by decide), rfl, by decide +kernel⟩, laneReady blockCrew_atWindow (by decide), by decide⟩

/-- A serial entry of slot 0. -/
def serialArm (second : Bool) : SerialEntry := { join := 0, resume := 1, maskN := 1, ran := 3, slot := 0, second := second }

/-- The block with a serial stack. -/
def serialCrew (es : List SerialEntry) : Crew := { blockCrew with div := { blockCrew.div with serial := es } }

theorem serial_calm (es : List SerialEntry) : (sees (serialCrew es)).calm :=
  ⟨rfl, noVsync_of (show ∀ k : Fin 8, (blockCrew.div.slots[k].frag.all fun f => f.st != .atVsync) = true from by decide)⟩

/-- A join outside `.lcode`; guards that no lane, every lane and one lane passes; serialisation under a serial entry, with room and without. -/
theorem witness_BranchesSplitFragments :
    let w := { blank with imm := 0x00020003 }
    let far := { blank with imm := 0x00080003 }
    let none_ := { w with pn := true }
    let some_ := { w with pg := 2 }
    let one := blockCrew.wp 2 allLanes 1
    let deep := { serialCrew (List.replicate 15 (serialArm true)) with p := one.p }
    let full := { serialCrew (List.replicate 16 (serialArm true)) with p := one.p }
    let x := (sees blockCrew).of (.brl w) wholeExec
    let t := fun (c : Crew) (w : LaneWord) => (fragOf c).exec &&& guardMask c w.pg w.pn
    (LaneReady (laneAt blockCrew) (.brl w) wholeExec (laneAt blockCrew) x ∧ x.calm ∧ x.laneTarget (laneAt blockCrew) 2 = some 2 ∧
      x.laneTarget (laneAt blockCrew) 3 = some 3 ∧ x.laneTarget (laneAt blockCrew) 7 = some 7 ∧
      x.laneTarget (laneAt blockCrew) (far.imm.toNat / 2 ^ 16) = none ∧ t blockCrew none_ = 0 ∧ t blockCrew w = (fragOf blockCrew).exec) ∧
    (LaneReady (laneAt one) (.brl some_) wholeExec (laneAt one) ((sees one).of (.brl some_) wholeExec) ∧ t one some_ ≠ 0 ∧ t one some_ ≠ (fragOf one).exec ∧
      one.div.freeSlot = some 1 ∧ ¬(4 ≤ (fragOf one).stack.length) ∧ ¬((one.div.serialOf 0).isSome = true)) ∧
    (LaneReady (laneAt deep) (.brl some_) wholeExec (laneAt deep) ((sees deep).of (.brl some_) wholeExec) ∧ t deep some_ ≠ 0 ∧
      t deep some_ ≠ (fragOf deep).exec ∧ (deep.div.serialOf 0).isSome = true ∧ deep.div.serial.length < 16) ∧
    (LaneReady (laneAt full) (.brl some_) wholeExec (laneAt full) ((sees full).of (.brl some_) wholeExec) ∧ t full some_ ≠ 0 ∧
      t full some_ ≠ (fragOf full).exec ∧ (full.div.serialOf 0).isSome = true ∧ 16 ≤ full.div.serial.length) :=
  ⟨⟨laneReady blockCrew_atWindow (by decide), blockCrew_calm, by decide⟩, ⟨laneReady (by decide) (by decide), by decide⟩,
    ⟨laneReady (by decide) (by decide), by decide⟩, ⟨laneReady (by decide) (by decide), by decide⟩⟩

/-- A join that is not awaited; the ends of both serial arms; a fragment that parks. -/
theorem witness_JoinsEndTheirArms :
    let i := Instr.joinWord blank
    let apart := serialCrew [{ serialArm false with join := 5 }]
    let first := serialCrew [serialArm false]
    let second := serialCrew [serialArm true]
    let nested := serialCrew [serialArm true, { serialArm false with join := 5 }]
    let waits := { blockCrew with div := halfParked }
    (LaneReady (laneAt apart) i wholeExec (laneAt apart) ((sees apart).of i wholeExec) ∧ (sees apart).calm ∧
      apart.div.serialOf 0 = some { serialArm false with join := 5 } ∧ (5 : Nat) ≠ (fragOf apart).lpc) ∧
    (LaneReady (laneAt blockCrew) i wholeExec (laneAt blockCrew) ((sees blockCrew).of i wholeExec) ∧ blockCrew.div.serialOf 0 = none ∧
      (fragOf blockCrew).stack.head? = none) ∧
    (LaneReady (laneAt first) i wholeExec (laneAt first) ((sees first).of i wholeExec) ∧ first.div.serialOf 0 = some (serialArm false) ∧
      (serialArm false).join = (fragOf first).lpc ∧ (serialArm false).maskN &&& (fragOf first).owned ≠ 0) ∧
    (LaneReady (laneAt second) i wholeExec (laneAt second) ((sees second).of i wholeExec) ∧ second.div.serialOf 0 = some (serialArm true) ∧
      (serialArm true).join = (fragOf second).lpc ∧ (fragOf second).owned ≠ 0 ∧ (popSerial 0 second.div.serial).find? (·.slot == 0) = none) ∧
    (LaneReady (laneAt nested) i wholeExec (laneAt nested) ((sees nested).of i wholeExec) ∧ (sees nested).calm ∧
      nested.div.serialOf 0 = some (serialArm true) ∧ (serialArm true).join = (fragOf nested).lpc ∧ (serialArm true).ran &&& (fragOf nested).owned ≠ 0 ∧
      (popSerial 0 nested.div.serial).find? (·.slot == 0) = some { serialArm false with join := 5 }) ∧
    (LaneReady (laneAt waits) i wholeExec (laneAt waits) ((sees waits).of i wholeExec) ∧ (sees waits).calm ∧ waits.div.serialOf 0 = none ∧
      (fragOf waits).stack = pair :: [] ∧ pair.join = (fragOf waits).lpc ∧
      (∃ h, waits.div.frag 1 = some h ∧ h.stack = pair :: [] ∧ h.st = .parked ∧ (fragOf waits).owned ||| h.owned ≠ 0) ∧ waits.div.serial = [] ∧
      ∀ n : Fin 8, n ≠ 0 → n ≠ 1 → waits.div.frag n.val = none) ∧
    (LaneReady (laneAt splitCrew) i wholeExec (laneAt splitCrew) ((sees splitCrew).of i wholeExec) ∧ (sees splitCrew).calm ∧
      splitCrew.div.serialOf 0 = none ∧ (fragOf splitCrew).stack = pair :: [] ∧ pair.join = (fragOf splitCrew).lpc ∧
      (∃ h, splitCrew.div.frag 1 = some h ∧ [pair].isSuffixOf h.stack = true ∧ h.st = .ready) ∧ splitCrew.div.serial = [] ∧
      ∀ n : Fin 8, (splitCrew.div.slots[n].frag.all fun k => k.st != .parked) = true) :=
  ⟨⟨laneReady (by decide) (by decide), serial_calm _, by decide⟩, ⟨laneReady blockCrew_atWindow (by decide), by decide⟩,
    ⟨laneReady (by decide) (by decide), by decide⟩, ⟨laneReady (by decide) (by decide), by decide⟩,
    ⟨laneReady (by decide) (by decide), serial_calm _, by decide⟩,
    ⟨laneReady (by decide) (by decide), ⟨rfl, noVsync_of (by decide)⟩, rfl, rfl, rfl, ⟨_, rfl, rfl, rfl, by decide⟩, rfl, by decide⟩,
    ⟨laneReady (by decide) (by decide), ⟨rfl, noVsync_of (by decide)⟩, rfl, rfl, rfl, ⟨_, rfl, by decide, rfl⟩, rfl, by decide⟩⟩

theorem witness_ParkedFragmentsFuse :
    ∃ f g, (split .parked).frag 0 = some f ∧ (split .parked).frag 1 = some g ∧ f.st = .parked ∧ g.st = .parked ∧ f.stack = pair :: [] ∧ g.stack = pair :: [] ∧
      ∀ n : Fin 8, n ≠ 0 → n ≠ 1 → (split .parked).frag n.val = none :=
  ⟨_, _, rfl, rfl, rfl, rfl, rfl, rfl, by decide⟩

theorem witness_FlowWordsActOnTheirFragment :
    let g := fun (c : Crew) (_ : Frag) => guardMask c blank.pg blank.pn
    let x := (sees blockCrew).of (.execwr blank) g
    LaneReady (laneAt blockCrew) (.execwr blank) g (laneAt blockCrew) x ∧ x.calm ∧
      ((x.fr.exec &&& ~~~guardMask x.c blank.pg blank.pn) ||| (x.c.rp (predSrc blank.a) &&& guardMask x.c blank.pg blank.pn)) &&& x.fr.owned ≠ 0 ∧
      (∀ i ∈ [Instr.lend blank, .lyield blank, .lnop blank], LaneReady (laneAt blockCrew) i wholeExec (laneAt blockCrew) ((sees blockCrew).of i wholeExec)) ∧
      LaneReady (laneAt blockCrew) (.ltrap blank) (guarded blank) (laneAt blockCrew) ((sees blockCrew).of (.ltrap blank) (guarded blank)) ∧
      blockCrew.div.serial = [] ∧ (∀ n : Fin 8, (blockCrew.div.slots[n].frag.all fun f => f.st == .ready) = true) ∧
      ({ Fair.reset with demote := 66 } : Fair).demote = 66 :=
  ⟨laneReady blockCrew_atWindow (by decide), blockCrew_calm, by decide, allReady blockCrew_atWindow (by decide),
    laneReady blockCrew_atWindow (by decide), rfl, by decide, rfl⟩

/-- Two streams of a crew, one demoted, under `.prog on` and `.prog off`. -/
theorem witness_FlowWordsActOnTheirFragment_ranking :
    let at_ := fun (c : Crew) (d : Nat) => ({ who := .scalar 0, crew := c, slot := 0, key := d, fair := { Fair.reset with demote := d }, open_ := false, out := false } : Candidate)
    let on := { small with launches := [(0, { code with kernel := { code.kernel with prog := true } })] }
    (crewProg on (at_ crew 0).crew = true ∧ 1 < (at_ crew 2).fair.demote ∧ (at_ crew 2).urgent on = false ∧ (at_ crew 0).fair.demote ≤ 1) ∧
      crewProg small (at_ crew 0).crew = false := by decide

theorem witness_DivergenceKeepsLanesApart :
    (sees splitCrew).calm ∧ splitCrew.div.good = true ∧ (∀ i ∈ [Instr.brl blank, .joinWord blank, .lend blank],
      LaneReady (laneAt splitCrew) i wholeExec (laneAt splitCrew) ((sees splitCrew).of i wholeExec)) ∧
      LaneReady (laneAt splitCrew) (.execwr blank) (fun c _ => guardMask c blank.pg blank.pn) (laneAt splitCrew)
        ((sees splitCrew).of (.execwr blank) fun c _ => guardMask c blank.pg blank.pn) :=
  ⟨⟨rfl, noVsync_of (by decide)⟩, by decide, allReady (by decide) (by decide), laneReady (by decide) (by decide)⟩

end Sys2Proof.Tests
end

