-- ==== Sys2Proof/Tests/WitnessCrew.lean ====
section
/-! SUPPORT. Witnesses for the statements about barriers, queues, counters, system words, traps and work lists. -/

namespace Sys2Proof.Tests

set_option Elab.async false

open Sys2Proof Sys2Proof.Machine

/-! ## A team with every object -/

/-- A launch of `shape` cores a team, with all barriers and queues and a work list of 16 items. -/
def wide (shape : Nat) : Launch :=
  { code with kernel := { code.kernel with barriers := 448, queues := 64, shape := shape }, record := { code.record with wlcap := 16 } }

/-- The team, with its barrier `id` of the leader and its queue 63. -/
def teamWith (id : Nat) (b : Barrier) (q : QueueSt) : Team := { fetchTeam 1 0 0 with barriers := [(id, b)], queues := [(63, q)] }

/-- Crew 0 of such a team runs its scalar word. -/
def onTeam (shape : Nat) (c : Crew) (t : Team) : State := { scalarAt c with launches := [(0, wide shape)], teams := [(1, t)] }

theorem readyOn {shape : Nat} {c : Crew} {t : Team} {rs : List SReg} (h : c.free rs = true := by decide) : ScalarReady (onTeam shape c t) 0 c rs :=
  ⟨⟨⟨_, rfl, rfl, rfl⟩, rfl⟩, h⟩

theorem runsOn {shape : Nat} {c : Crew} {t : Team} : RunsScalar (onTeam shape c t) 0 c := ⟨⟨_, rfl, rfl, rfl⟩, rfl⟩

/-- A barrier that expects `e` arrivals and has counted `n`. -/
def bar (e n : Nat) (par abnd : Bool) : Barrier := { expected := e, count := n, par := par, abnd := abnd, marks := [], past := [] }

/-- A queue of depth 2 with `n` handles. -/
def ring (n : Nat) : QueueSt :=
  { ring := 0, depth := 2, count := n, head := 0, allow := 2 - n, init := true }

/-! ## Barriers -/

/-- The first id past the own ones in a team of one core and the first past all in one of four; the last own id, with EXPECTED at 0, one arrival
short and at its last arrival, abandoned, and of both parities; EXPECTED operands at the ends of their range; and a crew behind an acquire. -/
theorem witness_BarriersCountTheirArrivals :
    let id : Crew → Nat := fun c => (c.rs 1 + (0 : Imm13).signExtend 64).toNat
    let last := holding 447 1
    let odd := last.ws 3 1
    let t := fun b => teamWith 447 b (ring 0)
    let ok := fun (shape : Nat) (c : Crew) (t : Team) => ScalarReady (onTeam shape c t) 0 c [3, 1, 2] ∧ teamOf (onTeam shape c t) c.team = some t ∧
      crewLaunch (onTeam shape c t) c = some (wide shape)
    (ok 1 (holding 448 0) (t (bar 0 0 false false)) ∧ (wide 1).kernel.barriers ≤ id (holding 448 0) ∧ ¬(1 < (wide 1).kernel.shape)) ∧
    (ok 4 (holding 512 0) (t (bar 0 0 false false)) ∧ (wide 4).kernel.barriers ≤ id (holding 512 0) ∧ ¬(id (holding 512 0) ≤ 511)) ∧
    (ok 4 last (t (bar 0 0 false false)) ∧ id last < 448 ∧ last.await = .none ∧ last.reply.any (·.waits) = false ∧ last.acquiring = false ∧ (t (bar 0 0 false false)).barrier last.coreIdx (id last) = bar 0 0 false false) ∧
    (ok 4 last (t (bar 2 0 false false)) ∧ (t (bar 2 0 false false)).barrier last.coreIdx (id last) = bar 2 0 false false ∧ ¬(0 + 1 = 2)) ∧
    (ok 4 last (t (bar 2 1 false false)) ∧ (t (bar 2 1 false false)).barrier last.coreIdx (id last) = bar 2 1 false false ∧ 1 + 1 = 2 ∧
      (((bar 2 1 false false).arrive (markNow (onTeam 4 last (t (bar 2 1 false false))) 0 last)).1.past.all
        (markReleased (putTeam (onTeam 4 last (t (bar 2 1 false false))) 1
          ((t (bar 2 1 false false)).putBarrier 0 447 ((bar 2 1 false false).arrive (markNow (onTeam 4 last (t (bar 2 1 false false))) 0 last)).1)) 1)) = true) ∧
    (ok 4 last (t (bar 2 1 false true)) ∧ (t (bar 2 1 false true)).barrier last.coreIdx (id last) = bar 2 1 false true) ∧
    (ok 4 odd (t (bar 2 1 true false)) ∧ (odd.rs 3).getLsbD 0 = true ∧ (bar 2 1 true false).past.all (markReleased (onTeam 4 odd (t (bar 2 1 true false))) 1) = true) ∧
    (ok 4 odd (t (bar 2 1 false false)) ∧ (odd.rs 3).getLsbD 0 ≠ (bar 2 1 false false).par) ∧
    (ok 4 (holding 447 65535) (t (bar 2 1 false false)) ∧ ((holding 447 65535).rs 2).toNat = 65535 ∧ ((holding 447 1).rs 2).toNat = 1 ∧
      ((holding 447 0).rs 2).toNat = 0 ∧ 65535 < ((holding 447 65536).rs 2).toNat ∧ ok 4 (holding 447 65536) (t (bar 2 1 false false)) ∧
      ok 4 (holding 447 0) (t (bar 2 1 false false))) ∧
    (let after := { last with loads := [atomLoad false true] }
     ScalarReady (onTeam 4 after (t (bar 2 0 false false))) 0 after [4, 1, 2] ∧ after.acquiring = true ∧ id after = 447 ∧ after.await = .none ∧ after.reply.any (·.waits) = false) ∧
    odd.acquiring = false :=
  ⟨⟨⟨readyOn, rfl, rfl⟩, by decide⟩, ⟨⟨readyOn, rfl, rfl⟩, by decide⟩, ⟨⟨readyOn, rfl, rfl⟩, by decide⟩, ⟨⟨readyOn, rfl, rfl⟩, by decide⟩,
    ⟨⟨readyOn, rfl, rfl⟩, by decide +kernel⟩, ⟨⟨readyOn, rfl, rfl⟩, by decide⟩, ⟨⟨readyOn, rfl, rfl⟩, by decide +kernel⟩, ⟨⟨readyOn, rfl, rfl⟩, by decide⟩,
    ⟨⟨readyOn, rfl, rfl⟩, by decide, by decide, by decide, by decide, ⟨readyOn, rfl, rfl⟩, ⟨readyOn, rfl, rfl⟩⟩,
    ⟨readyOn, by decide⟩, by decide⟩

/-- The crew of team core 1; the reply it waits for; the request it has sent to barrier `id` of the leader. -/
def second (c : Crew) : Crew := { c with role := 4 }
def replyOf (id : Nat) (par : Option Bool) (waits : Bool) : BarReply := { reg := 3, id := id, tag := 7, par := par, waits := waits }
def request (id : Nat) : BarReq := { tag := 7, crew := 0, core := 1, id := id, op := .arrive, mark := { crew := 0, stamp := 0, synced := 0 },
                                     word := 0, spc := 0 }

/-- Both ends of the team barriers, sent, applied and returned; one that finds EXPECTED 0; a completion on its way to the last core. -/
theorem witness_TeamBarriersTravel :
    let id : Crew → Nat := fun c => (c.rs 1 + (0 : Imm13).signExtend 64).toNat
    let t := fun n => teamWith n (bar 1 0 false false) (ring 0)
    let sends := fun n => second (holding (BitVec.ofNat 64 n) 0)
    let asks := fun n => { second crew with reply := [replyOf n none false] }
    let back := fun w => { second crew with reply := [replyOf 448 (some true) w] }
    let sent : Team := { t 448 with barSent := [(512 * 3 + 448, [true, false])] }
    (∀ n ∈ [448, 511], ScalarReady (onTeam 4 (sends n) (t n)) 0 (sends n) [3, 1] ∧ teamOf (onTeam 4 (sends n) (t n)) (sends n).team = some (t n) ∧
      crewLaunch (onTeam 4 (sends n) (t n)) (sends n) = some (wide 4) ∧ (sends n).coreIdx ≠ 0 ∧ (sends n).acquiring = false ∧ id (sends n) = n ∧
      (wide 4).kernel.barriers ≤ id (sends n) ∧ leaderLost (onTeam 4 (sends n) (t n)) (t n) = false) ∧
    (∀ n ∈ [448, 511], teamOf (onTeam 4 (asks n) { t n with barReqs := [request n] }) 1 = some { t n with barReqs := [request n] } ∧
      leaderLost (onTeam 4 (asks n) { t n with barReqs := [request n] }) { t n with barReqs := [request n] } = false ∧ (request n).op = .arrive ∧
      (Team.barrier { t n with barReqs := [request n] } 0 (request n).id).expected ≠ 0 ∧
      crewOf (onTeam 4 (asks n) { t n with barReqs := [request n] }) 0 = some (asks n) ∧
      (asks n).reply = [{ reg := 3, id := (request n).id, tag := (request n).tag, par := none, waits := false }]) ∧
    (let none_ : Team := { teamWith 448 (bar 0 0 false false) (ring 0) with barReqs := [request 448] }
     teamOf (onTeam 4 crew none_) 1 = some none_ ∧ leaderLost (onTeam 4 crew none_) none_ = false ∧ (none_.barrier 0 448).expected = 0 ∧
       (none_.barrier 0 448).abnd = false ∧ crewOf (onTeam 4 crew none_) 0 = some crew ∧ crew.trapping = none) ∧
    (teamOf (onTeam 4 crew sent) 1 = some sent ∧ kgetD sent.barSent (512 * 3 + 448) [] = true :: [false]) ∧
    (∀ w, crewOf (onTeam 4 (back w) (t 448)) 0 = some (back w) ∧ (back w).trapping = none ∧ (back w).reply = [replyOf 448 (some true) w]) := by
  refine ⟨fun n hn => ?_, fun n hn => ?_, ⟨rfl, by decide, rfl, rfl, rfl, rfl⟩, ⟨rfl, by decide⟩, fun w => ⟨rfl, rfl, rfl⟩⟩ <;> simp only [List.mem_cons, List.not_mem_nil, or_false] at hn <;>
    rcases hn with rfl | rfl
  · exact ⟨readyOn, rfl, rfl, by decide⟩
  · exact ⟨readyOn, rfl, rfl, by decide⟩
  · exact ⟨rfl, rfl, rfl, by decide, rfl, rfl⟩
  · exact ⟨rfl, rfl, rfl, by decide, rfl, rfl⟩

/-! ## Queues -/

/-- Queue 63 empty, with one handle and full, without a QINIT, and in a team with a halted crew; a crew whose VSTS has not been performed, and one behind an acquire; a kernel of 63 queues; the largest ring and
depth that fit, and the first that do not. -/
theorem witness_QueuesHoldTheirHandles :
    let t := fun q => teamWith 448 (bar 1 0 false false) q
    let none_ := { QueueSt.reset with ring := 0 }
    let halted : Team := { t (ring 2) with halted := true }
    let few := { onTeam 1 crew (t (ring 0)) with launches := [(0, { wide 1 with kernel := { (wide 1).kernel with queues := 63 } })] }
    let at_ := fun q => onTeam 1 crew (t q)
    (ScalarReady few 0 crew [3, 1, 2] ∧ teamOf few crew.team = some (t (ring 0)) ∧
      crewLaunch few crew = some { wide 1 with kernel := { (wide 1).kernel with queues := 63 } }) ∧
    (∀ q ∈ [none_, ring 0, ring 1, ring 2], ScalarReady (at_ q) 0 crew [3, 1, 2] ∧ teamOf (at_ q) crew.team = some (t q) ∧ (t q).halted = false ∧
      crewLaunch (at_ q) crew = some (wide 1) ∧ (t q).queue crew.coreIdx 63 = q) ∧
    (canPush (at_ (ring 0)) crew (ring 0) 63 = true ∧ canPush (at_ (ring 1)) crew (ring 1) 63 = true ∧ canPush (at_ (ring 2)) crew (ring 2) 63 = false ∧
      canPop (at_ (ring 0)) crew (ring 0) 63 = false ∧ canPop (at_ (ring 1)) crew (ring 1) 63 = true ∧
      (ring 0).count ≤ queueAhead (at_ (ring 0)) crew false 63 ∧
      (ring 0).init = true ∧ (ring 2).init = true ∧ none_.init = false ∧ canPush (at_ none_) crew none_ 63 = false) ∧
    (crew.acquiring = false ∧ crew.scratchClear = true ∧ released crew crew.synced (at_ (ring 1)).nextStamp 0 = true ∧ (∃ s1, touchRange (at_ (ring 1)) 1 crew.scalarTouch 0 (ring 1).tail 4 = .go s1) ∧
      ∃ s1 t1, touchRange (at_ (ring 1)) 1 crew.scalarTouch 0 (ring 1).front 4 = .go s1 ∧ teamOf s1 1 = some t1 ∧
        (popHandle s1 t1 crew.coreIdx 63 (ring 1)).2.2 = false) ∧
    (let busy := { crew with storeQ := [{ portStore with space := .scratch 0 }] }
     let after := { crew with loads := [atomLoad false true] }
     ScalarReady (onTeam 1 busy (t (ring 1))) 0 busy [3, 1, 2] ∧ busy.acquiring = false ∧ busy.scratchClear = false ∧
       canPush (onTeam 1 busy (t (ring 1))) busy (ring 1) 63 = true ∧ ScalarReady (onTeam 1 after (t (ring 1))) 0 after [4, 1, 2] ∧ after.acquiring = true) ∧
    (ScalarReady (onTeam 1 crew halted) 0 crew [3, 1, 2] ∧ halted.halted = true ∧ canPush (onTeam 1 crew halted) crew (ring 2) 63 = false ∧
      (let none_ : Team := { t (ring 0) with halted := true }
       ScalarReady (onTeam 1 crew none_) 0 crew [3, 1, 2] ∧ none_.halted = true ∧ canPop (onTeam 1 crew none_) crew (ring 0) 63 = false)) ∧
    (((holding 64512 256).rs 1).toNat + 4 * ((holding 64512 256).rs 2).toNat = scratchSize (wide 1) ∧
      scratchSize (wide 1) < ((holding 64516 256).rs 1).toNat + 4 * ((holding 64516 256).rs 2).toNat ∧ ((holding 64511 256).rs 1).toNat % 4 ≠ 0 ∧
      256 < ((holding 0 257).rs 2).toNat ∧ ((holding 0 0).rs 2).toNat = 0 ∧ ∀ x y, ScalarReady (onTeam 1 (holding x y) (t (ring 0))) 0 (holding x y) [3, 1, 2]) := by
  refine ⟨⟨⟨⟨⟨_, rfl, rfl, rfl⟩, rfl⟩, by decide⟩, rfl, rfl⟩, fun q hq => ⟨readyOn, rfl, rfl, rfl, rfl⟩, by decide +kernel,
    ⟨rfl, rfl, by decide +kernel, ⟨_, rfl⟩, _, _, rfl, rfl, by decide +kernel⟩, ⟨readyOn, by decide, by decide, by decide +kernel, readyOn, by decide⟩, ⟨readyOn, rfl, by decide, readyOn, rfl, by decide⟩,
    by decide, by decide, by decide, by decide, by decide, fun x y => readyOn (show crew.free [3, 1, 2] = true from by decide)⟩

/-! ## Counters -/

/-- Crew with counter 7 changed. -/
def counting (k : Counter) : Crew := { crew with cc := crew.cc.set 7 k }
def countingBlock (k : Counter) : Crew := { blockCrew with cc := blockCrew.cc.set 7 k }

/-- One issued batch: complete or not, its failure if any. -/
def oneBatch : Counter := { Counter.reset with issued := 1, batches := [{ pending := [], closed := true, failure := none }] }
def failure : Failure := { cmd := 0, cause := 0x0B, detail := 3, addr := 0x5000 }
def waitingOp (v : W32) : Armed := { threshold := v, kind := .push, operand := 0, order := 0, synced := 0, word := 0 }

/-- DONE at the awaited value, one below it, and with a failure carried; operands of ARMC that pass and fail; none and four operations armed; a crew behind
an acquire; a ripe batch, of a crew that runs and of one parked on it; and a push that waits. -/
theorem witness_CountersCountBatches :
    let b := { blank with a := .imm, fn := 7, imm := 0 }
    let ge := fun (q : Counter) (v : W32) => 0 ≤ (q.done - v).toInt
    let lw := fun (v : W32) => ({ blank with a := .imm, fn := 7, imm := v } : LaneWord)
    let lt := fun (v : W32) => ({ blank with a := .imm, fn := 15, imm := v } : LaneWord)
    let fails := { Counter.reset with carried := [failure] }
    let full := { Counter.reset with armed := List.replicate 4 (waitingOp 1) }
    let c1 := (counting Counter.reset).ws 1 1
    let s := fun c => onTeam 1 c (teamWith 448 (bar 1 0 false false) (ring 0))
    (LaneReady (laneAt blockCrew) (.batch b) wholeExec (laneAt blockCrew) ((sees blockCrew).of (.batch b) wholeExec) ∧
      (∀ w ∈ [lw 0, lw 1, lt 0, lt 1], LaneReady (laneAt blockCrew) (.lwaitc w) wholeExec (laneAt blockCrew) ((sees blockCrew).of (.lwaitc w) wholeExec)) ∧
      (∀ v, (sees blockCrew).literal (lw v) = v) ∧ ge (blockCrew.counter 7) 0 ∧ ¬ge (blockCrew.counter 7) 1 ∧ (blockCrew.counter 7).carried = [] ∧
      LaneReady (laneAt (countingBlock fails)) (.lwaitc (lw 0)) wholeExec (laneAt (countingBlock fails)) ((sees (countingBlock fails)).of (.lwaitc (lw 0)) wholeExec) ∧
      ((countingBlock fails).counter 7).carried = failure :: [] ∧ ge ((countingBlock fails).counter 7) 0) ∧
    (ScalarReady (s crew) 0 crew [3, 1, 2] ∧ ge (crew.counter 7) ((crew.rs 1).truncate 32) ∧ (crew.counter 7).carried = [] ∧ crew.laneQ = [] ∧
      scodeSize (s crew) crew = 8 ∧ (0 : Int) ≤ crew.spc + (7 : Imm13).toInt ∧ (crew.spc : Int) + (7 : Imm13).toInt < 8 ∧ (8 : Int) ≤ crew.spc + (8 : Imm13).toInt ∧
      (crew.spc : Int) + (0x1FFF : Imm13).toInt < 0) ∧
    (ScalarReady (s c1) 0 c1 [3, 1, 2] ∧ ¬ge (c1.counter 7) ((c1.rs 1).truncate 32) ∧ c1.laneQ = [] ∧ (c1.counter 7).armed = [] ∧ c1.firing = [] ∧
      crewLaunch (s c1) c1 = some (wide 1) ∧ c1.armedCount 7 = 0) ∧
    (ScalarReady (s (counting fails)) 0 (counting fails) [3, 1, 2] ∧ ((counting fails).counter 7).carried = failure :: [] ∧ ge ((counting fails).counter 7) 0) ∧
    (ScalarReady (s (counting full)) 0 (counting full) [3, 1, 2] ∧ (counting full).armedCount 7 = 4 ∧ ∀ o ∈ full.armed, ¬ge full o.threshold) ∧
    ((∀ k ∈ [0, 1, 2], armCheck (wide 1) k 0 = none) ∧ armCheck (wide 1) 0 65472 = none ∧ armCheck (wide 1) 0 65536 = some (0x0C, 1, 0, 65536) ∧
      armCheck (wide 1) 0 65473 = some (0x0A, 0, 0, 65473) ∧ armCheck (wide 1) 1 447 = none ∧ armCheck (wide 1) 1 448 = some (0x0E, 0, 448, 0) ∧
      armCheck (wide 1) 2 0x3FFFFFFFFF = none ∧ armCheck (wide 1) 2 0x4000000000 = some (0x0D, 0, 0, 0)) ∧
    (crewOf (s (counting oneBatch)) 0 = some (counting oneBatch) ∧ ((counting oneBatch).counter 7).ripe ≠ [] ∧
      (counting oneBatch).wakes 7 = false ∧ { counting oneBatch with st := .parkedOn 7 1 0 }.wakes 7 = true ∧
      { counting oneBatch with st := .parkedOn 7 1 0 }.counter 7 = oneBatch) ∧
    (let after := { crew with loads := [atomLoad false true] }
     ScalarReady (s after) 0 after [4, 1, 2] ∧ after.acquiring = true ∧ crewLaunch (s after) after = some (wide 1) ∧ c1.acquiring = false) ∧
    (crewOf (s { crew with firing := [(7, waitingOp 0)] }) 0 = some { crew with firing := [(7, waitingOp 0)] } ∧ [(7, waitingOp 0)] ≠ []) := by
  refine ⟨⟨laneReady (by decide) (by decide), fun w hw => laneReady (by decide) ?_, fun v => rfl, by decide, by decide, by decide, laneReady (by decide) (by decide),
      by decide, by decide⟩,
    ⟨readyOn, by decide⟩, ⟨readyOn, by decide, rfl, by decide, rfl, rfl, by decide⟩, ⟨readyOn, by decide⟩, ⟨readyOn, by decide⟩, by decide, ⟨rfl, by decide⟩,
    ⟨readyOn, rfl, rfl, rfl⟩, rfl, by decide⟩
  revert w; decide

/-! ## System words and traps -/

/-- A team that is asked to yield. -/
def asked : Team := { fetchTeam 1 0 0 with reqReason := 1 }

/-- A launch that binds the feature bits `e`. -/
def binds (c : Crew) (lane : Bool) (e : List (Nat × Nat)) : State :=
  { (if lane then laneAt c else scalarAt c) with launches := [(0, { code with bindings := e })] }

/-- Crew 0 runs a word whose context serves system calls from the ring at address 0. -/
def serves (c : Crew) : State := { scalarAt c with contexts := [(0, { fetchContext with serviceQ := some 0 })] }

/-- A crew whose fair count, urgency and demotion are given. -/
def fair (count demote : Nat) : Crew := { crew with fair := { Fair.reset with count := count, demote := demote } }

def progress (c : Crew) : State := { scalarAt c with launches := [(0, { code with kernel := { code.kernel with prog := true } })] }

theorem witness_SystemWordsAct :
    let ten : List SReg := [3, 1, 2, 3, 4, 5, 6, 7, 8]
    let s := scalarAt crew
    let busy := blockCrew
    let posted := { crew with await := .sysc 4 none }
    let answered := { crew with await := .sysc 4 (some 9) }
    (ScalarReady s 0 crew ten ∧ ¬(preqOf s crew ≠ 0 ∧ crew.handler = false) ∧ crew.laneQ = [] ∧ crew.loads = [] ∧ crew.reply = [] ∧
      { crew with synced := crew.nextBlock - 1 }.closeAll.allDone = true ∧ crew.handler = false ∧ crew.await = .none ∧
      ctxOf s (crewCtx s crew) = some fetchContext ∧ fetchContext.serviceQ = none) ∧
    (ScalarReady (onTeam 1 crew asked) 0 crew ten ∧ preqOf (onTeam 1 crew asked) crew ≠ 0) ∧
    (ScalarReady (onTeam 1 busy asked) 0 busy ten ∧ preqOf (onTeam 1 busy asked) busy ≠ 0 ∧ busy.handler = false ∧ busy.laneQ ≠ []) ∧
    (ScalarReady (serves crew) 0 crew ten ∧ ctxOf (serves crew) (crewCtx (serves crew) crew) = some { fetchContext with serviceQ := some 0 } ∧
      ringFree (serves crew) (0 : Fin 3).val 0 ≠ 0) ∧
    (ScalarReady (scalarAt posted) 0 posted ten ∧ ScalarReady (scalarAt answered) 0 answered ten) ∧
    (let open_ := counting { Counter.reset with issued := 1, batches := [{ pending := [0], closed := true, failure := none }] }
     let ending := { crew with await := .ending }
     ScalarReady (scalarAt open_) 0 open_ ten ∧ open_.laneQ = [] ∧ { open_ with synced := open_.nextBlock - 1 }.closeAll.allDone = false ∧
       ScalarReady (scalarAt ending) 0 ending ten ∧ { ending with synced := ending.nextBlock - 1 }.allDone = true) ∧
    ((∀ e ∈ [[], [(111, 5)]], ∃ k, (binds crew false e).cur = some k ∧ k.lane = false ∧ k.crew = 0 ∧ crewOf (binds crew false e) 0 = some crew) ∧
      bindingOf (binds crew false []) crew (96 + 15) = none ∧ bindingOf (binds crew false [(111, 5)]) crew (96 + 15) = some 5) ∧
    ((∀ e ∈ [[], [(143, 5)]], RunsLane (binds blockCrew true e) (sees blockCrew)) ∧
      bindingOf (binds blockCrew true []) (sees blockCrew).c (112 + 31) = none ∧ bindingOf (binds blockCrew true [(143, 5)]) (sees blockCrew).c (112 + 31) = some 5) ∧
    (crewOf (progress (fair 2048 0)) 0 = some (fair 2048 0) ∧ (fair 2048 0).fairOf none = some { Fair.reset with count := 2048 } ∧ crewProg (progress (fair 2048 0)) (fair 2048 0) = true ∧
      fairtOf (progress (fair 2048 0)) (fair 2048 0) = 2048) ∧
    (crewOf (progress (fair 0 1)) 0 = some (fair 0 1) ∧ (fair 0 1).fairOf none = some { Fair.reset with demote := 1 }) ∧
    (crewOf (progress blockCrew) 0 = some blockCrew ∧ (blockCrew.fairOf (some 0)).isSome = true) := by
  refine ⟨⟨ready, by decide +kernel⟩, ⟨readyOn, by decide⟩, ⟨readyOn, by decide⟩, ⟨⟨⟨⟨_, rfl, rfl, rfl⟩, rfl⟩, by decide⟩, rfl, by decide +kernel⟩, ⟨ready, ready⟩,
    ⟨ready, rfl, by decide +kernel, ready, by decide +kernel⟩, ⟨fun e _ => ⟨_, rfl, rfl, rfl, rfl⟩, by decide⟩, ⟨fun e _ => ?_, by decide⟩, by decide, by decide, by decide⟩
  exact ⟨⟨_, rfl, rfl, rfl, rfl, rfl⟩, rfl, rfl, rfl, ⟨_, rfl, rfl⟩, rfl, rfl⟩

/-- A crew with and without a handler, and one in handler mode, that traps in its scalar word while a block is running. -/
theorem witness_TrapEntrySavesTheCrew :
    let deaf := { blockCrew with tvec := 7 }
    let inside := { blockCrew with handler := true }
    ∀ c ∈ [crew, blockCrew, deaf, inside], (∃ k, (scalarAt c).cur = some k ∧ crewOf (scalarAt c) 0 = some c) ∧ c.alive = true ∧ c.trapping = none ∧
      c.quiet = true ∧ (255 : Nat) < 256 ∧ (2 ^ 32 - 1 : Nat) < 2 ^ 32 ∧ (c = inside → c.handler = true) ∧ (c = deaf → c.handler = false ∧ c.tvec.getLsbD 63 = false) ∧
      (c = blockCrew → c.handler = false ∧ c.tvec.getLsbD 63 = true) := by
  intro deaf inside c hc
  refine ⟨⟨_, rfl, rfl⟩, ?_⟩
  simp only [List.mem_cons, List.not_mem_nil, or_false] at hc
  rcases hc with rfl | rfl | rfl | rfl <;> refine ⟨rfl, rfl, by decide, by decide, by decide, fun h => ?_, fun h => ?_, fun h => ?_⟩ <;>
    first | rfl | exact ⟨rfl, by decide⟩ | (exfalso; revert h; decide)

/-- A lane word of a running block, with TVEC's handler and with a binding of its own. -/
theorem witness_TrapEntrySavesTheCrew_lane :
    let x := sees blockCrew
    RunsLane (laneAt blockCrew) x ∧ x.c.alive = true ∧ x.c.trapping = none ∧ x.c.loads = [] ∧ x.c.reply = [] ∧
      (∀ n : Fin 8, n ≠ 0 → blockCrew.div.frag n.val = none) ∧ x.win.done < 4 ∧ x.c.handler = false ∧ x.c.tvec.getLsbD 63 = true ∧ bitsOf x.c.tvec 21 0 = 7 ∧
      (some 5 : Option Nat) = some 5 :=
  ⟨runsLane (by decide), by decide⟩

/-- What a crew trapped in its running block froze. -/
def frozenBlock : Frozen := { laneQ := blockCrew.laneQ, div := blockCrew.div.stop, await := .none, reply := [], spc := 0, bpPass := none }

/-- A crew outside a handler, one in a handler with a block of its own, and one whose fragment keeps half of its lanes. -/
theorem witness_RteRestoresTheCrew :
    let busy := { blockCrew with handler := true, frozen := some frozenBlock }
    let half := { crew with handler := true, frozen := some frozenBlock, tsplit := crew.tsplit.set 0 0xFFFFFFFF }
    (RunsScalar (scalarAt crew) 0 crew ∧ crew.handler = false) ∧
    (RunsScalar (scalarAt busy) 0 busy ∧ busy.handler = true ∧ busy.frozen = some frozenBlock ∧ busy.laneQ ≠ []) ∧
    (RunsScalar (scalarAt half) 0 half ∧ half.handler = true ∧ half.frozen = some frozenBlock ∧ half.laneQ = [] ∧ half.reply = [] ∧ half.tinfo.getLsbD 1 = false ∧
      (frozenBlock.div.frag 0).any (fun f => f.exec &&& f.owned &&& vget half.tsplit 0 0 != 0) = true) :=
  ⟨⟨runs, rfl⟩, ⟨runs, rfl, rfl, by decide⟩, runs, rfl, rfl, rfl, rfl, by decide +kernel⟩

/-! ## Work lists -/

/-- A context whose list 255 holds `n` items of at most 64. -/
def lists (n : Nat) : Context :=
  { fetchContext with wlCap := 64, lists := [(255, List.replicate n { value := 1, place := 0, crew := 9, stamp := 0, blk := 0 })] }

/-- Crew 0's word with such lists, in a launch that has work lists or not. -/
def worked (lane : Bool) (c : Crew) (k : Context) (cap : Nat) (quiet : Bool) : State :=
  { (if lane then laneAt c else scalarAt c) with
    contexts := [(0, k)], launches := [(0, { code with record := { code.record with wlcap := cap }, quiet := quiet })] }

theorem runsWorked {c : Crew} {k : Context} {cap : Nat} {q : Bool} {rs : List SReg} (h : c.free rs = true := by decide) :
    ScalarReady (worked false c k cap q) 0 c rs := ⟨⟨⟨_, rfl, rfl, rfl⟩, rfl⟩, h⟩

/-- List 255 with room for all lanes and for all but one, full and one short of it; 65 items, none, and none in a quiet launch; the last offset that fits, the first that does not, and an odd one; as
many items as are held, and one more; a launch whose one crew has ended. -/
theorem witness_WorkListsHoldTheirItems :
    let w := { blank with a := .imm, imm := 255 }
    let i := Instr.wlapp w
    let x := (sees blockCrew).of i (guarded w)
    let e := fetchContext
    let holds := { holding 3 0 with holds := [(255, 3)] }
    let more := { holding 4 0 with holds := [(255, 3)] }
    let over_ := { crew with st := .ended }
    (∀ cap ∈ [0, 64], LaneReady (worked true blockCrew (lists 0) cap false) i (guarded w) (worked true blockCrew (lists 0) cap false) x) ∧
    ((∀ j ∈ lanesOf x.lset, (x.src w w.a j).toNat ≤ 255) ∧ x.c.laneAcquiring = false ∧ x.fr.appended = none ∧
      (let r := fun n => (appendLanes (worked true blockCrew (lists n) 64 false).issue x.c 0 0 x.blk.stamp
        ((lanesOf x.lset).map fun j => (j, (x.src w w.a j).toNat, x.src w w.b j))).2
       r 0 = x.lset ∧ r 1 ≠ x.lset)) ∧
    ((lists 64).wlCap ≤ ((lists 64).list 255).length ∧ ((lists 63).list 255).length < (lists 63).wlCap) ∧
    (∀ cap ∈ [0, 64], ∀ q, ∀ k ∈ [e, lists 65], ∀ y ∈ [65280, 65284, 2], ScalarReady (worked false (holding y 0) k cap q) 0 (holding y 0) [3, 1]) ∧
    (((holding 65280 0).rs 1).toNat + 256 = scratchSize code ∧ scratchSize code < ((holding 65284 0).rs 1).toNat + 256 ∧ ((holding 2 0).rs 1).toNat % 4 ≠ 0 ∧
      (e.list 255).take 64 = [] ∧ ((lists 65).list 255).take 64 ≠ [] ∧ (((lists 65).list 255).take 64).all (itemReady (worked false crew (lists 65) 64 false)) = true ∧
      popAhead (worked false crew (lists 65) 64 false) crew 255 = false ∧ (holding 65280 0).scratchClear = true ∧ (holding 65280 0).acquiring = false) ∧
    (∃ s2, touchRange (worked false (holding 65280 0) (lists 65) 64 false) 1 (holding 65280 0).scalarTouch 0 65280 256 = .go s2) ∧
    (ScalarReady (worked false holds e 64 false) 0 holds [1] ∧ (holds.rs 1).toNat = kgetD holds.holds 255 0 ∧ ScalarReady (worked false more e 64 false) 0 more [1] ∧
      kgetD more.holds 255 0 < (more.rs 1).toNat) ∧
    (let s := worked false over_ (lists 0) 1 false
     ∃ l k, launchOf s 0 = some l ∧ ctxOf s l.ctx = some k ∧ l.next = l.record.grid ∧ l.back = [] ∧ s.saved = [] ∧ 0 < l.record.wlcap ∧ l.quiet = false ∧
       (∀ e ∈ k.lists, e.2 = []) ∧ ∀ e ∈ s.crews, e.2.passive = true ∧ (e.2.alive = true → e.2.appending = false ∧ ∀ h ∈ e.2.holds, h.2 = 0)) := by
  refine ⟨fun cap _ => ?_, by decide +kernel, by decide, fun _ _ _ _ _ y hy => runsWorked ?_, by decide +kernel, ⟨_, rfl⟩, ⟨runsWorked, by decide, runsWorked, by decide⟩,
    ⟨_, _, rfl, rfl, rfl, rfl, rfl, by decide, rfl, by decide, by decide⟩⟩
  · exact ⟨rfl, sees blockCrew, ⟨⟨_, rfl, rfl, rfl, rfl, rfl⟩, rfl, rfl, rfl, ⟨_, rfl, rfl⟩, rfl, rfl⟩, by decide, by decide, by decide, by decide, rfl⟩
  · exact show crew.free [3, 1] = true from by decide

end Sys2Proof.Tests
end

