-- ==== Sys2Proof/Tests/WitnessEngines.lean ====
section
/-! SUPPORT. Witnesses for the statements about fences, regions, lane memory words, copies and the matrix engine. -/

namespace Sys2Proof.Tests

set_option Elab.async false

open Sys2Proof Sys2Proof.Machine

/-! ## Fences and regions -/

/-- A region of one granule at offset 256 of core 0, whose global address is 0x1000. -/
def region : RegionEntry := { gbase := 0x1000, tstride := 0, soff := 256, len := 256, core := 0, valid := true, fill := true, wb := true }

/-- Its launch, and its team with the granule in one state. -/
def regional : Launch := { code with regions := [region] }
def granuled (st : GranSt) : Team := { fetchTeam 1 0 0 with granules := [(granKey 0 256, { Granule.empty with st := st, wb := 0x80, bytes := List.replicate 256 1 })] }
def inRegion (st : GranSt) : State := { scalarAt crew with launches := [(0, regional)], teams := [(1, granuled st)] }

/-- A remote command of crew 0 that no answer has completed. -/
def remote : RemoteOut :=
  { seq := 0, cmd := 4, crew := 0, reg := 0, fa := 0, plane := 0, port := 0, sent := false, sentAt := 0, mark := false,
    op := { src := 0, seq := 0, kind := .rget, ty := .b32, op := 0, rtz := false, lanes := [], plane := 0, port := 0 }, line := none }

def remoteAt (n : Nat) : State :=
  { scalarAt crew with fabrics := (scalarAt crew).fabrics.set 0 { FabricSt.reset with out := [remote] }, nextCmd := n }

/-- Both scopes below the home, for an idle crew, with the lane queue empty; a crew with a logged and a queued store; a granule that fills and
one that is written back; a remote command that stands, and one that the word need not wait for. -/
theorem witness_FencesAndRegionsOrder :
    let s := scalarAt crew
    let late := { crew with sideLog := [logged crew farVa 0 []] }
    let wet := { crew with storeQ := [portStore] }
    (ScalarReady s 0 crew [] ∧ crew.await = .none ∧ crew.laneQ = [] ∧ crew.sideLog = [] ∧ crew.loads = [] ∧ crew.storeQ = [] ∧
      (∀ k ∈ [0, 1], released crew crew.synced s.nextStamp k = true) ∧ atomOpen s crew = false ∧ crew.scratchClear = true ∧
      (∃ s1, drainBuffers s crew.die crew.core (fun _ => true) = some s1 ∧ teamOf s1 crew.team = some (fetchTeam 1 0 0)) ∧ dirtyGranules (fetchTeam 1 0 0) = [] ∧
      (∀ o ∈ (fabricOf s (crewDev s crew)).out, o.crew ≠ 0)) ∧
    (ScalarReady (scalarAt late) 0 late [] ∧ late.sideLog ≠ [] ∧ late.await = .none) ∧ (ScalarReady (scalarAt wet) 0 wet [] ∧ wet.storeQ ≠ []) ∧
    (ScalarReady (remoteAt 5) 0 crew [] ∧ (fabricOf (remoteAt 5) (crewDev (remoteAt 5) crew)).out = [remote] ∧ remote.crew = 0 ∧ remote.cmd < (remoteAt 5).nextCmd ∧
      ¬(remote.cmd < (remoteAt 4).nextCmd)) ∧
    (∀ st ∈ [GranSt.filling, .writing], teamOf (inRegion st) 1 = some (granuled st) ∧ launchOfTeam (inRegion st) (granuled st) = some regional ∧
      regionAt regional 0 (256 * 1) = some region ∧ (kgetD (granuled st).granules (granKey 0 (256 * 1)) Granule.empty).st = st) ∧
    (mapGranule (inRegion .filling) (granuled .filling) regional (granKey 0 256) (granGlobal (granuled .filling) region 256) .load 0x21).2 = .ok 0x1000 ∧
    (mapGranule (inRegion .writing) (granuled .writing) regional (granKey 0 256) (granGlobal (granuled .writing) region 256) .store 0x22).2 = .ok 0x1000 ∧
    engineWaits (mapGranule (inRegion .filling) (granuled .filling) regional (granKey 0 256) (granGlobal (granuled .filling) region 256) .load 0x21).1 0 0
      ((granuled .filling).coreOf 0) false 0x1000 256 = false ∧
    engineWaits (mapGranule (inRegion .writing) (granuled .writing) regional (granKey 0 256) (granGlobal (granuled .writing) region 256) .store 0x22).1 0 0
      ((granuled .writing).coreOf 0) true 0x1000 256 = false ∧ overdue s Granule.empty.sent = false := by
  refine ⟨⟨ready, rfl, rfl, rfl, rfl, rfl, by decide, rfl, rfl, ⟨_, rfl, rfl⟩, by decide, by decide⟩, ⟨ready, by decide⟩, ⟨ready, by decide⟩,
    ⟨⟨⟨⟨_, rfl, rfl, rfl⟩, rfl⟩, rfl⟩, rfl, by decide⟩, fun st _ => ⟨rfl, rfl, rfl, rfl⟩, by decide +kernel, by decide +kernel, by decide +kernel, by decide +kernel, by decide +kernel⟩

/-- A team without an unwritten granule and one with a dirty granule, at the start of a flush; a flush that has written its granules, without a failure and with one. -/
theorem witness_FencesAndRegionsOrder_flush :
    let s := inRegion .dirty
    let flushing := { crew with await := .flush [] [granKey 0 256] }
    let failed : Team := { fetchTeam 1 0 0 with granules := [(granKey 0 256, { Granule.empty with st := .clean, fail := [(0, 0x0C, 0x1000)] })] }
    ((fetchTeam 1 0 0).blameless 0 ∧ ∀ k, ¬(fetchTeam 1 0 0).unwritten k) ∧
    (ScalarReady s 0 crew [] ∧ crew.scratchClear = true ∧ (∃ s1, drainBuffers s crew.die crew.core (fun _ => true) = some s1 ∧ teamOf s1 crew.team = some (granuled .dirty)) ∧
      (granuled .dirty).blameless 0 ∧ (granuled .dirty).unwritten (granKey 0 256)) ∧
    (ScalarReady (scalarAt flushing) 0 flushing [] ∧ flushing.await = .flush [] [granKey 0 256] ∧
      (kgetD (fetchTeam 1 0 0).granules (granKey 0 256) Granule.empty).st ≠ .writing) ∧
    ((kgetD failed.granules (granKey 0 256) Granule.empty).st ≠ .writing ∧ ¬failed.blameless 0) := by
  refine ⟨⟨by simp [Team.blameless, fetchTeam], by simp [Team.unwritten, fetchTeam, kgetD, kget, Granule.empty]⟩,
    ⟨⟨⟨⟨_, rfl, rfl, rfl⟩, rfl⟩, rfl⟩, rfl, ⟨_, rfl, rfl⟩, ?_, ?_⟩, ⟨ready, rfl, by decide⟩, by decide, ?_⟩
  · intro g hg f hf
    cases List.mem_singleton.mp hg
    cases hf
  · exact .inl (by decide)
  · simp [Team.blameless]

/-! ## Lane memory words -/

/-- A word of type `t` whose lanes all have the address `a`. -/
def memWord (t : Ty) (a : W32) : LaneWord := { blank with a := .zero, b := .vreg 2, c := .zero, ty := t, imm := a }

/-- What the word sees. -/
def seen (i : Instr) (w : LaneWord) : LaneCx := (sees blockCrew).of i (guarded w)

/-- The outcome of the checks of all lanes. -/
def lanesOk (i : Instr) (w : LaneWord) (sc align : Nat) (acc : Acc) (host : Bool) : Bool :=
  (checkLanes (laneAt blockCrew) 0 0 0 0 align acc host (globalLanes (seen i w) w sc)).2 == (globalLanes (seen i w) w sc).map fun l => (l.1, l.2, .ok 0x1000)

/-- Each word at a mapped address, and VLD at an odd one. -/
theorem witness_LaneMemoryWordsAreIssued :
    let w := memWord .b32 0x1000
    let odd := memWord .b32 0x1001
    (0 < widthOf w.ty ∧ blockCrew.laneAcquiring = false ∧ blockCrew.sideLog = [] ∧ blockCrew.storeQ = [] ∧ blockCrew.portClear = true ∧
      crewDev (laneAt blockCrew) blockCrew = 0 ∧ crewCtx (laneAt blockCrew) blockCrew = 0 ∧ blockCrew.die = 0 ∧ blockCrew.core = 0) ∧
    (∀ i ∈ [Instr.vld w, .vldk w, .vatom w, .vcas w, .vst w, .vatomNoReturn w, .vpref w],
      LaneReady (laneAt blockCrew) i (guarded w) (laneAt blockCrew) (seen i w)) ∧
    (lanesOk (.vld w) w 0 4 .load false = true ∧ lanesOk (.vst w) w 0 4 .store false = true ∧ lanesOk (.vatom w) w 0 4 .atomic false = true) ∧
    (LaneReady (laneAt blockCrew) (.vld odd) (guarded odd) (laneAt blockCrew) (seen (.vld odd) odd) ∧
      (firstFail (checkLanes (laneAt blockCrew) 0 0 0 0 4 .load false (globalLanes (seen (.vld odd) odd) odd 0)).2).any (fun f => f.detail != 6 && f.detail != 7) = true) :=
  ⟨by decide, allReady blockCrew_atWindow (by decide), by decide +kernel, ⟨laneReady blockCrew_atWindow (by decide), by decide +kernel⟩⟩

/-- The crew's predicate p2 names lanes 0 and 1. -/
def twoLanes : Crew := blockCrew.wp 2 allLanes 3

/-- A word of the exact cell, and a contribution of two lanes. -/
def cellWord : LaneWord := memWord .xa96 0x1000
def redWord : LaneWord := { memWord .i32 0x1000 with pg := 2 }
def redSeen : LaneCx := (sees twoLanes).of (.vred redWord) (guarded redWord)

theorem cellWord_loads : LaneReady (laneAt blockCrew) (.vld cellWord) (guarded cellWord) (laneAt blockCrew) (seen (.vld cellWord) cellWord) :=
  laneReady blockCrew_atWindow (by decide)
theorem cellWord_adds : LaneReady (laneAt blockCrew) (.vrdx cellWord) (guarded cellWord) (laneAt blockCrew) (seen (.vrdx cellWord) cellWord) :=
  laneReady blockCrew_atWindow (by decide)
theorem redWord_runs : LaneReady (laneAt twoLanes) (.vred redWord) (guarded redWord) (laneAt twoLanes) redSeen := laneReady (by decide) (by decide)
theorem cellWord_passes : lanesOk (.vld cellWord) cellWord 4 16 .load false = true ∧ lanesOk (.vrdx cellWord) cellWord 4 16 .store true = true := by
  decide +kernel
theorem redWord_combines :
    (checkLanes (laneAt twoLanes) 0 0 0 0 4 .store true (globalLanes redSeen redWord 0)).2 = (globalLanes redSeen redWord 0).map (fun l => (l.1, l.2, .ok 0x1000)) ∧
    (contributeAll (laneAt twoLanes) twoLanes ((lanesOf redSeen.lset).map fun k =>
      ⟨redSeen.u, redSeen.globalVa redWord 0 k, 0x1000, redWord.ty, redWord.fn.toNat / 16 % 4, redWord.fn.toNat / 64,
        redSeen.src redWord redWord.b k, none⟩)).isSome = true := by decide +kernel

/-- The exact cell, and two lanes of VRED that combine. -/
theorem witness_LaneMemoryWordsAreIssued_cells :
    (LaneReady (laneAt blockCrew) (.vld cellWord) (guarded cellWord) (laneAt blockCrew) (seen (.vld cellWord) cellWord) ∧
      LaneReady (laneAt blockCrew) (.vrdx cellWord) (guarded cellWord) (laneAt blockCrew) (seen (.vrdx cellWord) cellWord) ∧
      LaneReady (laneAt twoLanes) (.vred redWord) (guarded redWord) (laneAt twoLanes) redSeen) ∧
    (lanesOk (.vld cellWord) cellWord 4 16 .load false = true ∧ lanesOk (.vrdx cellWord) cellWord 4 16 .store true = true) :=
  ⟨⟨cellWord_loads, cellWord_adds, redWord_runs⟩, cellWord_passes⟩

/-- A block whose SKEW declares 64 rows of 256 bytes, and the word of 8 bytes that its last row places in two parts. -/
def skewCrew : Crew := { blockCrew with laneQ := [{ fetchBlock 0 with skew := 64 * 2 ^ 22 + 256 * 2 ^ 35 }] }
def skewWord : LaneWord := { memWord .b64 16128 with fn := 8 }

theorem memWord_address (x : LaneCx) (t : Ty) (a : W32) (k : Nat) : x.scratchVa (memWord t a) k = a := by
  simp [LaneCx.scratchVa, LaneCx.src, memWord]

theorem skewWord_address (x : LaneCx) (k : Nat) : x.scratchVa skewWord k = 16128 := by simp [LaneCx.scratchVa, LaneCx.src, skewWord, memWord]

/-- The lanes of a word at one place of core 0. -/
def placed (m : W64) (pa : Nat) (hi : Option Nat) : List (Nat × LaneAcc) := (lanesOf m).map fun k => (0, { laneAcc k 0xFFFC pa 0 0 with hi := hi })

/-- The scratchpad words at the last place of the scratchpad, and skewed ones in two parts. -/
theorem witness_LaneMemoryWordsAreIssued_scratch :
    let top := memWord .b32 0xFFFC
    let x := seen (.vlds top) top
    let y := (sees skewCrew).of (.vlds skewWord) (guarded skewWord)
    (∀ i ∈ [Instr.vlds top, .vsts top], LaneReady (laneAt blockCrew) i (guarded top) (laneAt blockCrew) (seen i top)) ∧
    (teamOf (laneAt blockCrew) blockCrew.team = some (fetchTeam 1 0 0) ∧ crewLaunch (laneAt blockCrew) blockCrew = some code ∧
      top.fn.getLsbD 3 = false ∧ ∀ k, checkScratch code.kernel.shape (scratchSize code) 4 none (x.scratchVa top k) = .ok 0 65532 none) ∧
    (∀ i ∈ [Instr.vlds skewWord, .vsts skewWord], LaneReady (laneAt skewCrew) i (guarded skewWord) (laneAt skewCrew) ((sees skewCrew).of i (guarded skewWord))) ∧
    (skewWord.fn.getLsbD 3 = true ∧ skewTile y.blk.skew ≠ none ∧ bitsOf y.blk.skew 7 0 = 0 ∧
      ∀ k, checkScratch code.kernel.shape (scratchSize code) 8 (skewTile y.blk.skew) (y.scratchVa skewWord k) = .ok 0 16380 (some 16128)) ∧
    (scratchBad (fetchTeam 1 0 0) x.toucher 4 (placed x.lset 65532 none) = none ∧
      (scratchTouch (Toucher.waits (laneAt blockCrew)) code x.toucher 4 (fetchTeam 1 0 0) (placed x.lset 65532 none)).2 = true ∧
      scratchBad (fetchTeam 1 0 0) y.toucher 8 (placed y.lset 16380 (some 16128)) = none ∧
      (scratchTouch (Toucher.waits (laneAt blockCrew)) code y.toucher 8 (fetchTeam 1 0 0) (placed y.lset 16380 (some 16128))).2 = true) :=
  ⟨allReady blockCrew_atWindow (by decide), ⟨rfl, rfl, rfl, fun k => by rw [memWord_address]; decide⟩, allReady (by decide) (by decide),
    ⟨rfl, by decide, by decide, fun k => by rw [skewWord_address]; decide +kernel⟩,
    by decide +kernel⟩

/-- Lanes that fail the last check and, higher, the first. -/
theorem witness_EarliestCheckIsReported :
    firstFail [(0, 8, .fail 4 0x0B 0), (1, 16, .ok 0), (63, 24, .fail 1 0x0B 0)] = some ⟨0x0B, 0, maskOf fun i => i == 63, 24⟩ := by decide +kernel

/-! ## Copies -/

/-- A core whose last 64 bytes hold a descriptor of one element of one byte; `g` in byte 1 is a part of GADDR, `m` is CMASK. -/
def described (g m : Byte) : CoreSt :=
  { CoreSt.reset 0 with
    scratch := [(65473, g), (65488, 1), (65492, 1), (65508, 1), (65512, 1), (65517, m)].filter fun c : Nat × Byte => c.2 != 0 }

/-- A launch with 64 rows of tile store. -/
def tiled : Launch := { code with kernel := { code.kernel with tileG := 1 } }

/-- A core with some copies in its queue, whose scratchpad holds the descriptor. -/
def copyAt (g m : Byte) (q : List CopyCmd) : State :=
  { laneAt blockCrew with cores := [(0, { described g m with copyQ := q })], launches := [(0, tiled)] }

/-- A copy whose one element is not yet written. -/
def oneCopy : CopyCmd :=
  let d : CopyDesc :=
    { gaddr := 0x1000, soff := 0, trow := 0, tcol := 0, dir := false, tdst := false, esz := 1, cols := 1, rows := 1, gstride := 0, sstride := 0,
      bcols := 1, brows := 1, cc := 0, cmask := 0 }
  { id := 3, crew := 0, kind := 0, desc := d, stamp := 1, scalarTo := 1, blockTo := 0, word := 0, data := [], doneEl := [], sent := [], wrote := [], waits := [], failure := none }

/-- A lane word runs in any state whose launch holds the same lane words. -/
theorem laneReadyOn {s : State} {c : Crew} {l : Launch} {i : Instr} {m : Crew → Frag → W64} (h : atWindow c = true) (k : clear c i m = true)
    (hc : s.cur = (laneAt c).cur) (hs : crewOf s 0 = some c) (hl : crewLaunch s c = some l) (hw : l.lcode = code.lcode) (hp : l.patches = []) :
    LaneReady s i m s ((sees c).of i m) := by
  simp only [atWindow, Bool.and_eq_true, beq_iff_eq, Option.isSome_iff_exists] at h
  obtain ⟨⟨⟨ht, f, hf⟩, b, hb⟩, ho⟩ := h
  simp only [clear, Bool.and_eq_true, Bool.not_eq_true', bne_iff_ne, beq_iff_eq] at k
  obtain ⟨⟨⟨⟨h1, h2⟩, h3⟩, h4⟩, h5⟩ := k
  have hcode : code.patches = [] := rfl
  refine ⟨rfl, sees c, ⟨⟨_, hc, rfl, rfl, rfl, rfl⟩, hs, ?_, ?_, ⟨l, hl, ?_⟩, rfl, rfl⟩, h1, h2, h3, h4, by rw [h5]; rfl⟩
  · simp [sees, fragOf, hf]
  · simp [sees, blockOf, hb]
  · simp only [sees, openWindow, lookAhead, laneWordAt, hw, hp, hcode] at ho ⊢; exact ho.symm

/-- The present lane word is the copy word `i` for the descriptor in the last 64 bytes of the scratchpad. -/
def copyWordAt (off : W32) : LaneWord := { blank with a := .imm, imm := off }
def copySeen (i : Instr) (w : LaneWord) : LaneCx := (sees blockCrew).of i (guarded w)

theorem copyAt_ready {g m : Byte} {q : List CopyCmd} {i : Instr} {w : LaneWord} (k : clear blockCrew i (guarded w) = true) :
    LaneReady (copyAt g m q) i (guarded w) (copyAt g m q) (copySeen i w) := laneReadyOn blockCrew_atWindow k rfl rfl (l := tiled) rfl rfl rfl

/-- The bytes that the engine reads for a descriptor. -/
def descBytes (s : State) (off : Nat) : List Byte :=
  match readDesc s.issue blockCrew tiled (sees blockCrew).toucher off with
  | .ok t bs false => if crewOf t 0 = some blockCrew ∧ (kget t.cores (coreKey 0 0)).isSome = true then bs else []
  | _ => []

/-- A queue with one place left; descriptors at the last 64 bytes that pass for each kind, an empty one, and an offset past the end; the seventh
command of a queue with one element left, and with none. -/
theorem witness_CopiesAreAcceptedAndComplete :
    let q := List.replicate 31 oneCopy
    let w := copyWordAt 65472
    let far := copyWordAt 65536
    let done := { oneCopy with doneEl := [(0, 0)] }
    let eight := fun k => List.replicate 7 oneCopy ++ [k]
    (∀ g m, LaneReady (copyAt g m q) (.cpy w) (guarded w) (copyAt g m q) (copySeen (.cpy w) w) ∧
      LaneReady (copyAt g m q) (.cpym w) (guarded w) (copyAt g m q) (copySeen (.cpym w) w) ∧
      LaneReady (copyAt g m q) (.cpyt w) (guarded w) (copyAt g m q) (copySeen (.cpyt w) w) ∧
      LaneReady (copyAt g m q) (.cpy far) (guarded far) (copyAt g m q) (copySeen (.cpy far) far) ∧
      teamOf (copyAt g m q) 1 = some (fetchTeam 1 0 0) ∧ crewLaunch (copyAt g m q) blockCrew = some tiled ∧ (coreAt (copyAt g m q) 0 0).copyQ.length < 32 ∧
      crewOf (copyAt g m q) 0 = some blockCrew ∧ (kget (copyAt g m q).cores (coreKey 0 0)).isSome = true) ∧
    (accessesDone blockCrew (copyAt 0 0 q).nextStamp (blockOf blockCrew).stamp 0 = true) ∧
    (((copySeen (.cpy w) w).literal w).toNat = 65472 ∧ (descBytes (copyAt 0x10 0 q) 65472).length = 64 ∧
      descCheck 0 65472 65536 64 1 (descBytes (copyAt 0x10 0 q) 65472) = none ∧ descCheck 1 65472 65536 64 1 (descBytes (copyAt 0x10 1 q) 65472) = none ∧
      descCheck 2 65472 65536 64 1 (descBytes (copyAt 0 0 q) 65472) = none ∧ descCheck 0 65472 65536 64 1 (descBytes (copyAt 0 1 q) 65472) = some (0x02, 0) ∧
      descCheck 0 65536 65536 64 1 (descBytes (copyAt 0 0 q) 65536) = some (0x0C, 1)) ∧
    (∀ k ∈ [oneCopy, done], (coreAt (copyAt 0 0 (eight k)) 0 0).copyQ[7]? = some k ∧ 7 < 8 ∧ k.ordered (copyAt 0 0 (eight k)) = true ∧
      (let r := copyElements (copyAt 0 0 (eight k)) 0 0 7 ((k.elements 0).filter fun e => !k.doneEl.contains e)
       r.2 = true ∧ (coreAt r.1 0 0).copyQ[7]?.isSome = true)) := by
  refine ⟨fun g m => ⟨copyAt_ready (by decide), copyAt_ready (by decide), copyAt_ready (by decide), copyAt_ready (by decide), rfl, rfl, by simp [copyAt, coreAt, coreKey, kget, kgetD],
    rfl, rfl⟩, by decide +kernel, by decide +kernel, by decide +kernel⟩

/-! ## The matrix engine -/

/-- Matrix crew `q` of the core's four, whose block has the tile descriptor `t` in its last tile register. -/
def matrixCrew (q : Nat) (t : W64) : Crew :=
  { blockCrew with uid := q, role := 2 + 16 * q, laneQ := [{ fetchBlock 0 with tiles := (fetchBlock 0).tiles.set 15 t }] }

/-- Crew 0's lane word, with the queue of its quadrant. -/
def matrixAt (c : Crew) (es : List MxEntry) : State :=
  { laneAt c with cores := [(0, { CoreSt.reset 0 with quads := Vector.replicate 4 { Quad.reset with queue := es } })], launches := [(0, tiled)] }

/-- An M word of the last tile register with one element of E4M3 or INT8. -/
def mWord (lvl : BitVec 31) (tyC : BitVec 4) : MWord := { blankM with tyC := tyC, lvl := lvl, tA := 15, klen := 1 }

/-- One row of one valid element of type `ty`. -/
def oneTile (ty : Nat) : W64 := BitVec.ofNat 64 (2 ^ 20 + 2 ^ 33 + ty * 2 ^ 43)

def wholeSet (_ : Crew) (_ : Frag) : W64 := allLanes

theorem matrix_ready {c : Crew} {es : List MxEntry} {i : Instr} (h : atWindow c = true := by decide) (k : clear c i wholeSet = true := by decide) :
    LaneReady (matrixAt c es) i wholeSet (matrixAt c es) ((sees c).of i wholeSet) :=
  laneReadyOn h k rfl (by simp [matrixAt, laneAt, crewOf, kget]) (l := tiled)
    (by simp only [atWindow, Bool.and_eq_true, beq_iff_eq] at h; simp only [crewLaunch, h.1.1.1]; rfl) rfl rfl

/-- An entry of queue 0 whose word is `w`; a drain of it has written all its rows but the last. -/
def queued (op : MxOp) (w : MWord) : MxEntry :=
  { id := 2, crew := 0, op := op, word := w, tile := oneTile 0, scale := 0, rows := 64, soff := 0, capture := [],
    drained := if op = .drain then (List.range 63).map (fun m => (m, 2 ^ 64 - 1)) else [], failure := none }

/-- Three entries queued; images at the last place of the tile store and of the scratchpad; descriptors that pass and fail; a producer crew, and a
fragment that does not own all lanes. -/
theorem witness_MatrixWordsAreQueued :
    let c := matrixCrew 0 (oneTile 0)
    let apart := { c with div := split .ready }
    let es := List.replicate 3 (queued .stat (mWord 0 0))
    let sn := { c with laneQ := [{ fetchBlock 0 with tiles := (fetchBlock 0).tiles.set 15 (oneTile 0), snap := (fetchBlock 0).snap.set 0 49152 }] }
    let zero := mWord 0 7
    let tile := mWord 0 0
    let scr := { mWord 9 0 with tyD := 7 }
    let mul := mWord 0 0
    let bad := { mWord 0 0 with tyA := 1 }
    (LaneReady (matrixAt blockCrew es) (.mxstat mul) wholeSet (matrixAt blockCrew es) ((sees blockCrew).of (.mxstat mul) wholeSet) ∧ blockCrew.kind ≠ 2) ∧
    (LaneReady (matrixAt apart es) (.mxstat mul) wholeSet (matrixAt apart es) ((sees apart).of (.mxstat mul) wholeSet) ∧ apart.kind = 2 ∧
      (fragOf apart).owned ≠ allLanes) ∧
    (c.kind = 2 ∧ (fragOf c).owned = allLanes ∧ teamOf (matrixAt c es) c.team = some (fetchTeam 1 0 0) ∧ crewLaunch (matrixAt c es) c = some tiled ∧
      (quadOf (matrixAt c es) c.die c.core c.quadrant).queue.length < 4 ∧ c.loads.any (fun l => !l.scalar) = false ∧
      c.laneAcquiring = false ∧ c.fencesClear false 0 (blockOf c).ord = true) ∧
    (LaneReady (matrixAt c es) (.mxstat mul) wholeSet (matrixAt c es) ((sees c).of (.mxstat mul) wholeSet) ∧
      LaneReady (matrixAt c es) (.mxfence mul) wholeSet (matrixAt c es) ((sees c).of (.mxfence mul) wholeSet)) ∧
    (LaneReady (matrixAt c es) (.mxzero zero) wholeSet (matrixAt c es) ((sees c).of (.mxzero zero) wholeSet) ∧
      imageBad (tileRows tiled) (mxBytes zero.tyC) ((blockOf c).tiles[zero.tA.val]) = false) ∧
    (LaneReady (matrixAt c es) (.mxdrain tile) wholeSet (matrixAt c es) ((sees c).of (.mxdrain tile) wholeSet) ∧ tile.dst = 0 ∧
      imageBad (tileRows tiled) (mxBytes (drainTy tile)) ((blockOf c).tiles[tile.tA.val]) = false) ∧
    (LaneReady (matrixAt sn es) (.mxdrain scr) wholeSet (matrixAt sn es) ((sees sn).of (.mxdrain scr) wholeSet) ∧ scr.dst = 1 ∧
      (vget (blockOf sn).snap (scr.sreg - 1) 0).toNat % 2 ^ 32 = 49152 ∧ 49152 + 4096 * mxBytes (drainTy scr) ≤ scratchSize tiled) ∧
    (LaneReady (matrixAt c es) (.mxmma mul) wholeSet (matrixAt c es) ((sees c).of (.mxmma mul) wholeSet) ∧
      descDetail mul (tileRows tiled) ((blockOf c).tiles[mul.tA.val]) (vget (blockOf c).tiles (mul.tA.val + 1) 0) = none ∧
      ∀ k ∈ quadCrews (matrixAt c es) c, k.uid ≠ 0 → k.alive = true) ∧
    (LaneReady (matrixAt c es) (.mxmma bad) wholeSet (matrixAt c es) ((sees c).of (.mxmma bad) wholeSet) ∧
      descDetail bad (tileRows tiled) ((blockOf c).tiles[bad.tA.val]) (vget (blockOf c).tiles (bad.tA.val + 1) 0) = some 1) := by
  refine ⟨⟨matrix_ready, by decide⟩, ⟨matrix_ready, by decide⟩, by decide, ⟨matrix_ready, matrix_ready⟩, ⟨matrix_ready, by decide⟩, ⟨matrix_ready, by decide⟩,
    ⟨matrix_ready, by decide⟩, ⟨matrix_ready, by decide⟩, ⟨matrix_ready, by decide⟩⟩

/-- The four matrix crews of a core wait at the words `w q`, each with its fence or without. -/
def fourWait (w : Nat → MWord) (fence : Nat → Bool) : State :=
  { matrixAt blockCrew [] with
    crews := (List.range 4).map fun q => (q, { matrixCrew q (oneTile 0) with mma := some (w q), fenceFlag := fence q }) }

/-- The four words that wait, by quadrant. -/
def fourOf (s : State) : List (LaneCx × MWord) :=
  (List.range 4).filterMap fun q => (((coreCrews s 0 0).filter (waitsMma s)).find? (·.quadrant == q)).bind (mmaCx s)

/-- Four equal words, the last fence missing, and the last word different. -/
theorem witness_MatrixWordsAreQueued_joint :
    let w := mWord 0 0
    let equal := fourWait (fun _ => w) fun _ => true
    let bare := fourWait (fun _ => w) (· != 3)
    let odd := fourWait (fun q => if q = 3 then { w with klen := 2 } else w) fun _ => true
    (∀ s ∈ [equal, bare, odd], (fourOf s).length = 4 ∧ (∀ q, q < 4 → (quadOf s 0 0 q).queue.length < 4) ∧ ∀ y ∈ fourOf s, y.1.c.team = 1) ∧
    ((∀ y ∈ fourOf equal, ∀ z ∈ fourOf equal, mmaKey y.2 = mmaKey z.2) ∧ ∀ y ∈ fourOf equal, y.1.c.fenceFlag = true) ∧
    ((∀ y ∈ fourOf bare, ∀ z ∈ fourOf bare, mmaKey y.2 = mmaKey z.2) ∧ ∃ y ∈ fourOf bare, y.1.c.fenceFlag = false) ∧
    ∃ y ∈ fourOf odd, ∃ z ∈ fourOf odd, mmaKey y.2 ≠ mmaKey z.2 := by decide +kernel

/-- The last of the four entries of a queue, the others being on the other slot; a clearing MXZERO; a drain with one row left; an
entry behind another on its slot. -/
theorem witness_MatrixWordsAreQueued_complete :
    let other := { mWord 0 0 with slot := true }
    let es := fun e => List.replicate 3 (queued .stat other) ++ [e]
    let c := matrixCrew 0 (oneTile 0)
    let s := fun e => matrixAt c (es e)
    let clears := queued .zero { mWord 0 0 with init := true }
    (∀ e ∈ [queued .stat (mWord 0 0), clears, queued .drain { mWord 2 0 with vB := 128 }], (quadOf (s e) 0 0 0).queue[3]? = some e ∧
      entryReady (quadOf (s e) 0 0 0).queue 3 e = true ∧ crewOf (s e) e.crew = some c ∧ (teamOf (s e) c.team).isSome = true) ∧
    (let e := queued .drain { mWord 2 0 with vB := 128 }
     e.op = .drain ∧ (drainRows (s e) 0 0 0 3 (List.range 64)).2 = true) ∧
    (let same := matrixAt c [queued .stat (mWord 0 0), queued .stat (mWord 0 0)]
     (quadOf same 0 0 0).queue[1]? = some (queued .stat (mWord 0 0)) ∧ entryReady (quadOf same 0 0 0).queue 1 (queued .stat (mWord 0 0)) = false) := by
  decide +kernel

/-- An MXZERO that loads the FP32, INT32 or level-3 image of the tile store's first rows, its last row masked. -/
theorem witness_MatrixWordsAreQueued_load :
    let c := matrixCrew 0 (oneTile 0)
    let load := fun ty : BitVec 4 => { queued .zero (mWord 0 ty) with rows := 63 }
    let s := fun ty => matrixAt c [load ty]
    ∀ ty ∈ [(4 : BitVec 4), 7, 8], (quadOf (s ty) 0 0 0).queue[0]? = some (load ty) ∧ entryReady (quadOf (s ty) 0 0 0).queue 0 (load ty) = true ∧
      crewOf (s ty) (load ty).crew = some c ∧ (load ty).word.init = false ∧ teamOf (s ty) c.team = some (fetchTeam 1 0 0) ∧
      tornC (s ty) (fetchTeam 1 0 0) c.coreIdx (load ty) = false ∧ (load ty).rows ≤ 63 ∧ 62 < (load ty).rows := by decide +kernel

/-- Four quadrants whose first entry is an MXMMA with one valid row, each of its own crew. -/
def fourQueued : State :=
  { matrixAt blockCrew [] with
    crews := (List.range 4).map fun q => (q, matrixCrew q (oneTile 0)),
    cores := [(0, { CoreSt.reset 0 with
      quads := Vector.ofFn fun q : Fin 4 => { Quad.reset with queue := [{ queued .mma (mWord 0 0) with crew := q.val, rows := 1 }] } })] }

theorem witness_MatrixWordsAreQueued_product :
    let es := (List.range 4).filterMap (oldestMma fourQueued 0 0)
    let cols := (es.flatMap fun y => (List.range 16).map fun j => bCol y.2.1 y.2.2 j).toArray
    es.length = 4 ∧ (kget fourQueued.cores (coreKey 0 0)).isSome = true ∧
      (∀ e ∈ indexed es, entryReady (quadOf fourQueued 0 0 e.1).queue e.2.1 e.2.2.1 = true ∧ teamOf fourQueued e.2.2.2.team = some (fetchTeam 1 0 0) ∧
        tornA fourQueued (fetchTeam 1 0 0) e.2.2.2.coreIdx e.2.2.1 = false ∧
        (mmaSlot fourQueued (fetchTeam 1 0 0) e.2.2.2.coreIdx e.2.2.1 cols ((quadOf fourQueued 0 0 e.1).slot e.2.2.1.word.slot)).2 = none) ∧
      (quadOf fourQueued 0 0 0).queue[0]? = some { queued .mma (mWord 0 0) with crew := 0, rows := 1 } := by decide +kernel

/-- The last cell of a quadrant, in a slot that is empty, with one column of products; an integer word and a floating one with two chunks. -/
theorem witness_MatrixProductsAreSummed :
    let w := { mWord 0 0 with tyA := 4, tyB := 4 }
    let f := { mWord 0 0 with klen := 2 }
    let col := fun w => (List.replicate (mxLen w) 0x80, ([] : List Nat))
    (w.tyA = 4 ∧ f.tyA ≠ 4 ∧ (63 : Nat) < 64 ∧ 1 * chunkLen f.lvl < mxLen f) ∧
      ((List.replicate 64 (col w)).toArray[63]? = some (col w) ∧ (col w).1.length = mxLen w) ∧
      ((List.replicate 64 (col f)).toArray[63]? = some (col f) ∧ (col f).1.length = mxLen f) := by decide

/-- A sum that keeps its exponent and one that is flushed; operands of a level; a group that goes on, one that ends and two that end; a slot of each kind and the
types of a drain, its value in the recorded width. -/
theorem witness_MatrixProductsAreSummed_levels :
    let units : Int := 3
    let v := roundedTo { rm := 0, rb := 0, ftz := false, sat := false } false units.natAbs (2 ^ (Nat.log2 units.natAbs + 1 - 24))
    let big : BitVec 31 := 0x10080
    let x : Machine.Dyadic := { neg := true, mag := 3, exp := -1 }
    (0 < 24 ∧ units ≠ 0 ∧ (-513 : Int) + Nat.log2 v < -511 ∧ (-511 : Int) ≤ -512 + Nat.log2 v) ∧ ([x] ≠ [] ∧ x.mag ≠ 0 ∧ Machine.Dyadic.zero.mag = 0) ∧
    (Cell.zero.n1 + 1 < group1 big ∧ group1 0 ≤ Cell.zero.n1 + 1 ∧ Cell.zero.n2 + 1 < group2 big ∧ group1 0x10000 ≤ Cell.zero.n1 + 1 ∧
      Cell.zero.n2 + 1 < group2 0x10000 ∧ group2 0 ≤ Cell.zero.n2 + 1) ∧
    (MxSlot.reset.kind ≠ .integer ∧ (mWord 2 0).tyC ≠ 8 ∧ (mWord 2 0).tyD ≠ 4 ∧ ({ mWord 2 0 with tyD := 4 } : MWord).tyD = 4 ∧ (mWord 2 8).tyC = 8 ∧
      x.expOf - (level3 0).width + 1 ≤ x.exp) := by decide +kernel

end Sys2Proof.Tests
end

