-- ==== Sys2Proof/Tests/WitnessFabric.lean ====
section
/-! SUPPORT. Witnesses for the statements about the fabric: remote words, reduction windows, planes and gangs. -/

namespace Sys2Proof.Tests

set_option Elab.async false

open Sys2Proof Sys2Proof.Machine

/-! ## Remote words -/

/-- Function 0 in a domain of two devices, with the window [0x1000, 0x2000) of its own for its peer. -/
def paired : FabricSt :=
  { FabricSt.reset with configured := true, members := [0, 1], windows := [{ base := 0x1000, size := 0x1000, valid := true, read := true, write := true }] }

/-- The same with a session on every port. -/
def keyedPair : FabricSt := { paired with ports := Vector.replicate 24 { live := true, keyed := true, peer := 1, since := 0 } }

theorem keyedPair_open : portOpen keyedPair 0 1 = true := by decide +kernel

/-- A state whose function 0 has the fabric unit `f`. -/
def linked (f : FabricSt) (s : State) : State := { s with fabrics := s.fabrics.set 0 f }

/-- A crew of role `r` in a block whose snapshot begins with the fabric address `fa`; the same, behind a fence and an unperformed store. -/
def facing (r : Nat) (fa : W64) : Crew := { inBlock ((Vector.replicate 15 0).set 0 fa) with role := r }
def fenced (c : Crew) : Crew := { c with storeQ := [{ portStore with scalar := false }], fences := [{ stamp := 5, synced := 0, blocks := 0, scope := 2 }] }

/-- A word of 32 bits whose lanes are at the address in the snapshot. -/
def farWord : LaneWord := { blank with a := .snap 0, b := .vreg 2, c := .zero }
def farSeen (c : Crew) (i : Instr) (w : LaneWord) : LaneCx := (sees c).of i (guarded w)

theorem linked_ready {f : FabricSt} {c : Crew} {i : Instr} {w : LaneWord} (h : atWindow c = true := by decide) (k : clear c i (guarded w) = true := by decide) :
    LaneReady (linked f (laneAt c)) i (guarded w) (linked f (laneAt c)) (farSeen c i w) :=
  laneReadyOn h k rfl (by simp [linked, laneAt, crewOf, kget]) (l := code)
    (by simp only [atWindow, Bool.and_eq_true, beq_iff_eq] at h; simp only [crewLaunch, h.1.1.1]; rfl) rfl rfl

/-- What the checks see of the lanes. -/
def farLanes (c : Crew) (i : Instr) : List (Nat × W64) := (lanesOf (farSeen c i farWord).lset).map fun k => (k, (farSeen c i farWord).globalVa farWord 0 k)

/-- The last word of a peer's space; an address of the device itself, and one that is not aligned; a word behind a fence. -/
theorem witness_RemoteWordsTravel :
    let top := facing 0 0x1FFFFFFFFFFFFC
    let self := facing 0 0x1000
    let odd := facing 0 0x10000000001001
    (∀ c ∈ [top, fenced top, self, odd], ∀ i ∈ [Instr.rput farWord, .rget farWord, .rred farWord], LaneReady (linked paired (laneAt c)) i (guarded farWord)
      (linked paired (laneAt c)) (farSeen c i farWord)) ∧
    (fabricOf (linked paired (laneAt top)) (crewDev (linked paired (laneAt top)) top) = paired ∧ faCheck paired 4 (farLanes top (.rput farWord)) = none ∧
      (faCheck paired 4 (farLanes self (.rput farWord))).map (fun e => (e.1, e.2.1)) = some (0x0C, 7) ∧
      (faCheck paired 4 (farLanes odd (.rput farWord))).map (fun e => (e.1, e.2.1)) = some (0x0A, 0)) ∧
    ((farSeen top (.rput farWord) farWord).remoteWaits = false ∧ (farSeen (fenced top) (.rput farWord) farWord).remoteWaits = true ∧ paired.out = [] ∧
      hopeless paired 1 = false ∧ ∀ e ∈ farLanes top (.rput farWord), faPeer e.2 = 1) := by
  refine ⟨fun c hc i hi => ?_, by decide +kernel, by decide +kernel⟩
  refine linked_ready ?_ ?_ <;> revert c i <;> decide

/-- A crew that is no exchange crew; halves that are whole, and one that is torn; the last line of the last window, and an offset that is not a line's. -/
theorem witness_RemoteWordsTravel_lines :
    let w := { farWord with ty := .f32 }
    let cut := { w with pg := 2 }
    let last := facing 3 0x1FFFFFFFFFFF80
    let odd := facing 3 0x1FFFFFFFFFFFC0
    let half := (facing 3 0x10000000000000).wp 2 allLanes 3
    let part := fun (x : LaneCx) (g : Nat) => x.lset &&& halfMask g
    let lines := fun (c : Crew) => [0, 1].map fun g => (32 * g, (farSeen c (.coll w) w).collFa w (32 * g))
    (∀ c ∈ [facing 0 0, last, odd, half, fenced last], LaneReady (linked paired (laneAt c)) (.coll w) (guarded w) (linked paired (laneAt c)) (farSeen c (.coll w) w)) ∧
    LaneReady (linked paired (laneAt half)) (.coll cut) (guarded cut) (linked paired (laneAt half)) (farSeen half (.coll cut) cut) ∧
    ((facing 0 0).kind ≠ 3 ∧ last.kind = 3 ∧ half.kind = 3 ∧ part (farSeen half (.coll cut) cut) 0 ∉ [0, halfMask 0] ∧
      (∀ c ∈ [last, odd], ∀ g ∈ [0, 1], part (farSeen c (.coll w) w) g = halfMask g)) ∧
    (faCheck paired 128 (lines last) = none ∧ (faCheck paired 128 (lines odd)).map (fun e => (e.1, e.2.1)) = some (0x0A, 0) ∧
      (farSeen last (.coll w) w).remoteWaits = false ∧ (farSeen (fenced last) (.coll w) w).remoteWaits = true) := by
  refine ⟨fun c hc => ?_, linked_ready, by decide +kernel, by decide +kernel⟩
  refine linked_ready ?_ ?_ <;> revert c <;> decide

/-- An operation of the peer on the last word of the window, on the first one past it, and a repeated one; the last port of a plane with a session, and without. -/
theorem witness_RemoteWordsTravel_target :
    let lane := fun pa : Nat => ({ lane := 63, pa := pa, data := 5 } : RemoteLane)
    let op := fun (k : RemoteKind) pa => ({ src := 1, seq := 9, kind := k, ty := .b32, op := 0, rtz := false, lanes := [lane pa], plane := 0, port := 1 } : RemoteOp)
    let s := fun k pa => ({ linked keyedPair small with message := .remoteOp 0 (op k pa) } : State)
    (∀ k pa, (s k pa).message = .remoteOp 0 (op k pa) ∧ portOpen (fabricOf (s k pa) 0) (op k pa).plane (op k pa).src = true) ∧
    portOpen paired 0 1 = false ∧ portFor keyedPair 0 1 = some 1 ∧ (keyedPair.port 1).keyed = true ∧ (paired.port 1).keyed = false ∧
    (∀ k ∈ [RemoteKind.rput, .rget, .rred], exported (fabricOf (s k 0x1FFC) 0) k 0x1FFC 4 = true ∧ exported (fabricOf (s k 0x1FFD) 0) k 0x1FFD 4 = false ∧
      exported (fabricOf (s k 0xFFF) 0) k 0xFFF 4 = false) ∧
    (targetLanes (s .rput 0x1FFC) 0 (op .rput 0x1FFC) false [lane 0x1FFC]).2 = [⟨63, false, 0, false⟩] ∧
    (targetLanes (s .rput 0x2000) 0 (op .rput 0x2000) false [lane 0x2000]).2 = [⟨63, true, 0, false⟩] := by
  refine ⟨fun _ _ => ⟨rfl, keyedPair_open⟩, by decide +kernel, by decide +kernel, by decide +kernel, by decide +kernel, by decide +kernel, by decide +kernel, by decide +kernel⟩

/-- Crew 0 has a lane of RGET outstanding, alone and with another of its command; an answer over its own port, one that refuses it, and one over another plane;
its time-out, which is due and not. -/
theorem witness_RemoteWordsTravel_answers :
    let lane : RemoteLane := { lane := 63, pa := 0x1000, data := 0 }
    let get := { remote with reg := 3, sent := true, port := 1, fa := 0x10000000001000, op := { remote.op with lanes := [lane] } }
    let s := fun (os : List RemoteOut) (now : Nat) => ({ linked { keyedPair with out := os } (laneAt blockCrew) with reftime := now } : State)
    let ans := fun plane no err => ({ seq := 0, plane := plane, port := 1, lanes := [{ lane := 63, refused := no, data := 5, bad := err }] } : RemoteAnswer)
    let answer := fun plane no err => ({ s [get] 0 with message := .remoteAnswer 0 (ans plane no err) } : State)
    let found := fun plane no err => (fabricOf (answer plane no err) 0).out.find? (answers (fabricOf (answer plane no err) 0) (ans plane no err))
    (∀ no err, found 0 no err = some get ∧ found 5 no err = none) ∧ (∀ plane no err, (answer plane no err).message = .remoteAnswer 0 (ans plane no err)) ∧
    (get.op.kind = .rget ∧ get.line = none ∧ get.op.lanes = [lane] ∧ lane.lane < 64 ∧ crewOf (s [get] 0) get.crew = some blockCrew) ∧
    ((fabricOf (s [get, { get with seq := 1 }] 0) 0).out.any (fun k => k.seq != get.seq && k.cmd == get.cmd) = true) ∧
    ((∀ now, (fabricOf (s [get] now) 0).out.find? (·.seq == 0) = some get) ∧ get.mark = false ∧ get.sent = true ∧ planeUp (fabricOf (s [get] 100000) 0) get.plane = true ∧
      (fabricOf (s [get] 100000) 0).blocked.getLsbD get.plane = false ∧ get.sentAt + (fabricOf (s [get] 100000) 0).rtmo ≤ (s [get] 100000).reftime ∧
      (s [get] 99999).reftime < get.sentAt + (fabricOf (s [get] 99999) 0).rtmo) := by
  refine ⟨by decide +kernel, fun _ _ _ => rfl, ⟨rfl, rfl, rfl, by decide, rfl⟩, by decide, fun now => rfl, by decide +kernel⟩

/-- Port `p` in one state, and a port with a session. -/
def withPort (p : Nat) (q : PortSt) (f : FabricSt) : FabricSt := { f with ports := f.ports.setIfInBounds p q }
def heldPort : PortSt := { live := true, keyed := true, peer := 1, since := 0 }

/-! ## Reduction windows -/

/-- A descriptor of window 255 in the last 64 bytes of the scratchpad: one line at 0x1000 of FP32 from device `p`, with all staging buffers of a die. -/
def described255 (p : Byte) : CoreSt :=
  { CoreSt.reset 0 with
    scratch := [(65473, 0x10), (65480, 128), (65484, 255), (65485, 2), (65488, 1), (65497, 0x80), (65498, 1), (65504, p)].filter fun c : Nat × Byte => c.2 != 0 }

/-- A window of device 0 whose contributors 0 and 15 are the devices 1 and 2. -/
def desc2 : WinDesc :=
  { base := 0x1000, len := 256, wid := 255, fmt := .f32, replace := false, w4 := 16, t4 := false, rnd4 := false, expect := 2 ^ 15 + 1, cc := 0, deadline := 10,
    stage := 1, peers := 1 :: List.replicate 14 0 ++ [2] }
def opened : WinState := { WinState.reset with st := .opened, desc := some desc2, expiry := some 1000, dies := [0, 1] }

/-- Crew 0's lane word; function 0 has the windows `ws`, its peers are the devices 1 and 2. -/
def windowAt (p : Byte) (c : Crew) (ws : KMap WinState) : State :=
  { linked { paired with members := [0, 1, 2], wins := ws } (laneAt c) with cores := [(0, described255 p)] }

/-- The same with the descriptor's first word poisoned. -/
def poisonedWindow : State := { windowAt 1 blockCrew [] with cores := [(0, { described255 1 with scrPoison := [65472] })] }

/-- The CWIN descriptor of the crew's scratchpad has been read, poisoned or not, in state `.1` with the bytes `.2`, and `k` holds of them. -/
def cwinReads (s : State) (off : Nat) (k : State → List Byte → Bool) (poisoned : Bool := false) : Bool :=
  match readDesc s blockCrew code (sees blockCrew).toucher off with | .ok s2 b bad => k s2 b && bad == poisoned | _ => false

theorem windowAt_ready {p : Byte} {y : KMap WinState} {c : Crew} {i : Instr} {w : LaneWord} (h : atWindow c = true := by decide)
    (k : clear c i (guarded w) = true := by decide) : LaneReady (windowAt p c y) i (guarded w) (windowAt p c y) (farSeen c i w) :=
  laneReadyOn h k rfl (by simp [windowAt, linked, laneAt, crewOf, kget]) (l := code)
    (by simp only [atWindow, Bool.and_eq_true, beq_iff_eq] at h; simp only [crewLaunch, h.1.1.1]; rfl) rfl rfl

/-- The last descriptor of the scratchpad, one past it, and one that is not aligned; a closed window with room for its stage, an open window, no room; a
descriptor that names the device itself; a word behind a fence or an unperformed store. -/
theorem witness_ReductionWindowsCollect :
    let w := fun off : W32 => copyWordAt off
    let lit := fun off : W32 => ((farSeen blockCrew (.cwin (w off)) (w off)).literal (w off)).toNat
    let other : WinState := { opened with desc := some { desc2 with wid := 254 } }
    let crowded := windowAt 1 blockCrew [(254, other)]
    let room := fun (s : State) (b : List Byte) => (winDies s 0 (crewCtx s blockCrew) (winDesc b)).all fun die => reserved s die + (winDesc b).stage ≤ 98304
    let ok := fun (s : State) b => winDescOk (fabricOf s 0) b
    (∀ off ∈ ([65472, 65536, 32] : List W32), ∀ p y, ∀ c ∈ [blockCrew, fenced blockCrew], LaneReady (windowAt p c y) (.cwin (w off)) (guarded (w off)) (windowAt p c y)
      (farSeen c (.cwin (w off)) (w off))) ∧
    (∀ p y c, c.team = 1 → teamOf (windowAt p c y) c.team = some (fetchTeam 1 0 0) ∧ crewLaunch (windowAt p c y) c = some code) ∧
    (lit 65472 = 65472 ∧ scratchSize code = 65472 + 64 ∧ lit 65536 % 64 = 0 ∧ scratchSize code < lit 65536 + 64 ∧ lit 32 % 64 ≠ 0) ∧
    (∀ c ∈ [blockCrew, fenced blockCrew], (farSeen c (.cwin (w 65472)) (w 65472)).remoteWaits = (c != blockCrew) ∧
      accessesDone c (windowAt 1 c []).nextStamp (blockOf c).stamp 0 = (c == blockCrew)) ∧
    cwinReads (windowAt 1 blockCrew []) 65472 (fun s b => ok s b && (winOf s 0 (winDesc b).wid).st != .opened && room s b) = true ∧
    cwinReads (windowAt 0 blockCrew []) 65472 (fun s b => !ok s b) = true ∧
    cwinReads (windowAt 1 blockCrew [(255, opened)]) 65472 (fun s b => ok s b && (winOf s 0 (winDesc b).wid).st == .opened) = true ∧
    LaneReady poisonedWindow (.cwin (w 65472)) (guarded (w 65472)) poisonedWindow (farSeen blockCrew (.cwin (w 65472)) (w 65472)) ∧
    cwinReads poisonedWindow 65472 (fun s b => ok s b) true = true ∧
    LaneReady crowded (.cwin (w 65472)) (guarded (w 65472)) crowded (farSeen blockCrew (.cwin (w 65472)) (w 65472)) ∧
    cwinReads crowded 65472 (fun s b => ok s b && (winOf s 0 (winDesc b).wid).st != .opened && !room s b) = true := by
  refine ⟨fun off ho p y c hc => ?_, fun p y c h => ?_, by decide, by decide +kernel, by decide +kernel, by decide +kernel, by decide +kernel, ?_, by decide +kernel, ?_, by decide +kernel⟩
  · simp only [List.mem_cons, List.not_mem_nil, or_false] at ho
    refine windowAt_ready ?_ ?_ <;> rcases ho with rfl | rfl | rfl <;> revert c <;> decide
  · exact ⟨by rw [h]; rfl, by simp only [crewLaunch, h]; rfl⟩
  · exact laneReadyOn (by decide) (by decide) rfl (by simp [poisonedWindow, windowAt, linked, laneAt, crewOf, kget]) (l := code) rfl rfl rfl
  · exact windowAt_ready

/-- CSTAT and CABORT of the last window and of the first number that names none; an ABORT for an open window and for one that is not, over a port
with a session and over one without. -/
theorem witness_ReductionWindowsCollect_status :
    let w := fun off : W32 => { copyWordAt off with fn := 1 }
    let lit := fun (i : Instr) (off : W32) => ((farSeen blockCrew i (w off)).literal (w off)).toNat
    (∀ off ∈ ([255, 256] : List W32), ∀ i ∈ [Instr.cstat (w off), .cabort (w off)], ∀ y, LaneReady (windowAt 1 blockCrew y) i (guarded (w off)) (windowAt 1 blockCrew y)
      (farSeen blockCrew i (w off))) ∧
    (lit (.cstat (w 255)) 255 = 255 ∧ lit (.cstat (w 256)) 256 = 256 ∧ blockCrew.laneAcquiring = false ∧ (w 255).fn.getLsbD 0 = true ∧
      opened.st = .opened ∧ opened.st.code < 2 ∧ 2 ≤ WinSt.aborted.code ∧ opened.senders = [1, 2] ∧ WinState.reset.st ≠ .opened) ∧
    (∀ y, ({ windowAt 1 blockCrew y with message := .windowAbort 0 1 0 255 } : State).message = .windowAbort 0 1 0 255) ∧
    (∀ k < 8, portOpen paired k 1 = false) ∧ (∀ k < 8, portOpen (withPort 23 heldPort paired) k 1 = (k == 7 && portFor paired 7 1 == some 23)) ∧
      portOpen keyedPair 0 1 = true := by
  refine ⟨fun off ho i hi y => windowAt_ready (by decide) ?_, by decide, fun y => rfl, by decide +kernel, by decide +kernel, by decide +kernel⟩
  simp only [List.mem_cons, List.not_mem_nil, or_false] at ho
  rcases ho with rfl | rfl <;> revert i <;> decide

/-- Lines of the window: one that waits already, one that the device remembers, and one refused for each reason; a line whose turn has not come; a window
that expires at tick 1000. -/
theorem witness_ReductionWindowsCollect_lines :
    let m : CollLine := { src := 1, seq := 9, wid := 255, offset := 128, fmt := .f32, wire := [], plane := 0, port := 1 }
    let s := fun (y : WinState) (f : FabricSt → FabricSt) (l : CollLine) => ({ linked (f { keyedPair with wins := [(255, y)] }) small with message := .collLine 0 l } : State)
    let full : WinLine := { WinLine.empty with admitted := 1 }
    (∀ y f l, (s y f l).message = .collLine 0 l) ∧ portOpen (fabricOf (s opened id m) 0) m.plane m.src = true ∧ portOpen paired m.plane m.src = false ∧
    ((fabricOf (s opened (fun f => { f with waitLines := [(m, false)] }) m) 0).waitLines.any (fun e => e.1.src == m.src && e.1.seq == m.seq) = true) ∧
    (remembered (s opened (fun f => { f with seen := [(1, [9])] }) m) 0 m.src m.seq = true ∧ remembered (s opened id m) 0 m.src m.seq = false ∧
      (fabricOf (s opened id m) 0).waitLines = []) ∧
    (refusal 999 opened m = none ∧ refusal 1000 opened m = some 3 ∧ refusal 0 WinState.reset m = some 3 ∧ refusal 0 opened { m with src := 3 } = some 1 ∧
      refusal 0 { opened with absent := 1 } m = some 6 ∧ refusal 0 { opened with lines := [(1, full)] } m = some 2 ∧
      refusal 0 opened { m with offset := 256 } = some 5 ∧ refusal 0 opened { m with fmt := .bf16 } = some 4) ∧
    (canStage opened = true ∧ opened.desc = some desc2 ∧ (let held := { opened with lines := [(1, { WinLine.empty with waiting := [(15, [])] })] };
      canStage held = false ∧ held.st = .opened ∧ desc2.stage ≤ held.staged) ∧
      canStage (winOf (admitLine (s opened id m) 0 m) 0 255) = true ∧
      canStage (winOf (admitLine (s { opened with lines := [(0, { WinLine.empty with waiting := [(15, [])] })] } id m) 0 m) 0 255) = false ∧
      contributorOf desc2 m.src = some 0 ∧ m.wid = 255 ∧
      (fabricOf (s opened (fun f => { f with waitLines := [(m, true)] }) m) 0).waitLines = [(m, true)] ∧
      ∀ k ∈ (fabricOf (s opened (fun f => { f with waitLines := [(m, false)] }) m) 0).waitLines, k.2 = true → k.1.wid ≠ 255) ∧
    (desc2.expected = [] ++ 0 :: [15] ∧ desc2.expected = [0] ++ 15 :: [] ∧ (opened.line 1).closed = false ∧ opened.closing = false ∧ hasBit (opened.line 1).entered 0 = false ∧
      hasBit opened.absent 0 = false ∧ kget (opened.line 1).waiting 0 = none ∧ hasBit 1 0 = true ∧ hasBit 1 15 = false) ∧
    ((∀ now : Nat, winOf { s opened id m with reftime := now } 0 255 = opened) ∧ opened.expiry = some 1000 ∧ opened.desc ≠ none ∧ opened.lines = [] ∧
      (999 : Nat) < 1000) := by
  refine ⟨fun y f l => rfl, by decide +kernel, by decide +kernel, by decide, by decide, by decide +kernel, by decide +kernel, by decide +kernel, fun now => rfl, rfl, by decide⟩

/-! ## Planes -/

/-- Function 0 with the unit `f` at tick `now`, and a message. -/
def ticking (f : FabricSt) (now : Nat) (m : Message) : State := { linked f small with reftime := now, message := m }

/-- A domain of three devices in its fifth generation, of which the device is number 0 or 1. -/
def domain (me : Nat) : FabricSt := { paired with devid := me, members := [0, 1, 2], gen := 5 }

/-- The last port live, keyed and lost; plane 0 usable for device 1, and blocked; keep-alives that are due and one tick early, on the last plane. -/
theorem witness_PlanesAreAgreed :
    let q : PortSt := { live := true, keyed := true, peer := 1, since := 0 }
    let s := fun q => ticking (withPort 23 q (domain 0)) 0 .silent
    let keyed := withPort 1 q (domain 0)
    let blocked := { keyed with blocked := 1 }
    let last := { remote with fa := 0x1FFFFFFFFFFFFC }
    (∀ q, (fabricOf (s q) 0).port 23 = q) ∧ q.live = true ∧ q.keyed = true ∧
    (∀ f now m, fabricOf (ticking f now m) 0 = f) ∧
    (portFor keyed (planeOf keyed last.fa) (faPeer last.fa) = some 1 ∧ keyed.blocked.getLsbD (planeOf keyed last.fa) = false ∧ (keyed.port 1).keyed = true ∧
      blocked.blocked.getLsbD (planeOf blocked last.fa) = true ∧ sendsBehind keyed last = false ∧
      sendsBehind { keyed with out := [last, { last with seq := 1 }] } { last with seq := 1 } = true ∧ overlaps last.fa.toNat last.bytes last.fa.toNat last.bytes = true ∧
      hopeless keyed 1 = false ∧ hopeless { keyed with lost := [1] } 1 = true ∧ hopeless { keyed with dead := 255 } 1 = true ∧ portOpen keyed 0 1 = true ∧ portOpen (domain 0) 0 1 = false) ∧
    (livePorts { domain 0 with dead := 128 } 7 ≠ [] ∧ BitVec.getLsbD { domain 0 with dead := 128 }.dead 7 = true) ∧
    ((domain 0).configured = true ∧ planeUp (domain 0) 7 = true ∧ vget (domain 0).kept 7 0 + (domain 0).ptmo / 10 ≤ (ticking (domain 0) 1000 .silent).reftime ∧
      (ticking (domain 0) 999 .silent).reftime < vget (domain 0).kept 7 0 + (domain 0).ptmo / 10) ∧
    (livePorts (domain 0) 7 ≠ [] ∧ ∀ a, (ticking (domain 0) 0 (.keepalive 0 7 1 a)).message = .keepalive 0 7 1 a) := by
  refine ⟨fun q => by simp [ticking, linked, withPort, fabricOf, FabricSt.port, vget], rfl, rfl, fun f now m => by simp [ticking, linked, fabricOf, vget],
    by decide +kernel, by decide +kernel, by decide +kernel, by decide, fun a => rfl⟩

/-- A plane without ports and one that has been silent for PTMO; a coordinator that is another device, and one that is the device, alone in hearing a report, with
the plane proposed, or with no entry of the map. -/
theorem witness_PlanesAreAgreed_reports :
    let lost := ({ live := false, keyed := false, peer := 0, since := 0 } : PortSt)
    let bare := { withPort 0 lost (withPort 1 lost (withPort 2 lost (domain 1))) with heard := [(heardKey 0 7, 9999)] }
    let silent := { domain 1 with heard := [(heardKey 0 7, 9999)] }
    let leads := { domain 0 with leads := true, propDead := 1 }
    (∀ f ∈ [bare, silent, domain 0, leads], f.configured = true) ∧
    (bare.dead.getLsbD 0 = false ∧ livePorts bare 0 = [] ∧ peersOf silent ≠ [] ∧ lastHeard silent 0 + silent.ptmo ≤ (10000 : Nat) ∧ silent.dead.getLsbD 0 = false) ∧
    (∀ f ∈ [bare, silent], mapUses f.map 0 = true ∧ f.agree = .normal ∧ coordinator { f with dead := f.dead ||| (1#8 <<< 0) } 10000 ≠ f.devid ∧
      coordinator f 10000 ≠ f.devid) ∧
    (coordinator leads 10000 = leads.devid ∧ leads.propDead.getLsbD 0 = true ∧ coordinator (domain 0) 10000 = (domain 0).devid ∧ (domain 0).leads = false ∧
      mapUses (domain 0).map 0 = true ∧ mapUses (domain 0).map 7 = false) := by
  decide +kernel

/-- PROPOSE of the next generation and of one more; acknowledgements with one still missing, and the last; a device that is prepared; both time-outs, due and early; a
map whose last entry is on a dead plane. -/
theorem witness_PlanesAreAgreed_commits :
    let prepared := { domain 1 with agree := .prepared, propGen := 6, propDead := 128 }
    let leads := fun a => { domain 0 with leads := true, agree := .prepared, propGen := 6, propDead := 128, acks := a }
    let old : Vector (Fin 8) 64 := (Vector.replicate 64 0).set 63 7
    ((6 : Nat) = (domain 1).gen + 1 ∧ (7 : Nat) ≠ (domain 1).gen + 1 ∧ (128 : BitVec 8) ≠ 0) ∧
    (prepared.leads = false ∧ prepared.agree = .prepared ∧ prepared.propGen = prepared.gen + 1 ∧ (7 : Nat) ≠ prepared.propGen ∧ (domain 1).agree ≠ .prepared) ∧
    ((∀ a, (leads a).configured = true ∧ (leads a).leads = true ∧ (leads a).propGen ≠ (leads a).gen) ∧ (∃ m ∈ peersOf (leads [0]), m ∉ [1]) ∧
      ∀ m ∈ peersOf (leads [0, 2]), m ∈ [1, 0, 2]) ∧
    ((leads []).propAt + 10 * (leads []).ptmo ≤ (100000 : Nat) ∧ (99999 : Nat) < (leads []).propAt + 10 * (leads []).ptmo ∧
      prepared.agree ≠ .normal ∧ prepared.since + 20 * prepared.ptmo ≤ (200000 : Nat)) ∧
    (peersOf (leads [2]) = [1, 2]) ∧ (([0, 1] : List (Fin 8)) ≠ [] ∧ (128 : BitVec 8).getLsbD old[63].val = true ∧ (128 : BitVec 8).getLsbD old[62].val = false) := by
  refine ⟨by decide, by decide, ⟨fun a => ⟨rfl, rfl, by simp [domain]⟩, by decide, by decide⟩, by decide, by decide, by decide⟩

end Sys2Proof.Tests
end

