-- ==== Sys2Proof/Tests/WitnessSystem.lean ====
section
/-! SUPPORT. Witnesses for the statements about the mailbox, page tables, debugging, submission queues and the life of teams. -/

namespace Sys2Proof.Tests

set_option Elab.async false

open Sys2Proof Sys2Proof.Machine

/-! ## Requests -/

/-- The writes of the memory processor to a range reach it. -/
theorem reaches_of {s : State} {dev pa n : Nat}
    (h : ∀ i, i < n → (homeKey dev (pa + i)).any (fun k => responder s (devDie dev) k == false) = true) (l : s.late = none := by rfl) : Reaches s dev pa n := by
  refine ⟨l, fun i hi => ?_⟩
  obtain ⟨k, hk, hr⟩ := Option.any_eq_true .. |>.mp (h i hi)
  exact ⟨k, hk, by simpa using hr⟩

/-- Function 0 has a request of `ops` in its mailbox. -/
def asks (ops : List W64) (s : State) : State :=
  { s with
    devs := s.devs.set 0 { s.devs[0] with go := true }, request := { fn := 0, code := 1, tag := 7, ops := ops } }

/-- No context stands, and function 0 is prepared or not. -/
def bare (prepared : Bool) : State :=
  { small with contexts := [], teams := [], launches := [], devs := small.devs.set 0 { DevSt.reset with prepared := prepared } }

/-- Memory with the control block of a fault queue at 0x10000 and the descriptor of queue 63 at 0x20000. -/
def blocks (s : State) : State := physWrite (physWrite s none 0 0x10008 [6]) none 0 0x20008 [4, 0, 63]

/-- The operands of a CREATE_CONTEXT at the lower limits of PDEAD and FAIRT. -/
def createOps : List W64 := [1, 1024, 64, 0x10000, 0, 0x1000, 0x1000, 0x20000, 1]

/-- A context with nothing mapped and no launch. -/
def quiet : State := { small with teams := [], launches := [] }

/-- Requests that are served, refused and busy, at the ends of their limits; a context without a resident team, and one with a team whose
image does not fit the save region, or fits. -/
theorem witness_MailboxRequestsAreAnswered :
    let op := fun s : State => opNat s.request
    let held := { blocks (bare true) with contexts := [(0, { fetchContext with dev := 1 })] }
    let init := [0x1000, 20, 0x10000000, 0x400000, 256]
    (∀ ops, Serving (asks ops small) ∧ (devOf (asks ops small) 0).go = true) ∧
    (op (asks [1500] small) 0 = 1500 ∧ op (asks [3400] small) 0 = 3400 ∧ op (asks [1499] small) 0 < 1500 ∧ 3400 < op (asks [3401] small) 0) ∧
    (servesContext (asks init small) 0 = true ∧ servesContext (asks init (bare false)) 0 = false ∧ initOk 0 (asks init (bare false)).request = true ∧
      initOk 0 (asks [0x1000, 21, 0x10000000, 0x400000, 256] (bare false)).request = false ∧ Serving (asks init (bare false)) ∧
      Reaches (asks init (bare false)) 0 (op (asks init (bare false)) 0 - 64) 8) ∧
    ((devOf (asks createOps (bare false)) 0).prepared = false ∧ (devOf (asks createOps (bare true)) 0).prepared = true ∧
      createOk (asks createOps (bare true)) (asks createOps (bare true)).request = false ∧
      createOk (asks createOps (blocks (bare true))) (asks createOps (blocks (bare true))).request = true ∧
      createBusy (asks createOps (blocks (bare true))) (asks createOps (blocks (bare true))).request = false ∧
      createOk (asks createOps held) (asks createOps held).request = true ∧ createBusy (asks createOps held) (asks createOps held).request = true ∧
      Serving (asks createOps (blocks (bare true))) ∧ Serving (asks createOps held)) ∧
    (inMap 0 (op (asks [0xC000000000, 1] small) 0) (op (asks [0xC000000000, 1] small) 1) = false ∧ op (asks [0, 2419] small) 1 < 2420 ∧ 2420 ≤ op (asks [0, 2420] small) 1 ∧
      inMap 0 0 2419 = true ∧ inMap 0 0 2420 = true ∧ small.fwUp = true ∧
      inMap 0 (op (asks [0xBFFFFFFFFF, 1] small) 0) (op (asks [0xBFFFFFFFFF, 1] small) 1) = true) ∧
    ((asks [] small).fwStaged = [] ∧ (asks [] { small with fwStaged := [1] }).fwStaged ≠ [] ∧ Serving (asks [] { small with fwStaged := [1] }) ∧ accepting (asks [] { small with fwStaged := [1] }) = false) ∧
    (inMap 0 (op (asks [0, 64] small) 0) 32 = true ∧ inMap 0 (op (asks [0, 64] small) 1) 2676 = true) ∧
    ((∃ c, ServingContext (asks [0] small) c ∧ ((asks [0] small).teams.map (·.2)).filter (fun t => (ctxLaunches (asks [0] small) c.id).contains t.launch) ≠ []) ∧
      (∃ t, teamOf (asks [0] small) 1 = some t ∧ t.uid = 1 ∧ t.askable = true ∧ launchCtx (asks [0] small) t.launch = 0)) ∧
    (teamOf small 1 = some (fetchTeam 1 0 0) ∧ launchOf small 0 = some code ∧ ctxOf small code.ctx = some fetchContext ∧ imagePlace small code = none ∧
      (imagePlace { small with contexts := [(0, { fetchContext with saveBase := 0x1000000, saveSize := 0x10000000 })] } code).isSome = true) ∧
    ∃ c, ServingContext (asks [0] quiet) c ∧ ((asks [0] quiet).teams.map (·.2)).filter (fun t => (ctxLaunches (asks [0] quiet) c.id).contains t.launch) = [] := by
  refine ⟨fun ops => ⟨⟨rfl, rfl⟩, rfl⟩, by decide, ⟨by decide, by decide, by decide, by decide, ⟨rfl, rfl⟩, reaches_of (by decide +kernel)⟩, ?_, by decide,
    ⟨rfl, by decide, ⟨rfl, rfl⟩, by decide⟩, by decide, ⟨⟨_, ⟨⟨rfl, rfl⟩, rfl, rfl, rfl⟩, by decide⟩, _, rfl, rfl, rfl, rfl⟩, ⟨rfl, rfl, rfl, by decide +kernel⟩, _, ⟨⟨rfl, rfl⟩, rfl, rfl, rfl⟩, by decide⟩
  exact ⟨rfl, rfl, by decide +kernel, by decide +kernel, by decide +kernel, by decide +kernel, by decide +kernel, ⟨rfl, rfl⟩, rfl, rfl⟩

/-! ## Page tables -/

/-- A context whose only page is a unified one of 4 KiB at 0x40000000, in a unified range of two pages; page 0x40001 waits for its answer. -/
def unified : Context :=
  { fetchContext with
    ptes := [(pteKey 0 0x40000000, mkPte true true true false false true 0x5000), (pteKey 1 0x40000000, mkPte false false false false false false 0x6000),
      (pteKey 2 0, mkPte true true true true false true 0), (pteKey 2 0x40000000, mkPte false false false false false false 0x7000),
      (pteKey 3 0, mkPte false false false false false false 0), (pteKey 4 0, mkPte false false false false false false 0)], unified := [(0x40000000, 0x40002000)], unanswered := [0x40001],
    serviceQ := some 0x30000 }

/-- The same with that page in migration, and its entry gone. -/
def migrating : Context :=
  { unified with
    ptes := modPage unified.ptes 0x40000000 12 fun _ => 0, moving := [(0x40000, mkPte true true true false false true 0x5000 ||| BitVec.ofNat 64 (12 * 2 ^ 52))] }

def paged (c : Context) : State := { quiet with contexts := [(0, c)] }

/-- The same with a page of 2 MiB in migration, of which a page of 4 KiB is a part. -/
def cutting : Context := { unified with moving := [(0x40000, BitVec.ofNat 64 (21 * 2 ^ 52))] }

/-- Pages in migration that a range meets as a whole, in part and not at all. -/
theorem witness_PageRequestsChangeTables_moving :
    (movingWhole unified 0x40000000 0x40001000 = true ∧ movingWhole migrating 0x40000000 0x40001000 = true ∧ movingWhole cutting 0x40000000 0x40001000 = false) ∧
    ((∀ e ∈ movingIn migrating 0x40000000 0x40001000, e.2.1 = 12) ∧ (movingIn migrating 0x40000000 0x40001000).length = 1 ∧
      ¬(∀ e ∈ movingIn cutting 0x40000000 0x40001000, e.2.1 = 12) ∧ movingIn unified 0x40001000 0x40001001 = []) := by decide +kernel

/-- The last page below 2^56 mapped where it is free, where it is not, with a frame in no range and out of the limits; ranges of UNMAP and PROTECT that hold
a page, and that cut one; the pages of RESOLVE and TRANSLATE at the ends; both turns of a migration, and a missing page. -/
theorem witness_PageRequestsChangeTables :
    let last : W64 := 0xFFFFFFFFFFF000
    let limits := fun ops : List W64 =>
      let r := (asks ops (paged unified)).request
      let page := 2 ^ sizeShift (mapPerm (r.op 4)).size
      rangeOk (opNat r 1) (opNat r 2) && opNat r 1 % page == 0 && opNat r 2 % page == 0 && opNat r 3 % page == 0
    let op := fun ops : List W64 => opNat (asks ops (paged unified)).request
    (∀ ops, op (0 :: ops) 0 = 0 → ServingContext (asks (0 :: ops) (paged unified)) unified) ∧
    (limits [0, last, 0x1000, 0xBFFFFFF000, 7] = true ∧ inMap 0 0xBFFFFFF000 0x1000 = true ∧ pageFree unified.ptes last.toNat 12 = true ∧
      inMap 0 0xC000000000 0x1000 = false ∧ limits [0, last, 0x1000, 0xC000000000, 7] = true ∧ limits [0, last, 0x2000, 0, 7] = false ∧
      limits [0, 0x40000000, 0x200000, 0, 0x17] = true ∧ pageFree unified.ptes 0x40000000 21 = false) ∧
    (rangeOk 0x40000000 0x1000 = true ∧ leavesIn unified.ptes 0x40001000 1 0x40000000 = some [(0x40000000, 12)] ∧ rangeOk 0x3FFFF000 0x1000 = true ∧
      leavesIn unified.ptes 0x40000000 1 0x3FFFF000 = none ∧ rangeOk 0x40000000 0 = false) ∧
    (op [0, last, 1] 2 = 1 ∧ op [0, last, 1] 1 < 2 ^ 56 ∧ 1 < op [0, last, 2] 2 ∧ 2 ^ 56 ≤ op [0, 0x100000000000000, 0] 1) ∧
    (let s := asks [0, 0x40000FFF] (paged unified)
     (match (walkFrom s 0 0 0x40000FFF 4).2 with | .present _ 12 => true | _ => false) = true ∧
       (match (walkFrom s 0 0 last.toNat 4).2 with | .absent => true | _ => false) = true) ∧
    (ctxOf (paged unified) 0 = some unified ∧ kget unified.moving 0x40000 = none ∧ (leafAt unified.ptes 0x40000000).any (fun e => e.2.1 == 12 && e.2.2.getLsbD 6) = true ∧
      inUnified unified 0x40000 = true ∧ inUnified unified 0x40001 = true ∧ inUnified unified 0x40002 = false ∧ unified.unanswered.contains 0x40001 = true ∧
      leafAt unified.ptes 0x40001000 = none ∧ frameFits (paged unified) 0 0x6000 12 = true) ∧
    (ctxOf (paged migrating) 0 = some migrating ∧ (kget migrating.moving 0x40000).any (fun m => bitsOf m 63 52 == 12) = true ∧
      leafAt migrating.ptes 0x40000000 = none ∧ shootBusy (paged migrating) 0 0x40000000 0x40001000 = false ∧
      frameFits (paged migrating) 0 0x6000 12 = true) ∧
    (unified.serviceQ = some 0x30000 ∧ Reaches (paged unified) 0 (0x30000 + 16) 4 ∧ Reaches (paged unified) 0 (unified.faultQ + 16) 4) := by
  refine ⟨fun ops _ => ⟨⟨rfl, rfl⟩, rfl, rfl, rfl⟩, by decide +kernel, by decide +kernel, by decide +kernel, by decide +kernel, by decide +kernel, by decide +kernel,
    rfl, reaches_of (by decide +kernel), reaches_of (by decide +kernel)⟩

/-! ## Debugging -/

/-- A context in which word 7 of the object is planted, and one that maps the frame of the code as well. -/
def planted : Context := { fetchContext with planted := [{ obj := 0, idx := 7, va := 65564, word := 1, old := 2 }] }
def shared : State := { small with contexts := [(0, fetchContext), (1, { fetchContext with id := 1 })] }

/-- A word of an object in a page of the context's own, in one that another context maps, one that the object does not have, and one that is planted. -/
theorem witness_DebuggersReachTheirContext_planted :
    (codeWordAt small fetchContext 0 8 = none ∧ (∀ q ∈ fetchContext.planted, ¬(q.obj = 0 ∧ q.idx = 7)) ∧ ∃ q ∈ planted.planted, q.obj = 0 ∧ q.idx = 7) ∧
    (∃ p, codeWordAt small fetchContext 0 7 = some p ∧ p.va < 2 ^ 56 ∧ p.shift ∈ [12, 16, 21, 30] ∧ sharedPage small fetchContext p = false ∧
      (ownPage small fetchContext p).2 = true) ∧
    (∃ p, codeWordAt shared fetchContext 0 7 = some p ∧ p.shift ∈ [12, 16, 21, 30] ∧ sharedPage shared fetchContext p = true) ∧
    (∃ l, ((small.launches.map (·.2)).find? fun l => l.ctx == fetchContext.id && l.handle == 0) = some l ∧ planted.planted.find? (plantedAt planted l 7) ≠ none ∧
      fetchContext.planted.find? (plantedAt fetchContext l 7) = none ∧ l.scode[7]? = some 0 ∧ l.ctx = fetchContext.id ∧ l.translated = false) :=
  ⟨by decide, ⟨_, rfl, by decide +kernel⟩, ⟨_, rfl, by decide +kernel⟩, ⟨_, rfl, by decide +kernel⟩⟩

/-- A tag that a crew waits for, in its stream, in a handler and in a saved team; the last core of the upper die's limits; a launch whose object's
last word is planted. -/
theorem witness_DebuggersReachTheirContext :
    let waits := { scalarAt { crew with await := .sysc 4 none } with cores := [(39, CoreSt.reset 39)] }
    let frozen := scalarAt { crew with handler := true, frozen := some { frozenBlock with await := .sysc 4 none } }
    (∀ ops s, s ∈ [waits, frozen] → Serving (asks ops s)) ∧
    ((∀ s ∈ [waits, frozen], s.crews.any (fun k => awaitsTag 4 k.2) = true) ∧ waits.crews.any (fun k => awaitsTag 5 k.2) = false ∧ waits.saved = []) ∧
    (let x : W64 := 0x270F
     bitsOf x 13 8 = 39 ∧ bitsOf x 3 0 = 15 ∧ bitsOf x 7 4 = 0 ∧ bitsOf x 15 14 = 0 ∧ bitsOf x 63 17 = 0 ∧ (fnDies 0).contains (bitsOf x 16 16) = true ∧
       (kget waits.cores (coreKey 0 39)).isSome = true ∧ 40 ≤ bitsOf (0x2800 : W64) 13 8) ∧
    (∃ c, ServingContext (asks [0, 0, 7, 5] waits) c ∧ code.ctx = c.id ∧ code.handle = opNat (asks [0, 0, 7, 5] waits).request 1 ∧
      opNat (asks [0, 0, 7, 5] waits).request 2 + 1 = code.scode.length ∧ code.patches = []) := by
  refine ⟨fun ops s hs => ?_, by decide, by decide, _, ⟨⟨rfl, rfl⟩, rfl, rfl, rfl⟩, rfl, rfl, by decide, rfl⟩
  simp only [List.mem_cons, List.not_mem_nil, or_false] at hs
  rcases hs with rfl | rfl <;> exact ⟨rfl, rfl⟩

/-! ## Submission queues -/

/-- The place in memory of the byte at 0x2000 + `o`, which the next page does not follow (R292). -/
def inPage (o : Nat) (b : Byte) : Nat × Byte := (0x1000 + o, b)

/-- A code object of one scalar word, one LNOP and one kernel at 0x2000, and its launch record at 0x2800. -/
def object : List Host.Cell :=
  [inPage 0 0x5A, inPage 1 0x4E, inPage 2 0x59, inPage 3 0x4C, inPage 5 1, inPage 0x48 3, inPage 0x51 3, inPage 0x100 1, inPage 0x108 0x40, inPage 0x109 1,
   inPage 0x10C 4, inPage 0x110 2, inPage 0x118 0x80, inPage 0x119 1, inPage 0x11C 12, inPage 0x120 6, inPage 0x129 2, inPage 0x12D 1, inPage 0x180 0x54,
   inPage 0x204 1, inPage 0x206 1, inPage 0x801 0x20, inPage 0x810 1]

/-- Queue 63 of function 0 with its descriptor at 0x4000, waiting or not. -/
def subQueue (cons : Nat) (open_ : List Outstanding) (waiting : Option (Nat × W64 × W64)) (accepted : Bool) : SubQueue :=
  { ctx := 0, desc := 0x4000, base := 0x5000, log2n := 4, prio := 0, prod := 0, cons := cons, open_ := open_, waiting := waiting, accepted := accepted, waits := [], got := [] }

/-- Function 0, prepared, with a journal of 256 entries at `j`. -/
def queued63 (j : Nat) (k : SubQueue) : State :=
  { small with mem := object, devs := small.devs.set 0 { DevSt.reset with prepared := true, jBase := j, jLog := 8, seq := 255, queues := [(63, k)] } }

/-- What a step of a command's work answers. -/
def goes {α : Type} : Cmd α → Bool | .ok _ _ => true | _ => false
def rejects {α : Type} : Cmd α → Option (Nat × Nat) | .reject _ r a => some (r, a) | _ => none
def holds {α : Type} : Cmd α → Bool | .hold _ => true | _ => false

/-- A LAUNCH that is accepted, one whose record fails, read now or before a wait, and one that waits for a page. -/
theorem witness_CommandsAreTakenFromTheirQueues :
    let s := queued63 0x100000 (subQueue (2 ^ 32 - 1) [] none false)
    (∃ k, queueOf s 0 63 = some k ∧ k.cons = 2 ^ 32 - 1 ∧ bellCount s 0 = 64 ∧ gotBytes s 0 63 false 0x3000 128 = none) ∧
    (let kept := queued63 0x100000 { subQueue (2 ^ 32 - 1) [] none false with got := [(false, 0x3000, List.replicate 128 0)] }
     (gotBytes kept 0 63 false 0x3000 128).any (fun bs => recordOk 0 bs == false) = true) ∧
    (goes (acceptChecks s 0 63 0x2800) = true ∧
      (match acceptChecks s 0 63 0x2800 with | .ok t x => goes (copySections t 0 63 x.obj x.record) && (queueOf t 0 63).isSome | _ => false) = true) ∧
    (rejects (acceptChecks s 0 63 0x3000) = some (1, 0x3000) ∧
      (match commandRead s 0 63 0x3000 128 with | .ok _ bs => !recordOk 0 bs | _ => false) = true) ∧
    holds (acceptChecks s 0 63 farVa) = true := by
  refine ⟨⟨_, rfl, rfl, rfl, rfl⟩, by decide +kernel, by decide +kernel, by decide +kernel, by decide +kernel⟩

/-- The ring's last entry, a ring that is not in memory; doorbells at the ring's size and one past it, of the last queue and the first that the function
does not have; the registers at the ends of MBOX_REQ. -/
theorem witness_CommandsAreTakenFromTheirQueues_registers :
    let s := queued63 0x100000 (subQueue 5 [] none false)
    let lost := queued63 0xC000000000 (subQueue 5 [] none false)
    ((devOf s 0).prepared = true ∧ ringLost s 0 = false ∧ noDigest.length = 32 ∧ 64 ≤ (devOf s 0).jBase ∧
      ∀ i, i < 64 → (homeKey 0 ((devOf s 0).jBase + 64 * ((devOf s 0).seq % 2 ^ (devOf s 0).jLog) + i)).isSome = true ∧
        (homeKey 0 ((devOf s 0).jBase - 64 + i)).isSome = true) ∧
    ((devOf lost 0).prepared = true ∧ ringLost lost 0 = true ∧ lost.stopped ≠ 3 ∧ ({ lost with stopped := 3 } : State).stopped = 3 ∧ ringLost { lost with stopped := 3 } 0 = true) ∧
    ((queueOf s 0 63).isSome = true ∧ ((21 : W32).toNat + 2 ^ 32 - 5) % 2 ^ 32 = 2 ^ 4 ∧ 2 ^ 4 < ((22 : W32).toNat + 2 ^ 32 - 5) % 2 ^ 32 ∧
      2 ^ 4 < ((4 : W32).toNat + 2 ^ 32 - 5) % 2 ^ 32) ∧
    ((0xFC : Nat) < 0x100 ∧ 0xFC % 4 = 0 ∧ 0x100 ≤ 0x100 ∧ (0xFE : Nat) % 4 ≠ 0 ∧ (0x100 : Nat) ≠ 0x200 ∧ (∀ o ∈ [0xFFC, 0x1004, 0x1200], 0x100 ≤ o ∧ ¬(0x1000 ≤ o ∧ o < 0x1200 ∧ o % 8 = 0)) ∧ (63 : Nat) < 64 ∧ (devOf s 0).mboxReq.length ≤ 256) := by
  decide +kernel

/-- A staged image while a queue accepts a command. -/
theorem witness_MailboxRequestsAreAnswered_accepting :
    let s := asks [] { queued63 0x100000 { subQueue 5 [] none false with got := [(false, 0x3000, [])] } with fwStaged := [1] }
    Serving s ∧ s.fwStaged ≠ [] ∧ accepting s = true := ⟨⟨rfl, rfl⟩, by decide⟩

/-- A WAIT whose counter stands at its value, below it, and at no address; a SIGNAL behind an open command, and alone, with an address that is not mapped. -/
theorem witness_CommandsAreTakenFromTheirQueues_waits :
    let waits := fun a b => queued63 0x100000 (subQueue 5 [⟨4, none⟩] (some (4, a, b)) false)
    let signals := fun a o => queued63 0x100000 (subQueue 5 o (some (4, a, 9)) true)
    let plain := subQueue 5 [⟨3, none⟩] none false
    let word : W64 := 0x4C594E5A
    (∀ a b, ∃ k, queueOf (waits a b) 0 63 = some k ∧ k.waiting = some (4, a, b) ∧ k.accepted = false) ∧
    ((match commandRead (waits 0x2000 (2 ^ 40 + word)) 0 63 0x2000 8 with | .ok _ bs => leNat bs == 2 ^ 40 + word.toNat | _ => false) = true ∧
      (match commandRead (waits 0x2000 (2 ^ 40 + word + 1)) 0 63 0x2000 8 with | .ok _ bs => leNat bs < (2 ^ 40 + word + 1 : W64).toNat | _ => false) = true ∧
      rejects (commandRead (waits 0x100000000000000 1) 0 63 0x100000000000000 8) = some (9, 2 ^ 56)) ∧
    (∀ a o, ∃ k, queueOf (signals a o) 0 63 = some k ∧ k.waiting = some (4, a, 9) ∧ k.accepted = true ∧ k.open_ = o) ∧
    (([⟨3, none⟩, ⟨4, none⟩] : List Outstanding).any (·.index != 4) = true ∧ ([⟨4, none⟩] : List Outstanding).any (·.index != 4) = false ∧
      goes (commandPage (signals 0x2000 [⟨4, none⟩]) 0 63 0x2000 .store 0x02) = true ∧
      rejects (commandPage (signals 0x100000000000000 [⟨4, none⟩]) 0 63 0x100000000000000 .store 0x02) = some (9, 2 ^ 56)) ∧
    (queueOf (queued63 0x100000 plain) 0 63 = some plain ∧ plain.accepted = false ∧ plain.waiting = none ∧ plain.open_ ≠ [] ∧
      plain.open_.any (·.index != plain.cons) = true) := by
  refine ⟨fun a b => ⟨_, rfl, rfl, rfl⟩, by decide +kernel, fun a o => ⟨_, rfl, rfl, rfl, rfl⟩, by decide +kernel, rfl, rfl, rfl, by decide, by decide⟩

/-- A launch whose teams have all retired. -/
theorem witness_CommandsAreTakenFromTheirQueues_complete :
    let s := { small with teams := [] }
    launchOf s 0 = some code ∧ code.dev = 0 ∧ code.gang = none ∧ code.complete = false ∧ code.armed = false ∧ code.next = code.record.grid ∧ code.back = [] ∧
      launchTeams s 0 = [] ∧ launchSaved s 0 = false := by decide +kernel

/-! ## Teams -/

/-- A launch of which one team is left, in a package whose core 0 is empty. -/
def waitingLaunch : Launch := { code with next := 0 }
def place : State := { small with reftime := 1, teams := [], launches := [(0, waitingLaunch)], devs := small.devs.set 0 { DevSt.reset with placing := some 0 } }
def first : Unplaced := { index := 0, saved := none, run := .original, avoid := [] }

/-- A core from which one share is left. -/
def nearlyFull : CoreUse :=
  { CoreUse.none with slots := List.range 47, fast := [264, 264, 264, 264], slow := [88, 88, 88, 88], scr := [(0, 752)], bars := 512, queues := 64, energy := 15, teams := 15 }

theorem witness_TeamsArePlacedSavedAndRetired_placing :
    stepDue small 0 = false ∧ stepDue { place with reftime := 0 } 0 = false ∧ stepDue place 0 = true ∧ (chooseCluster place waitingLaunch first).isSome = true ∧
      (fitShare CoreUse.none code.kernel 0).isSome = true ∧ (fitShare nearlyFull code.kernel 0).isSome = true ∧ first.saved = none ∧ code.kernel.roles[0]? = some 0 := by
  decide +kernel

/-- A team in some state, its context with a save region. -/
def teamAt (t : Team) (c : Crew) : State :=
  { small with teams := [(1, t)], crews := [(0, c)], contexts := [(0, { fetchContext with saveBase := 0x1000000, saveSize := 0x10000000 })] }

/-- A team that may be asked, one whose deadline has come, one that is ready to be saved and one that is not, and one that has ended. -/
theorem witness_TeamsArePlacedSavedAndRetired :
    let t := fetchTeam 1 0 0
    let due : Team := { t with reqReason := 2 }
    let saving : Team := { t with st := .saving, reqReason := 2 }
    let ended : Team := { t with st := .ended }
    let busy := { crew with storeQ := [portStore] }
    let gone := { crew with st := .ended }
    (∀ x ∈ [t, due, saving, ended], teamOf (teamAt x crew) 1 = some x ∧ x.uid = 1 ∧ launchOf (teamAt x crew) x.launch = some code ∧ code.uid = x.launch ∧
      (ctxOf (teamAt x crew) code.ctx).isSome = true) ∧
    (t.askable = true ∧ (imagePlace (teamAt t crew) code).isSome = true ∧ (2 : Fin 8).val ≤ 4 ∧ (4 : Fin 8).val ≤ 4) ∧
    (due.st = .resident ∧ due.reqReason ≠ 0 ∧ (∃ k ∈ teamCrews (teamAt due crew) 1, k.alive = true ∧ k.st ≠ .yielded ∧ k.reqLeft = 0) ∧
      (∀ k ∈ teamCrews (teamAt due { crew with reqLeft := 1 }) 1, k.alive = true → k.st ≠ .yielded → k.reqLeft ≠ 0) ∧ (teamAt due crew).crews = [(0, crew)] ∧ crew.uid = 0 ∧ crewOf (teamAt due crew) 0 = some crew ∧
      crew.team = 1) ∧
    ((imagePlace (teamAt saving crew) code).isSome = true ∧ saveReady (teamAt saving crew) saving = true ∧ saveReady (teamAt saving busy) saving = false) ∧
    (t.st ≠ .ended ∧ ended.st = .ended ∧ (teamCrews (teamAt ended gone) 1).all (commandsDone (teamAt ended gone)) = true ∧
      (match drainTeam (teamAt ended gone) ended with
        | some s1 => teamStored s1 1 && teamReplayed s1 1 && teamOf s1 1 == some ended && launchOf s1 0 == some code | none => false) = true ∧
      dirtyGranules ended = [] ∧ granulesRest ended = true ∧ selected code ended.index = false) := by
  decide +kernel

end Sys2Proof.Tests
end

