-- ==== Sys2Proof/Tests/WitnessDie.lean ====
section
/-! SUPPORT. Witnesses for the statements about gangs, routers, the package, fatal errors, words, steps and memory. -/

namespace Sys2Proof.Tests

set_option Elab.async false

open Sys2Proof Sys2Proof.Machine

/-! ## Gangs -/

/-- Gang 5 of three devices in one state, for launch 0; acknowledged by `a`, ready `r`. -/
def gangIn (st : GangSt) (first_ : Bool) (r a : List Nat) (tolerant : Bool) : Gang :=
  { id := 5, launch := 0, initiator := first_, from_ := 0, st := st, members := [0, 1, 2], ready := r, acked := a, tolerant := tolerant, gtmo := 10000, since := 0 }

/-- Function 0 takes part in it, its launch armed or not. -/
def ganged (x : Gang) (armed : Bool) (now : Nat) : State :=
  { ticking { domain 0 with gangs := [(5, x)] } now (.gang 0 5 1) with launches := [(0, { code with armed := armed })] }

/-- Memory with a bitmap of devices at 0x10000 and the list [0, 1] at 0x11000. -/
def lists01 (s : State) : State := physWrite (physWrite s none 0 0x10000 [3]) none 0 0x11002 [1]

/-- FABRIC_CONFIG at the lower limits, with a bitmap past the end of memory, a generation of 0, and an operation outstanding; GANG_ARM of an unknown queue, an
id in use, a record that fails and one that is accepted; GANG_START of two members. -/
theorem witness_GangsStartTogether_requests :
    let cfg := fun at_ g => asks [0, at_, 0x20000, g, 0, 100000, 10000] (lists01 small)
    let busy := linked { FabricSt.reset with out := [remote] } (cfg 0x10000 1)
    let arm := fun q a => asks [5, a, q] (queued63 0x100000 (subQueue 5 [] none false))
    let held := asks [5, 0x2800, 63] { queued63 0x100000 (subQueue 5 [] none false) with fabrics := small.fabrics.set 0 { paired with gangs := [(5, gangIn .armed false [] [] false)] } }
    let start := asks [5, 0x11000, 2, 1, 10000] (lists01 (ganged (gangIn .armed false [] [] false) true 0))
    (∀ s ∈ [cfg 0x10000 1, cfg 0xC000000000 1, cfg 0x10000 0, busy, arm 62 0x2800, arm 63 0xC000000000, arm 63 0x3000, arm 63 0x2800, held, start], Serving s) ∧
    (fabricStructs (cfg 0xC000000000 1).request = none ∧ fabricStructs (cfg 0x10000 1).request = some [(0x10000, 128), (0x20000, 64)] ∧
      fabricOpsOk (fabricOf (cfg 0x10000 0) 0) 0 (fabricOps (cfg 0x10000 0) (cfg 0x10000 0).request) = false ∧
      fabricOpsOk (fabricOf (cfg 0x10000 1) 0) 0 (fabricOps (cfg 0x10000 1) (cfg 0x10000 1).request) = true ∧
      fabricBusy (fabricOf (cfg 0x10000 1) 0) = false ∧ fabricBusy (fabricOf busy 0) = true) ∧
    (queueOf (arm 62 0) 0 62 = none ∧ (queueOf held 0 63).isSome = true ∧ gangBusy held 0 5 = true ∧ gangBusy (arm 63 0) 0 5 = false ∧
      inMap 0 0xC000000000 128 = false ∧ inMap 0 0x2800 128 = true ∧ inMap 0 0x3000 128 = true ∧
      rejects (armChecks (arm 63 0x3000) 0 63 ((arm 63 0x3000).request.op 1)) = some (1, 0x3000) ∧
      (match armChecks (arm 63 0x2800) 0 63 ((arm 63 0x2800).request.op 1) with | .ok t x => goes (copySections t 0 63 x.obj x.record) | _ => false) = true) ∧
    (gangOf start 0 5 = some (gangIn .armed false [] [] false) ∧ inMap 0 0x11000 4 = true ∧ opNat start.request 4 = 10 ^ 4 ∧
      ((gangList start 0 0x11000 2).filter (· != (fabricOf start 0).devid)) = [1]) := by
  refine ⟨fun s hs => ?_, by decide +kernel, by decide +kernel, by decide +kernel⟩
  simp only [List.mem_cons, List.not_mem_nil, or_false] at hs
  rcases hs with rfl | rfl | rfl | rfl | rfl | rfl | rfl | rfl | rfl | rfl <;> exact ⟨rfl, rfl⟩

/-- Every state of a gang at a member and at its initiator, with one answer missing and with all; a time-out that is due and one that is early; a launch with
its one crew. -/
theorem witness_GangsStartTogether :
    let x := gangIn
    (∀ y a n, gangOf (ganged y a n) 0 5 = some y ∧ (ganged y a n).message = .gang 0 5 1) ∧
    (∀ st i r a t n m, launchOf (ganged (x st i r a t) n m) (x st i r a t).launch = some { code with armed := n }) ∧
    ((x .preparing true [] [] false).members.filter (· != (fabricOf (ganged (x .preparing true [] [] false) true 0) 0).devid) = [1, 2]) ∧
    ((∃ d ∈ [1, 2], d ∉ 1 :: (x .preparing true [] [] false).ready.filter (· != 1)) ∧ (∀ d ∈ [1, 2], d ∈ 1 :: (x .preparing true [2] [] false).ready.filter (· != 1)) ∧
      (∃ d ∈ [1, 2], d ∉ 1 :: (x .starting true [] [] false).acked.filter (· != 1)) ∧ ∀ d ∈ [1, 2], d ∈ 1 :: (x .starting true [] [2] false).acked.filter (· != 1)) ∧
    ((9999 : Nat) < (x .starting true [] [] false).since + (x .starting true [] [] false).gtmo ∧
      (x .starting true [] [] false).since + (x .starting true [] [] false).gtmo ≤ (10000 : Nat) ∧ (∃ d ∈ [1, 2], d ∉ (x .starting true [] [1] true).acked)) ∧
    (launchOf (scalarAt crew) 0 = some code ∧ (∀ e ∈ (scalarAt crew).crews, e.2.uid = crew.uid ↔ e = (crew.uid, crew)) ∧ crewOf (scalarAt crew) crew.uid = some crew ∧
      teamOf (scalarAt crew) crew.team = some (fetchTeam 1 0 0) ∧ (fetchTeam 1 0 0).uid = crew.team ∧ (fetchTeam 1 0 0).launch = 0) := by
  refine ⟨fun y a n => by simp [ganged, ticking, linked, gangOf, fabricOf, vget, kget], fun st i r a t n m => rfl, by decide, by decide, by decide, rfl, ?_, rfl, rfl, rfl, rfl⟩
  simp [scalarAt]
  exact rfl

/-! ## Routers -/

/-- Die 0 with some of its positions, at tick `now` with a message, in a package without teams. -/
def routed (ps : KMap PhysCore) (table : BitVec 42) (now : Nat) (m : Message) : State :=
  { quiet with dies := quiet.dies.set 0 { DieSt.reset with phys := ps, table := table }, reftime := now, message := m }

/-- Position 1 judges its neighbour `nb` so. -/
def judging (nb : Nat) (n : Neighbour) : KMap PhysCore := [(1, { PhysCore.reset false with nbs := [(nb, n)] })]

/-- What is kept of a neighbour that accuses, with `v` as the other accusers. -/
def accusing (v : KMap Nat) : Neighbour := { Neighbour.reset with st := .accusing, votes := v, valid := 1, good := 3 }

/-- The last position's beat at its tick; valid beats, one of an old SEQ, a wrong DIGEST and a third one; the ends of silence and of babbling; four good windows; two
accusers of four live neighbours, and three; a vote that is 1,023 and 1,024 ticks old; verdicts. -/
theorem witness_RoutersJudgeTheirNeighbours :
    let r := Neighbour.reset
    let bits := beatBits (routed [] 0 0 .silent) 0 7
    let s := fun n now m => routed (judging 7 n) 0 now m
    (dieRuns (routed [] 0 420 .silent) 0 = true ∧ (420 : Nat) % 256 = 4 * 41 ∧ (physOf (routed [] 0 420 .silent) 0 41).beatAt = none ∧ (421 : Nat) % 256 ≠ 4 * 41) ∧
    (∀ n now m, nbOf (s n now m) 0 1 7 = n ∧ (s n now m).message = m) ∧
    (adjacent 1 7 = true ∧ beatGood (dieOf (s r 0 .silent) 0) 7 bits = true ∧ r.seq ≠ some (bitsOf bits 15 0) ∧ beatMismatch (dieOf (s r 0 .silent) 0) bits = false ∧
      beatMismatch (dieOf (s r 0 .silent) 0) (bits ^^^ 1) = true ∧ ({ r with seq := some 0 } : Neighbour).seq = some (bitsOf bits 15 0) ∧ r.st = .trusted) ∧
    (windowBase (s r 255 .silent) 0 r = 0 ∧ windowBase (s r 0 .silent) 0 { r with judged := some 256 } = 256 ∧ (0 : Nat) < 256 ∧
      (255 : Nat) < 0 + 256 ∧ 0 + 256 ≤ (256 : Nat) ∧ 4 ≤ ({ r with miss := 3 } : Neighbour).miss + 1 ∧
      ¬(4 ≤ ({ r with miss := 2 } : Neighbour).miss + 1) ∧ (dieOf (s r 256 .silent) 0).injb < 2049 ∧ ¬((dieOf (s r 256 .silent) 0).injb < 2048) ∧
      (accusing []).valid = 1 ∧ 3 ≤ (accusing []).good ∧ ({ accusing [] with good := 2 } : Neighbour).good < 3) ∧
    ((accusers (s (accusing [(6, 0)]) 0 .silent) 0 1 7).length = 2 ∧ (accusers (s (accusing [(6, 0), (13, 0)]) 0 .silent) 0 1 7).length = 3 ∧
      (liveNeighbours (s r 0 .silent) 0 7).length = 4) ∧
    (voteFits (s r 0 (.vote 0 1 6 7)) 0 1 6 7 = true ∧ kget (accusing [(6, 0)]).votes 6 = some 0 ∧ 0 + 1024 ≤ (1024 : Nat) ∧ (1023 : Nat) < 0 + 1024) ∧
    (marked (s { r with st := .fenced } 0 (.verdict 0 1 7)) 0 7 = false ∧
      (physOf (routed (judging 7 { r with st := .fenced } ++ [(7, { PhysCore.reset false with retired := true })]) 0 0 (.verdict 0 1 7)) 0 7).retired = true) := by
  refine ⟨by decide +kernel, fun n now m => by simp [routed, judging, nbOf, physOf, dieOf, kgetD, kget, vget], by decide +kernel, by decide +kernel, by decide +kernel,
    by decide +kernel, by decide +kernel⟩

/-- Core 0 with a team and a crew, fenced by its neighbour; self-tests of a core that is marked, with a second fence ten minutes after the first and one tick
earlier; of a reserve; a time-out that is due and not. -/
theorem witness_RoutersJudgeTheirNeighbours_tests :
    let fence := { scalarAt crew with dies := small.dies.set 0 { DieSt.reset with phys := judging 0 { Neighbour.reset with st := .fenced, report := true } } }
    let tested : PhysCore := { PhysCore.reset false with bistAt := some 0, prevFence := some 0, lastFence := some 60000000000 }
    let soon := { tested with lastFence := some 59999999999 }
    let reserve : PhysCore := { PhysCore.reset true with bistAt := some 0, reserveFor := some 0 }
    let s := fun p => routed [(0, p)] 1 0 .silent
    let spare := routed [(41, reserve)] 1 0 .silent
    (marked fence 0 0 = false ∧ (reporter fence 0 0).isSome = true ∧ logicalAt fence 0 0 = some 0 ∧ (kget fence.cores (coreKey 0 0)).isSome = true ∧
      teamOf fence 1 = some (fetchTeam 1 0 0) ∧ (fetchTeam 1 0 0).uid = 1 ∧ (fetchTeam 1 0 0).die = 0 ∧ (fetchTeam 1 0 0).cores.contains 0 = true ∧
      crewOf fence 0 = some crew ∧ crew.team = 1 ∧ crew.core = 0 ∧ (coreAt fence 0 0).fenced = false) ∧
    ((PhysCore.reset false).bistAt = none ∧ (∀ p, physOf (s p) 0 0 = p) ∧ marked (s tested) 0 0 = true ∧ tested.reserveFor = none ∧ tested.again = false ∧
      soon.again = true ∧ logicalAt (s tested) 0 0 = some 0 ∧ coreEmpty (s tested) 0 0 = true ∧ (kget (s tested).cores (coreKey 0 0)).isSome = true) ∧
    (physOf spare 0 41 = reserve ∧ marked spare 0 41 = false ∧ (kget spare.cores (coreKey 0 0)).isSome = true) ∧
    ((999999 : Nat) < 0 + 1000000 ∧ 0 + 1000000 ≤ (1000000 : Nat)) := by
  refine ⟨by decide +kernel, ⟨rfl, fun p => by simp [routed, physOf, dieOf, kgetD, kget, vget], by decide +kernel⟩, by decide +kernel, by decide⟩

/-! ## The package -/

/-- Crew 0 of die 0 waits for a load and has a store at the port, both at an address that die 1 homes, since tick 0; the mode is `m`. -/
def acrossSound (m : Nat) (now : Nat) : State :=
  let p := { scalarPending crew 1 3 0x1000 0x1000 4 .global .zero none 0 0 false with scalar := false, sent := some 0 }
  { scalarAt { crew with loads := [p], storeQ := [{ portStore with sent := some 0 }] } with mode := m, reftime := now }

/-- The package with its second tier's last port failed; with a host port of the CXL mode and a window of 64 KiB at 1 GiB. -/
def portFailed : State := { small with cxlFailed := 8 }
def windowed : State := { small with hostCxl := some (true, 16), cxlWindow := some (2 ^ 30, 2 ^ 16) }

/-- The last byte of memory, and one past it; the last port of the second tier; accesses over the Sound that are XTMO ticks old and one tick less, in each mode; dies
that are off, in reset and running; a slot that is staged. -/
theorem witness_ThePackageServesItsDies :
    let off := { small with dies := small.dies.set 1 { DieSt.reset with powered := false } }
    let down := { small with dies := small.dies.set 1 { DieSt.reset with inReset := true } }
    let x := small.xtmo
    let sampled := fun ws now => { small with samples := ws, sampleAt := 1000, cap := 3400, reftime := now }
    (small.fwUp = true ∧ ({ small with fwUp := false } : State).fwUp = false ∧ inDevice (hostDev small) 0x3FFFFFFFFF8 8 = true) ∧
    (inDevice (hostDev small) (0x3FFFFFFFFFF : W64).toNat 1 = true ∧ inDevice (hostDev small) (0x40000000000 : W64).toNat 1 = false) ∧
    ((homeKey 0 0x3FFFFFFFFFF).map keyPort = some (some 3)) ∧
    (∀ m ∈ [1, 2], then_ (timeout (acrossSound m x) .load 0 0) (·.stalled) = some false) ∧
    ((1999 : Nat) < (sampled [] 1999).sampleAt + 1000 ∧ (sampled [] 2000).sampleAt + 1000 ≤ (sampled [] 2000).reftime ∧
      (sampled [] 2000).cap * 1 < 3401 ∧ 3399 < (sampled [] 2000).cap * 1) ∧
    (∀ m ∈ [1, 2], ∀ now, (acrossSound m now).stalled = false ∧ (acrossSound m now).mode = m ∧ (acrossSound m now).stopped ≠ 3 ∧ crewOf (acrossSound m now) 0 ≠ none) ∧
    (x ≤ (acrossSound 1 x).reftime - 0 ∧ (acrossSound 1 (x - 1)).reftime - 0 < x ∧ ∀ m ∈ [1, 2], (crewOf (acrossSound m x) 0).any (fun c =>
      (match c.loads[0]? with | some p => p.sent == some 0 && p.lanes.filter (crosses (acrossSound m x) c) != [] | none => false) &&
      (match c.storeQ[0]? with | some e => e.sent == some 0 && e.lanes.filter (crosses (acrossSound m x) c) != [] | none => false)) = true) ∧
    ((homeKey 0 0x3FFFFFFFFFF).map (responder portFailed 0) = some true ∧ (homeKey 0 0x3FFFFFFFFFF).map (responder small 0) = some false ∧ small.late = none ∧
      (0x3FFFFFFFFF8 : Nat) % 4096 + 8 ≤ 4096) ∧
    (memWindow windowed (2 ^ 30 + 2 ^ 16 - 8) 8 = true ∧ memWindow windowed (2 ^ 30 + 2 ^ 16 - 7) 8 = false ∧ memWindow small (2 ^ 30) 8 = false ∧
      inDevice (hostDev windowed) (2 ^ 30) 8 = true) ∧
    ((dieOf off 1).powered = false ∧ (dieOf small 1).powered = true ∧ (dieOf down 1).inReset = true ∧ (dieOf small 1).inReset = false) ∧
    (({ small with fwStaged := [1] } : State).fwStaged ≠ [] ∧ LinkName.ualink 23 ≠ .hostPort ∧ ∀ k, LinkName.ualink 23 ≠ .cxl k) := by
  refine ⟨by decide +kernel, by decide, by decide, by decide +kernel, by decide, fun m _ now => ⟨rfl, rfl, by simp only [acrossSound, scalarAt, small]; decide, by simp [acrossSound, scalarAt, crewOf, kget]⟩, by decide +kernel, by decide +kernel, by decide +kernel, by decide, by decide, by decide,
    fun k => by simp⟩

/-- No error and one; an agenda without a turn that a fatal error lets through. -/
theorem witness_FatalErrorsStopTheDevice :
    let s := { scalarAt crew with agenda := [⟨1, 1, [], .scalar 0⟩] }
    let stopped := { s with fatal := some 3, stopped := 3 }
    s.stopped ≠ 3 ∧ stopped.stopped = 3 ∧ stopped.fatal.isSome = true ∧ ({ stopped with stopped := 1 } : State).stopped.getLsbD crew.die = true ∧ (∀ a ∈ stopped.agenda, afterFatal a.who = false) ∧ crewOf stopped 0 = some crew := by
  refine ⟨by decide, rfl, rfl, by decide, by decide, rfl⟩

/-! ## Words and steps -/

/-- A scalar word and a lane word, and words that decode. -/
theorem witness_EncodedWordsDecodeBack :
    let j := Instr.vld ⟨12, false, 0, .snap 3, .vreg 0, .vreg 7, 0, false, .f32, 4, 0x40⟩
    ((Instr.addi 5 3 0x1FFF).wellFormed = true ∧ (encode (.addi 5 3 0x1FFF)).any (fun e => e.1 == 32) = true) ∧
    (j.wellFormed = true ∧ (encode j).any (fun e => e.1 == 96 && decodeTableWord 96 e.2 == some j) = true) ∧
    decodeTableWord 32 0x04287FF4 = some (.addi 5 3 0x1FF4) := by decide +kernel

/-- Agent `a` has the next turn; the crew is `c`, its launch `l`, and comparator 15 of its core holds `b`. -/
def turnOf (a : Agent) (c : Crew) (l : Launch) (b : W64) : State :=
  { scalarAt c with
    agenda := [⟨0, 0, [], a⟩], launches := [(0, l)], cur := none, cores := [(0, { CoreSt.reset 0 with bpc := (CoreSt.reset 0).bpc.set 15 b })] }

/-- The state in which the turn's agent does its work. -/
def begunAt (s : State) (tn : Turn) (rest : List Turn) : State :=
  dueSteps (schedule { s with stalled := false, cur := none, request := noRequest, message := .silent, agenda := rest } tn).1 (stepOf tn.who)

theorem begins_begunAt {s : State} {tn : Turn} {rest : List Turn} (h : s.agenda = tn :: rest)
    (k : (schedule { s with stalled := false, cur := none, request := noRequest, message := .silent, agenda := rest } tn).2 = some tn.who) :
    Begins s tn rest (begunAt s tn rest) := ⟨_, h, by rw [← k], rfl⟩

/-- Code of the words `w` and `v`, built by the translator or not. -/
def wordy (w : W32) (v : BitVec 96) (translated : Bool) : Launch := { code with scode := [w], lcode := [v], translated := translated }

/-- The comparator that matches scalar word 0 of the launch. -/
def atWord0 : W64 := 0x800000

/-- A crew's scalar stream has the next turn of the code `w`, translated or not, with the comparator `b`; the state in which it acts. -/
def scalarTurn (c : Crew) (w : W32) (t : Bool) (b : W64) : State := turnOf (.scalar 0) c (wordy w 0 t) b
def scalarStart (c : Crew) (w : W32) (t : Bool) (b : W64) : State := begunAt (scalarTurn c w t b) ⟨0, 0, [], .scalar 0⟩ []
def firstWord (lane : Bool) : Cur := { crew := 0, lane := lane, slot := 0, word := 0, idx := 0 }

/-- The turn begins, and the crew goes on as `c`. -/
def starts (c : Crew) (w : W32) (t : Bool) (b : W64) : Prop :=
  Begins (scalarTurn c w t b) ⟨0, 0, [], .scalar 0⟩ [] (scalarStart c w t b) ∧ (scalarStart c w t b).fatal = none ∧ crewOf (scalarStart c w t b) 0 = some c ∧
    crewLaunch (scalarStart c w t b) c = some (wordy w 0 t) ∧ c.runs (scalarStart c w t b) = true ∧ c.trapping = none ∧ c.stopping (scalarStart c w t b) = false

/-- The fetch of word 0 from memory. -/
def fetching : State := { scalarStart crew 0 false 0 with cur := some (firstWord false) }
def fetched : State × LaneCheck := checkHeld fetching crew ((wordy 0 0 false).sBase + w64 (4 * crew.spc)) 4 .fetch false
def fetchedLine : State × Bool := readCode fetched.1 (wordy 0 0 false) (crewDev fetched.1 crew) crew.die 1 [(4 * crew.spc, some 0x10000)]

theorem fetched_scalar : scalarFetched fetching crew (wordy 0 0 false) fetchedLine.1 ∧ breakpoint fetchedLine.1 crew (wordy 0 0 false) false crew.spc = none := by
  have h : fetched.2 = .ok 0x10000 := by decide +kernel
  have g : fetchedLine.2 = false := by decide +kernel
  have e : fetched = (fetched.1, .ok 0x10000) := by rw [← h]
  have k : fetchedLine = (fetchedLine.1, false) := by rw [← g]
  exact ⟨.inr ⟨fetched.1, 0x10000, rfl, e, k⟩, by decide +kernel⟩

/-- The first word of a stream that decodes and that does not, fetched from memory and as built by the translator; a breakpoint that matches, and one that the crew has
passed; an index past the last word. -/
theorem witness_StepRunsTheDecodedWord :
    let past := { crew with spc := 1 }
    let passed := { crew with bpPass := some 0 }
    (starts crew 0x04287FF4 true 0 ∧ starts crew 0 true 0 ∧ starts crew 0 false 0 ∧ starts crew 0 true atWord0 ∧ starts passed 0 true atWord0 ∧ starts past 0 true 0) ∧
    (scalarWord (scalarStart crew 0x04287FF4 true 0) (wordy 0x04287FF4 0 true) crew.spc = some 0x04287FF4 ∧ decodeScalar 0x04287FF4 = .ok (.addi 5 3 0x1FF4) ∧
      scalarWord (scalarStart crew 0 true 0) (wordy 0 0 true) crew.spc = some 0 ∧ (match decodeScalar 0 with | .bad _ => true | _ => false) = true) ∧
    ((∀ s w, s.codeErr = [] → scalarFetched s crew (wordy w 0 true) s) ∧ (scalarStart crew 0 true 0).codeErr = [] ∧ ∃ s2, scalarFetched fetching crew (wordy 0 0 false) s2 ∧
      breakpoint s2 crew (wordy 0 0 false) false crew.spc = none) ∧
    (breakpoint (scalarStart crew 0 true atWord0) crew (wordy 0 0 true) false 0 = some 15 ∧ crew.bpPass ≠ some 0 ∧ passed.bpPass = some passed.spc) ∧
    scalarWord (scalarStart past 0 true 0) (wordy 0 0 true) past.spc = none := by
  refine ⟨⟨?_, ?_, ?_, ?_, ?_, ?_⟩, by decide +kernel, ⟨fun s w h => .inl ⟨rfl, by simp [readCode, readCodeLine, h]⟩, by decide +kernel, _, fetched_scalar⟩, by decide +kernel, by decide +kernel⟩ <;>
    exact ⟨begins_begunAt rfl (by decide +kernel), by decide +kernel, by decide +kernel, by decide +kernel, by decide +kernel, by decide +kernel, by decide +kernel⟩

/-- The same of a lane word `v` of the fragment in slot 0, beside a scalar word that traps nowhere. -/
def laneCode (v : BitVec 96) : Launch := wordy 0x04287FF4 v true
def laneTurn (v : BitVec 96) : State := turnOf (.lane 0 0) blockCrew (laneCode v) 0
def laneStart (v : BitVec 96) : State := begunAt (laneTurn v) ⟨0, 0, [], .lane 0 0⟩ []
def startsLane (v : BitVec 96) : Prop :=
  Begins (laneTurn v) ⟨0, 0, [], .lane 0 0⟩ [] (laneStart v) ∧ (laneStart v).fatal = none ∧ crewOf (laneStart v) 0 = some blockCrew ∧
    crewLaunch (laneStart v) blockCrew = some (laneCode v) ∧ blockCrew.runs (laneStart v) = true ∧ blockCrew.stopping (laneStart v) = false ∧
    laneWordAt (laneCode v) (fragOf blockCrew).lpc = some v.toNat ∧ breakpoint (laneStart v) blockCrew (laneCode v) true (fragOf blockCrew).lpc = none

/-- A lane word that decodes and one that does not; a submission queue whose next command is answered; a request, an event and a message. -/
theorem witness_StepRunsTheDecodedWord_agents :
    let w : BitVec 96 := 0x00000040021000E008380C60
    let fr := fragOf blockCrew
    let turn := fun (a : Agent) => (⟨0, 0, [], a⟩ : Turn)
    let goesOn := fun (a : Agent) (s : State) => { s with agenda := [turn a] }
    let cmd := goesOn (.command 0) (queued63 0x100000 (subQueue 15 [] none false))
    let mbox := goesOn (.mailbox 0) (asks [1500] small)
    let event := goesOn (.event (.powerSample 1)) small
    let message := goesOn (.deliver (.gang 0 5 1) .gangReady) small
    let acts := fun s a => begunAt s (turn a) []
    (startsLane w ∧ startsLane 0x00800000) ∧ (∀ s v, s.codeErr = [] → laneFetched s blockCrew (laneCode v) fr s) ∧ (laneStart w).codeErr = [] ∧
    (blockCrew.laneQ ≠ [] ∧ blockCrew.div.frag 0 = some fr ∧ fr.st = .ready ∧ blockCrew.trapping = none ∧ fr.skipAt ≠ some fr.lpc) ∧
    ((match decodeLane w.toNat with | .ok (.vld _) => true | _ => false) = true ∧ (match decodeLane 0x00800000 with | .bad _ => true | _ => false) = true) ∧
    (Begins cmd (turn (.command 0)) [] (acts cmd (.command 0)) ∧ Begins mbox (turn (.mailbox 0)) [] (acts mbox (.mailbox 0)) ∧
      Begins event (turn (.event (.powerSample 1))) [] (acts event (.event (.powerSample 1))) ∧
      Begins message (turn (.deliver (.gang 0 5 1) .gangReady)) [] (acts message (.deliver (.gang 0 5 1) .gangReady))) ∧
    ((acts cmd (.command 0)).fatal = none ∧ (acts mbox (.mailbox 0)).fatal = none ∧ (acts event (.event (.powerSample 1))).fatal = none ∧
      (acts message (.deliver (.gang 0 5 1) .gangReady)).fatal = none) ∧
    ((match queueOrder (devOf (acts cmd (.command 0)) 0) with
      | (63, q) :: _ => q.waiting.isNone &&
          (match exec (decodeCommand 0 63 (mpRead (acts cmd (.command 0)) 0 (q.base + 64 * (q.cons % 2 ^ q.log2n)) 64)) (acts cmd (.command 0)) with
            | .next t => !t.stalled | _ => false)
      | _ => false) = true) ∧
    (devOf (acts mbox (.mailbox 0)) 0).go = true := by
  refine ⟨⟨?_, ?_⟩, fun s v h => .inl ⟨rfl, by simp [readCode, readCodeLine, h]⟩, by decide +kernel, ⟨by decide, by decide, by decide, by decide, by decide⟩, by decide +kernel,
    ⟨begins_begunAt rfl (by decide +kernel), begins_begunAt rfl (by decide +kernel), begins_begunAt rfl (by decide +kernel), begins_begunAt rfl (by decide +kernel)⟩,
    by decide +kernel, by decide +kernel, by decide +kernel⟩ <;>
    exact ⟨begins_begunAt rfl (by decide +kernel), by decide +kernel, by decide +kernel, by decide +kernel, by decide +kernel, by decide +kernel, by decide +kernel,
      by decide +kernel⟩

/-! ## Memory -/

/-- Memories in canonical form; a write of two bytes at the end of memory, and of one past it; a replaying team. -/
theorem witness_MemoryReadsBack :
    let m : List Host.Cell := [(5, 1), (9, 2)]
    let replay : State := { small with teams := [(1, { fetchTeam 1 0 0 with run := .replay })] }
    (Memory.wf m = true ∧ Memory.wf ([] : List Host.Cell) = true) ∧
    ((∀ i, i < 2 → (homeKey 0 (0x3FFFFFFFFFE + i)).isSome = true) ∧ homeKey 0 0x40000000000 = none) ∧
    (∃ t, kget replay.teams 1 = some t ∧ t.uid = 1 ∧ t.run ≠ .original) := by
  refine ⟨by decide, by decide, _, rfl, rfl, by decide⟩

/-- The package with one team has its memory in canonical form. -/
theorem witness_MemoryStaysCanonical : small.memoryOk = true ∧ then_ (step small) (·.mem) = some [] := by decide +kernel

end Sys2Proof.Tests
end

section
/-!
PROOFS. The words and their decoding: what the spec's own words decode to, the checks before a lane word acts, what its sources supply, what a turn
runs, and trap entry.
-/

namespace Sys2Proof.Machine

/-! ## The words of the spec (R19 to R29) -/

/-- Settles O55: the decoder is run on the words themselves. -/
theorem decodesTheSpecsWords : Obligations.DecodesTheSpecsWords := by
  unfold Obligations.DecodesTheSpecsWords
  decide

/-! ## The checks before a lane word acts (R29, R30, R95, R96, R119, R145, R244) -/

section
variable {s : State} {x : LaneCx} {i : Instr} {m : Crew → Frag → W64} (f : State → LaneCx → Result)

theorem laneWord_badReg (h : RunsLane s x) (bad : (x.of i m).badReg = true) :
    laneWord s i m f = (x.of i m).raise s 0x02 0 0 allLanes 0 := by
  rw [laneWord, onLane_of h]
  exact if_pos bad

theorem laneWord_privDetail (h : RunsLane s x) {d : Nat} (bad : (x.of i m).badReg = false) (priv : privDetail x.c i = some d) :
    laneWord s i m f = (x.of i m).raise s 0x04 d 0 allLanes 0 := by
  rw [laneWord, onLane_of h]
  simp only [LaneCx.of] at bad ⊢
  simp [bad, priv]

theorem laneWord_emptySet (h : RunsLane s x) (bad : (x.of i m).badReg = false) (priv : privDetail x.c i = none) (empty : (x.of i m).lset = 0) :
    laneWord s i m f = (x.of i m).finish s x.c := by
  rw [laneWord, onLane_of h]
  simp only [LaneCx.of] at bad empty ⊢
  simp only [bad, priv, beq_iff_eq.mpr empty]
  rfl

theorem laneWord_latchError (h : RunsLane s x) {d b : Nat} (bad : (x.of i m).badReg = false) (priv : privDetail x.c i = none)
    (lanes : (x.of i m).lset ≠ 0) (latch : (x.of i m).latchError = some (d, b)) :
    laneWord s i m f = (x.of i m).raise s 0x09 d b allLanes 0 := by
  rw [laneWord, onLane_of h]
  simp only [LaneCx.of] at bad lanes latch ⊢
  simp only [bad, priv, latch, beq_eq_false_iff_ne.mpr lanes]
  rfl

theorem laneWord_busy (h : RunsLane s x) (bad : (x.of i m).badReg = false) (priv : privDetail x.c i = none)
    (lanes : (x.of i m).lset ≠ 0) (latch : (x.of i m).latchError = none) (busy : (x.of i m).busy = true) :
    laneWord s i m f = stall s := by
  rw [laneWord, onLane_of h]
  simp only [LaneCx.of] at bad lanes latch busy ⊢
  simp only [bad, priv, latch, busy, beq_eq_false_iff_ne.mpr lanes]
  rfl

end

/-- Settles O14: the five lemmas above, one to a check, in the order in which the checks stand. -/
theorem laneWordsAreGated : Obligations.LaneWordsAreGated := by
  intro s i m f x h
  exact ⟨laneWord_badReg f h, fun _ => laneWord_privDetail f h, laneWord_emptySet f h, fun _ _ => laneWord_latchError f h, laneWord_busy f h⟩

/-! ## What sources supply (R22, R24, R146, R204, R205) -/

/-- A scaled index is a shifted one (R204, R205). -/
theorem ofInt_toInt_mul_two_pow {n : Nat} (x : BitVec n) (k : Nat) : BitVec.ofInt n (x.toInt * 2 ^ k) = x <<< k := by
  have scale : (2 : Int) ^ k = ((2 ^ k : Nat) : Int) := by simp
  rw [BitVec.ofInt_mul, BitVec.ofInt_toInt, scale, BitVec.ofInt_natCast]
  apply BitVec.eq_of_toNat_eq
  simp only [BitVec.toNat_mul, BitVec.toNat_ofNat, BitVec.toNat_shiftLeft, Nat.shiftLeft_eq, Nat.mul_mod_mod]

theorem src64_vreg_toNat (x : LaneCx) (w : LaneWord) (n : Fin 256) (k : Nat) :
    (x.src64 w (.vreg n) k).toNat = (laneGet (x.c.rv n.val) k).toNat + 2 ^ 32 * (laneGet (x.c.rv (n.val + 1)) k).toNat := by
  simp only [LaneCx.src64, BitVec.toNat_append]
  rw [← Nat.shiftLeft_add_eq_or_of_lt (BitVec.isLt _), Nat.shiftLeft_eq]
  omega

theorem globalVa_eq_ofInt (x : LaneCx) (w : LaneWord) (sc k : Nat) :
    x.globalVa w sc k = BitVec.ofInt 64 ((x.base w k).toInt + (x.src w w.c k).toInt * 2 ^ sc + w.imm.toInt) := by
  have index : BitVec.ofInt 64 ((x.src w w.c k).toInt * 2 ^ sc) = sext32 (x.src w w.c k) <<< sc := by
    rw [← ofInt_toInt_mul_two_pow, sext32, BitVec.toInt_signExtend_of_le (by omega)]
  rw [BitVec.ofInt_add, BitVec.ofInt_add, BitVec.ofInt_toInt, index]
  rfl

theorem scratchVa_eq_ofInt (x : LaneCx) (w : LaneWord) (k : Nat) :
    x.scratchVa w k = BitVec.ofInt 32 ((x.src w w.a k).toInt + (x.src w w.c k).toInt * 2 ^ scaleOf w + w.imm.toInt) := by
  rw [BitVec.ofInt_add, BitVec.ofInt_add, ofInt_toInt_mul_two_pow, BitVec.ofInt_toInt, BitVec.ofInt_toInt]
  rfl

section
variable (x : LaneCx) (w : LaneWord) (k : Nat)

theorem base_wide (wide : w.wa = true) : x.base w k = x.src64 w w.a k := if_pos wide

theorem base_zero (narrow : w.wa = false) (a : w.a = .zero) : x.base w k = 0 := by
  simp [LaneCx.base, narrow, a]

theorem base_snap {r : Fin 15} (narrow : w.wa = false) (a : w.a = .snap r) : x.base w k = x.blk.snap[r] := by
  simp [LaneCx.base, LaneCx.src64, narrow, a]

end

/-- Settles O16: the codes by their definitions, the addresses as sums of signed numbers. -/
theorem sourcesSupplyTheirValues : Obligations.SourcesSupplyTheirValues := by
  intro x w k n b r sc
  exact ⟨rfl, rfl, rfl, rfl, rfl, rfl, rfl, src64_vreg_toNat x w n k, globalVa_eq_ofInt x w sc k, base_wide x w k, base_zero x w k, base_snap x w k,
    scratchVa_eq_ofInt x w k⟩

/-! ## From a turn to its agent (R104, R105, R347) -/

/-- A turn that begins is its agent's own step, and ends. -/
theorem step_of_begins {s s1 : State} {tn : Turn} {rest : List Turn} (h : Begins s tn rest s1) :
    step s = ended s tn.who (runAgent s1 tn.who) := by
  obtain ⟨s0, agenda, chosen, rfl⟩ := h
  simp only [step, turn, agenda, takeTurn, chosen, take, ended]
  rfl

/-- Nothing is stopped where no fatal error has arisen (R377). -/
theorem stoppedBy_of_running {s : State} (h : s.fatal = none) (a : Agent) : stoppedBy s a = false := by simp [stoppedBy, h]

theorem runAgent_scalar {s : State} (h : s.fatal = none) (u : Nat) : runAgent s (.scalar u) = runScalar s u := by
  simp [runAgent, stoppedBy_of_running h]
theorem runAgent_lane {s : State} (h : s.fatal = none) (u n : Nat) : runAgent s (.lane u n) = runLane s u n := by
  simp [runAgent, stoppedBy_of_running h]
theorem runAgent_command {s : State} (h : s.fatal = none) (d : Fin 3) : runAgent s (.command d) = runCommand s d := by
  simp [runAgent, stoppedBy_of_running h]
theorem runAgent_mailbox {s : State} (h : s.fatal = none) (d : Fin 3) : runAgent s (.mailbox d) = runMailbox s d := by
  simp [runAgent, stoppedBy_of_running h]
theorem runAgent_event {s : State} (h : s.fatal = none) (i : Instr) : runAgent s (.event i) = exec i s := by
  simp [runAgent, stoppedBy_of_running h]
theorem runAgent_deliver {s : State} (h : s.fatal = none) (m : Message) (i : Instr) :
    runAgent s (.deliver m i) = exec i { s with message := m } := by
  simp [runAgent, stoppedBy_of_running h]

/-! ## Decoded and rejected words (R29) -/

theorem scalarInstr_ok {w : Nat} {i : Instr} (h : decodeScalar w = .ok i) : scalarInstr w = i := by simp [scalarInstr, h]
theorem scalarInstr_bad {w : Nat} {r : Reject} (h : decodeScalar w = .bad r) : scalarInstr w = .undecodableWord false (BitVec.ofNat 96 w) r := by
  simp [scalarInstr, h, rejected]
theorem laneInstr_ok {w : Nat} {i : Instr} (h : decodeLane w = .ok i) : laneInstr w = i := by simp [laneInstr, h]
theorem laneInstr_bad {w : Nat} {r : Reject} (h : decodeLane w = .bad r) : laneInstr w = .undecodableWord true (BitVec.ofNat 96 w) r := by
  simp [laneInstr, h, rejected]

/-! ## Breakpoints (R336) -/

/-- What a fetched word at `here` comes to: it runs, unless a comparator hits it and its stream has not just `passed` it. -/
def unlessHit (hit passed : Option Nat) (here : Nat) (run : Result) (stop : Nat → Result) : Result :=
  match hit with
  | some n => if passed == some here then run else stop n
  | none => run

theorem unlessHit_runs {hit passed : Option Nat} {here : Nat} (h : hit = none ∨ passed = some here) (run : Result) (stop : Nat → Result) :
    unlessHit hit passed here run stop = run := by
  rcases h with rfl | rfl
  · rfl
  · cases hit <;> simp [unlessHit]

theorem unlessHit_stops {n here : Nat} {passed : Option Nat} (h : passed ≠ some here) (run : Result) (stop : Nat → Result) :
    unlessHit (some n) passed here run stop = stop n := if_neg (by simpa using h)

/-! ## The scalar stream (R79, R310) -/

/-- The place of a scalar stream with its word, 0 until it is fetched. -/
def scalarPlace (u : Nat) (c : Crew) (w : Nat) : Cur := { crew := u, lane := false, slot := 0, word := w, idx := c.spc }

section
variable {s s2 : State} {u w : Nat} {c : Crew} {l : Launch}

theorem runScalar_runs (crew : crewOf s u = some c) (launch : crewLaunch s c = some l) (runs : c.runs s = true)
    (free : c.trapping = none) (goes : c.stopping s = false) : runScalar s u = runScalarWord s u c l := by
  simp [runScalar, crew, launch, runs, free, goes]

theorem runScalarWord_past (past : scalarWord s l c.spc = none) :
    runScalarWord s u c l = raiseScalar { s with cur := some (scalarPlace u c 0) } u 0x01 3 0 0 := by
  have here : scalarWord { s with cur := some (scalarPlace u c 0) } l c.spc = none := past
  simp only [scalarPlace] at here ⊢
  simp only [runScalarWord, here]

theorem runScalarWord_fetched (word : scalarWord s l c.spc = some w)
    (fetched : scalarFetched { s with cur := some (scalarPlace u c 0) } c l s2) :
    let s3 := { s2 with cur := some (scalarPlace u c w) }
    runScalarWord s u c l =
      unlessHit (breakpoint s2 c l false c.spc) c.bpPass c.spc (exec (scalarInstr w) s3) fun n => raiseScalar s3 u 0x06 1 n 0 := by
  have here : scalarWord { s with cur := some (scalarPlace u c 0) } l c.spc = some w := word
  simp only [scalarPlace] at here fetched ⊢
  rcases fetched with ⟨built, line⟩ | ⟨s1, pa, stored, page, line⟩
  · simp only [runScalarWord, here, built, line]
    rfl
  · simp only [runScalarWord, here, stored, page, line]
    rfl

end

/-! ## Fragments (R79, R96, R310) -/

/-- The place of a fragment with its word, 0 until it is fetched. -/
def lanePlace (u n : Nat) (fr : Frag) (w : Nat) : Cur := { crew := u, lane := true, slot := n, word := w, idx := fr.lpc }

section
variable {s s2 : State} {u n w : Nat} {c : Crew} {l : Launch} {fr : Frag}

theorem runLane_runs (crew : crewOf s u = some c) (frag : c.div.frag n = some fr) (block : c.laneQ ≠ []) (launch : crewLaunch s c = some l)
    (runs : c.runs s = true) (ready : fr.st = .ready) (goes : (c.trapping = none ∧ c.stopping s = false) ∨ fr.win ≠ none)
    (stays : fr.skipAt ≠ some fr.lpc) : runLane s u n = runLaneWord s u n c l fr := by
  obtain ⟨b, bs, queue⟩ := List.exists_cons_of_ne_nil block
  have goes' : ((c.trapping.isSome || c.stopping s) && fr.win.isNone) = false := by
    rcases goes with ⟨free, goes⟩ | opened
    · simp [free, goes]
    · simp [Option.isNone_eq_false_iff.mpr (Option.isSome_iff_ne_none.mpr opened)]
  simp [runLane, crew, frag, queue, launch, runs, ready, goes', stays]

theorem runLaneWord_fetched (word : laneWordAt l fr.lpc = some w) (fetched : laneFetched { s with cur := some (lanePlace u n fr 0) } c l fr s2) :
    let s3 := { s2 with cur := some (lanePlace u n fr w) }
    runLaneWord s u n c l fr =
      unlessHit (breakpoint s2 c l true fr.lpc) fr.bpPass fr.lpc (exec (laneInstr w) s3)
        fun k => onLane s3 fun x => x.raise s3 0x06 1 k allLanes 0 := by
  simp only [lanePlace] at fetched ⊢
  rcases fetched with ⟨built, line⟩ | ⟨s1, ls, pa, pb, stored, pages, out, line⟩
  · simp only [runLaneWord, word, built, line]
    rfl
  · simp only [runLaneWord, word, stored, pages, out, line]
    rfl

end

/-! ## The memory processor (R340, R388) -/

/-- The first of the queues that hold a command is served when its command holds. -/
theorem runCommand_takes {s t : State} {fn : Fin 3} {n : Nat} {q : SubQueue} {qs : List (Nat × SubQueue)}
    (first : queueOrder (devOf s fn.val) = (n, q) :: qs) (new : q.waiting = none)
    (takes : let at_ := q.base + 64 * (q.cons % 2 ^ q.log2n)
      exec (decodeCommand fn n (mpRead s fn.val at_ 64)) (mpTouch s fn.val at_ 64) = .next t)
    (holds : t.stalled = false) : runCommand s fn = .next (modDev t fn.val fun d => { d with lastServed := some n }) := by
  have command : nextCommand s fn n q = (mpTouch s fn.val (q.base + 64 * (q.cons % 2 ^ q.log2n)) 64,
      decodeCommand fn n (mpRead s fn.val (q.base + 64 * (q.cons % 2 ^ q.log2n)) 64)) := by simp [nextCommand, new, mpFetch]
  simp [runCommand, first, serveQueues, command, takes, holds]

theorem runMailbox_serves {s : State} {fn : Fin 3} (go : (devOf s fn.val).go = true) :
    let r := decodeRequest fn (devOf s fn.val).mboxReq
    runMailbox s fn = exec (mailboxInstr r.code.toNat) { s with request := r } := by
  simp [runMailbox, go]

/-- Settles O57: the step of a turn is its agent's (`step_of_begins`), and what each agent does stands in the lemmas above. -/
theorem stepRunsTheDecodedWord : Obligations.StepRunsTheDecodedWord := by
  intro s s1 s2 tn rest i m u n w c l fr fn begins fatal runs scalarCur laneCur
  have acts : ∀ {a r}, tn.who = a → runAgent s1 a = r → runs r := fun who run => (step_of_begins begins).trans (by rw [who, run])
  refine ⟨fun who crew launch go free stay word fetched => ?scalar, fun who crew launch go free stay past => ?past,
    fun who crew frag block launch go ready stay skip word fetched pass => ?lane, fun q qs t who first new takes holds => ?command,
    fun who go => ?mailbox, fun who => ?event, fun who => ?deliver⟩
  case scalar =>
    have run := ((runAgent_scalar fatal u).trans (runScalar_runs crew launch go free stay)).trans (runScalarWord_fetched word fetched)
    refine ⟨fun pass => ?_, fun k hit new => ?_⟩
    · have plain := run.trans (unlessHit_runs pass _ _)
      exact ⟨fun ok => acts who (scalarInstr_ok ok ▸ plain), fun r bad => acts who (scalarInstr_bad bad ▸ plain)⟩
    · rw [hit] at run
      exact acts who (run.trans (unlessHit_stops new _ _))
  case past => exact acts who (((runAgent_scalar fatal u).trans (runScalar_runs crew launch go free stay)).trans (runScalarWord_past past))
  case lane =>
    have run := ((runAgent_lane fatal u n).trans (runLane_runs crew frag block launch go ready stay skip)).trans (runLaneWord_fetched word fetched)
    have plain := run.trans (unlessHit_runs pass _ _)
    exact ⟨fun ok => acts who (laneInstr_ok ok ▸ plain), fun r bad => acts who (laneInstr_bad bad ▸ plain)⟩
  case command => exact acts who ((runAgent_command fatal fn).trans (runCommand_takes first new takes holds))
  case mailbox => exact acts who ((runAgent_mailbox fatal fn).trans (runMailbox_serves go))
  case event => exact acts who (runAgent_event fatal i)
  case deliver => exact acts who (runAgent_deliver fatal m i)

/-! ## Two updates of one crew -/

theorem kset_kset {α : Type} (m : KMap α) (k : Nat) (x y : α) : kset (kset m k x) k y = kset m k y := by
  induction m with
  | nil => simp [kset]
  | cons e m ih =>
    obtain ⟨j, z⟩ := e
    by_cases same : j = k
    · simp [kset, same]
    · by_cases before : k < j
      · simp [kset, same, before]
      · simp [kset, same, before, ih]

@[simp] theorem putCrew_putCrew (s : State) (u : Nat) (c d : Crew) : putCrew (putCrew s u c) u d = putCrew s u d := by
  simp [putCrew, kset_kset]

/-! ## Fragments -/

/-- The split table has eight slots. -/
theorem frag_eq_none {n : Nat} (far : ¬n < 8) (d : Diverge) : d.frag n = none := by
  simp [Diverge.frag, vget, far, SplitSlot.reset]

theorem lt_of_frag {d : Diverge} {n : Nat} {f : Frag} (h : d.frag n = some f) : n < 8 :=
  Decidable.byContradiction fun far => Option.some_ne_none f (h.symm.trans (frag_eq_none far d))

theorem frag_modFrag (d : Diverge) (n m : Nat) (g : Frag → Frag) :
    (d.modFrag n g).frag m = if m = n then (d.frag m).map g else d.frag m := by
  by_cases near : m < 8
  · by_cases here : m = n
    · subst here
      simp [Diverge.frag, Diverge.modFrag, near]
    · simp [Diverge.frag, Diverge.modFrag, here]
  · simp [frag_eq_none near]

/-- A fragment as `stop` leaves it: withdrawn, cut, and held back by no page. -/
def Frag.stopped (f : Frag) : Frag := { f.withdraw.cut with held := [] }

theorem frag_stop (d : Diverge) (n : Nat) : d.stop.frag n = (d.frag n).map Frag.stopped := by
  by_cases near : n < 8
  · simp only [Diverge.frag, Diverge.stop, vget, near, dite_true, Vector.getElem_map]
    rfl
  · simp [frag_eq_none near]

theorem frag_of_mem_frags {d : Diverge} {e : Nat × Frag} (h : e ∈ d.frags) : d.frag e.1 = some e.2 := by
  simp only [Diverge.frags, indexed, List.mem_filterMap, Option.map_eq_some_iff] at h
  obtain ⟨⟨n, sl⟩, mem, f, frag, rfl⟩ := h
  obtain ⟨i, lt, at_⟩ := List.mem_iff_getElem.mp mem
  simp only [List.length_zip, List.length_range, Vector.length_toList, Nat.min_self] at lt
  simp only [List.getElem_zip, List.getElem_range, Vector.getElem_toList, Prod.mk.injEq] at at_
  obtain ⟨rfl, rfl⟩ := at_
  simpa [Diverge.frag, vget, lt] using frag

/-- A crew is quiet once its loads have returned and no fragment has an open window (R108). -/
theorem quiet_of {c : Crew} (loads : c.loads = []) (reply : ∀ r ∈ c.reply, r.waits = true)
    (windows : ∀ n f, c.div.frag n = some f → f.win = none) : c.quiet = true := by
  have shut : c.div.frags.all (fun e => e.2.win.isNone) = true := by
    simp only [List.all_eq_true]
    intro e mem
    rw [windows e.1 e.2 (frag_of_mem_frags mem)]
    rfl
  simp only [Crew.quiet, loads, shut, List.isEmpty_nil, Bool.true_and, Bool.and_true, List.all_eq_true]
  exact reply

/-! ## Taking a trap (R108, R111, R112) -/

section
variable {s : State} {u : Nat} {c : Crew} {i : TrapInfo} {h : Nat}

theorem takeTrap_inHandler (crew : crewOf s u = some c) (inside : c.handler = true) : takeTrap s u i = haltCrew s u 2 0 := by
  simp [takeTrap, crew, inside]

theorem takeTrap_noHandler (crew : crewOf s u = some c) (outside : c.handler = false) (entry : c.handlerEntry i = none) :
    takeTrap s u i = haltCrew s u 3 0 := by
  simp [takeTrap, crew, outside, entry]

theorem takeTrap_enters (crew : crewOf s u = some c) (outside : c.handler = false) (entry : c.handlerEntry i = some h) :
    takeTrap s u i = putCrew s u (c.enterTrap i h) := by
  simp [takeTrap, crew, outside, entry]

/-- The crew, waiting to take a trap. -/
def Crew.waitsFor (c : Crew) (i : TrapInfo) : Crew := { c with trapping := some i }

/-- In a quiet crew a trap is taken as it arises. -/
theorem raise_quiet (crew : crewOf s u = some c) (alive : c.alive = true) (free : c.trapping = none) (quiet : c.quiet = true) :
    raise s u i = takeTrap (putCrew s u (c.waitsFor i)) u i := by
  have waits : (c.waitsFor i).trapping = some i := rfl
  have quiet' : (c.waitsFor i).quiet = true := quiet
  have arises : raise s u i = settleTrap (putCrew s u (c.waitsFor i)) u := by
    simp only [raise, crew, alive, free]
    rfl
  rw [arises]
  simp [settleTrap, waits, quiet']

/-- A crew halts alike whether or not it waits for a trap. -/
theorem haltCrew_waitsFor (crew : crewOf s u = some c) (alive : c.alive = true) (code addr : Nat) :
    haltCrew (putCrew s u (c.waitsFor i)) u code addr = haltCrew s u code addr := by
  have alive' : (c.waitsFor i).alive = true := alive
  simp only [haltCrew, crewOf_putCrew, if_true, crew, alive, alive', putCrew_putCrew]
  rfl

theorem raise_enters (crew : crewOf s u = some c) (alive : c.alive = true) (free : c.trapping = none) (quiet : c.quiet = true)
    (outside : c.handler = false) (entry : c.handlerEntry i = some h) : raise s u i = putCrew s u (c.enterTrap i h) := by
  rw [raise_quiet crew alive free quiet, takeTrap_enters (by simp) (c := c.waitsFor i) outside entry, putCrew_putCrew]
  rfl

theorem raise_inHandler (crew : crewOf s u = some c) (alive : c.alive = true) (free : c.trapping = none) (quiet : c.quiet = true)
    (inside : c.handler = true) : raise s u i = haltCrew s u 2 0 := by
  rw [raise_quiet crew alive free quiet, takeTrap_inHandler (by simp) (c := c.waitsFor i) inside, haltCrew_waitsFor crew alive]

theorem raise_noHandler (crew : crewOf s u = some c) (alive : c.alive = true) (free : c.trapping = none) (quiet : c.quiet = true)
    (outside : c.handler = false) (entry : c.handlerEntry i = none) : raise s u i = haltCrew s u 3 0 := by
  rw [raise_quiet crew alive free quiet, takeTrap_noHandler (by simp) (c := c.waitsFor i) outside entry, haltCrew_waitsFor crew alive]

end

/-! ## What trap entry saves (R111, R113) -/

/-- The handler of a trap begins at its binding's entry, else at TVEC's index (R111). -/
theorem handlerEntry_of_starts {c : Crew} {i : TrapInfo} {h : Nat}
    (starts : i.entry = some h ∨ (i.entry = none ∧ c.tvec.getLsbD 63 = true ∧ h = bitsOf c.tvec 21 0)) : c.handlerEntry i = some h := by
  rcases starts with bound | ⟨unbound, enabled, rfl⟩
  · simp only [Crew.handlerEntry, bound, Option.some_or]
  · simp only [Crew.handlerEntry, unbound, enabled, Option.none_or, if_true]

theorem handlerEntry_none {c : Crew} {i : TrapInfo} (unbound : i.entry = none) (disabled : c.tvec.getLsbD 63 = false) : c.handlerEntry i = none := by
  simp only [Crew.handlerEntry, unbound, disabled, Option.none_or]
  rfl

/-- The lanes that the fragment of a slot owns. -/
def Diverge.ownedAt (d : Diverge) (n : Nat) : W64 := match d.frag n with | some f => f.owned | none => 0

theorem enterTrap_tsplit (c : Crew) (i : TrapInfo) (h : Nat) (n : Fin 8) : (c.enterTrap i h).tsplit[n] = c.div.ownedAt n.val := by
  simp only [Crew.enterTrap, Fin.getElem_fin, Vector.getElem_ofFn]
  rfl

theorem enterTrap_frag (c : Crew) (i : TrapInfo) (h n : Nat) : (c.enterTrap i h).div.frag n = none := by
  by_cases near : n < 8
  · simp [Crew.enterTrap, Diverge.frag, vget, near]
  · exact frag_eq_none near _

/-- The trap of a scalar word marks no fragment (R336). -/
theorem passMatch_scalarTrap (d : Diverge) (word cause detail arg : Nat) (addr : W64) (entry : Option Nat) :
    d.passMatch (scalarTrap word cause detail arg addr entry) = d := by
  simp [Diverge.passMatch, scalarTrap]

theorem tinfoOf_scalarTrap {detail arg : Nat} (word cause : Nat) (addr : W64) (entry : Option Nat) (hd : detail < 256) (ha : arg < 2 ^ 32) :
    tinfoOf (scalarTrap word cause detail arg addr entry) = BitVec.ofNat 64 (4 + 256 * detail + 2 ^ 32 * arg) := by
  simp only [tinfoOf, scalarTrap, w64, flag, Nat.mod_eq_of_lt hd, Nat.mod_eq_of_lt ha]
  rfl

theorem tinfoOf_trapInfo {x : LaneCx} {detail arg : Nat} (cause : Nat) (mask addr : W64) (entry : Option Nat) (slot : x.slot < 8)
    (off : x.win.done < 4) (hd : detail < 256) (ha : arg < 2 ^ 32) :
    tinfoOf (x.trapInfo cause detail arg mask addr entry) =
      BitVec.ofNat 64 (6 + 8 * x.slot + 64 * x.win.done + 256 * detail + 2 ^ 32 * arg) := by
  simp only [tinfoOf, LaneCx.trapInfo, w64, flag, Nat.mod_eq_of_lt hd, Nat.mod_eq_of_lt ha, Nat.mod_eq_of_lt slot, Nat.mod_eq_of_lt off]
  rfl

/-! ## The fragment of a trapping lane word (R97) -/

/-- A fragment that goes back to word `i` with its latches invalid. -/
def Frag.backTo (f : Frag) (i : Nat) : Frag := { f with lpc := i, held := [] }.cut

/-- The crew of a trapping lane word, whose fragment goes back to the first word of its window. -/
def LaneCx.rewound (x : LaneCx) : Crew := { x.c with div := x.c.div.modFrag x.slot fun f => f.backTo x.win.start }

theorem rewound_frag (x : LaneCx) (n : Nat) :
    x.rewound.div.frag n = if n = x.slot then (x.c.div.frag n).map fun f => f.backTo x.win.start else x.c.div.frag n := frag_modFrag _ _ _ _

theorem rewound_ownedAt (x : LaneCx) (n : Nat) : x.rewound.div.ownedAt n = x.c.div.ownedAt n := by
  by_cases here : n = x.slot
  · simp only [Diverge.ownedAt, rewound_frag, here, if_true]
    cases x.c.div.frag x.slot <;> rfl
  · simp only [Diverge.ownedAt, rewound_frag, here, if_false]

/-- Only the other fragments can keep a trap from being taken: the window of its own is cut. -/
theorem rewound_quiet {x : LaneCx} (loads : x.c.loads = []) (reply : ∀ r ∈ x.c.reply, r.waits = true)
    (others : ∀ n f, n ≠ x.slot → x.c.div.frag n = some f → f.win = none) : x.rewound.quiet = true := by
  refine quiet_of loads reply fun n f frag => ?_
  rw [rewound_frag] at frag
  split at frag
  · obtain ⟨g, _, rfl⟩ := Option.map_eq_some_iff.mp frag
    rfl
  · next other => exact others n f other frag

/-- A match of a lane word marks its fragment; nothing else of any fragment changes (R336). -/
theorem passMatch_frag {d : Diverge} {n : Nat} {f : Frag} (h : d.frag n = some f) (i : TrapInfo) :
    ∃ b, (d.passMatch i).frag n = some { f with bpPass := b } := by
  unfold Diverge.passMatch
  split
  · rw [frag_modFrag, h]
    split
    · exact ⟨_, rfl⟩
    · exact ⟨f.bpPass, rfl⟩
  · exact ⟨f.bpPass, h⟩

@[simp] theorem passMatch_serial (d : Diverge) (i : TrapInfo) : (d.passMatch i).serial = d.serial := by
  unfold Diverge.passMatch
  split <;> rfl

/-- Where a stopped fragment stands and the lanes it holds are as they were; its latches are invalid. -/
theorem stopped_keeps (f : Frag) :
    f.stopped.lpc = f.lpc ∧ f.stopped.latchOk = 0 ∧ f.stopped.owned = f.owned ∧ f.stopped.exec = f.exec ∧ f.stopped.stack = f.stack := by
  unfold Frag.stopped Frag.withdraw
  split <;> exact ⟨rfl, rfl, rfl, rfl, rfl⟩

/-- The frozen fragment of a trapping lane word. -/
theorem frozen_frag {x : LaneCx} (frag : x.c.div.frag x.slot = some x.fr) (i : TrapInfo) :
    ∃ f, (x.rewound.div.stop.passMatch i).frag x.slot = some f ∧ f.lpc = x.win.start ∧ f.latchOk = 0 ∧ f.owned = x.fr.owned ∧
      f.exec = x.fr.exec ∧ f.stack = x.fr.stack := by
  have back : x.rewound.div.stop.frag x.slot = some (x.fr.backTo x.win.start).stopped := by
    rw [frag_stop, rewound_frag, if_pos rfl, frag]
    rfl
  obtain ⟨b, marked⟩ := passMatch_frag back i
  exact ⟨_, marked, stopped_keeps (x.fr.backTo x.win.start)⟩

/-- A lane word of a crew that is quiet but for its own window enters the handler. -/
theorem raiseWith_enters {s : State} {x : LaneCx} {cause detail arg h : Nat} {mask addr : W64} {entry : Option Nat} (lane : RunsLane s x)
    (alive : x.c.alive = true) (free : x.c.trapping = none) (quiet : x.rewound.quiet = true) (outside : x.c.handler = false)
    (at_ : x.c.handlerEntry (x.trapInfo cause detail arg mask addr entry) = some h) :
    ∃ s', x.raiseWith s cause detail arg mask addr entry = .next s' ∧
      OnlyCrew s s' x.u (x.rewound.enterTrap (x.trapInfo cause detail arg mask addr entry) h) := by
  obtain ⟨_, crew, _⟩ := lane
  have back : crewOf (modCrew s x.u fun c => { c with div := c.div.modFrag x.slot fun f => f.backTo x.win.start }) x.u = some x.rewound := by
    simp [crew, LaneCx.rewound]
  refine ⟨_, congrArg Host.Outcome.next (raise_enters back alive free quiet outside at_), by simp, fun v other => by simp [other], rfl⟩

/-- Settles O34: `raise_enters` and `raiseWith_enters` say when the handler is entered, and `enterTrap` what is saved. -/
theorem trapEntrySavesTheCrew : Obligations.TrapEntrySavesTheCrew := by
  unfold Obligations.TrapEntrySavesTheCrew
  intro keeps starts
  refine ⟨fun s u c k cause detail arg addr entry h cur crew alive free quiet hd ha =>
    ⟨fun unbound => ?raises, fun outside at_ => ?enters, fun inside => ?inHandler, fun outside unbound disabled => ?noHandler⟩,
    fun s x cause detail arg mask addr entry h lane alive free loads reply others hd ha off outside at_ => ?lane⟩
  case raises => simp only [raiseScalar, cur, unbound]
  case enters =>
    have entered := raise_enters (i := scalarTrap k.word cause detail arg addr entry) crew alive free quiet outside (handlerEntry_of_starts at_)
    refine ⟨_, _, congrArg _ entered, putCrew_onlyCrew _ _ _, ⟨rfl, rfl, rfl, rfl, rfl, rfl, rfl, rfl, rfl⟩, rfl, rfl, rfl, rfl, rfl, rfl, rfl, rfl,
      rfl, tinfoOf_scalarTrap _ _ _ _ hd ha, enterTrap_tsplit _ _ _, rfl, enterTrap_frag _ _ _, ?_⟩
    simp only [Crew.enterTrap, passMatch_scalarTrap, Option.map_some]
  case inHandler => exact congrArg _ (raise_inHandler crew alive free quiet inside)
  case noHandler => exact congrArg _ (raise_noHandler crew alive free quiet outside (handlerEntry_none unbound disabled))
  case lane =>
    obtain ⟨s', next, only⟩ := raiseWith_enters (cause := cause) (detail := detail) (arg := arg) (mask := mask) (addr := addr) lane alive free
      (rewound_quiet loads reply others) outside (handlerEntry_of_starts at_)
    obtain ⟨_, _, frag, _⟩ := lane
    obtain ⟨f, frozen, kept⟩ := frozen_frag frag (x.trapInfo cause detail arg mask addr entry)
    have low : w64 (x.word % 2 ^ 64) = BitVec.ofNat 64 x.word := BitVec.eq_of_toNat_eq (by simp [w64])
    refine ⟨s', _, _, f, next, only, ⟨rfl, rfl, rfl, rfl, rfl, rfl, rfl, rfl, rfl⟩, rfl, rfl, rfl, rfl, rfl, rfl, rfl, rfl,
      congrArg (fun a => #v[a, _]) low, tinfoOf_trapInfo _ _ _ _ (lt_of_frag frag) off hd ha, fun n => ?_, rfl, enterTrap_frag _ _ _, rfl, rfl, ?_,
      frozen, kept⟩
    · exact (enterTrap_tsplit _ _ _ n).trans (rewound_ownedAt x n.val)
    · exact passMatch_serial _ _

end Sys2Proof.Machine
end

section
/-!
PROOFS. Team barriers: what one arrival does to the leader's barrier, the request on its way, the leader's port, and the way back.
-/

namespace Sys2Proof.Machine

/-! ## Reading back what was written -/

theorem crewOf_putCrew_same (s : State) (u : Nat) (c : Crew) : crewOf (putCrew s u c) u = some c := by simp

theorem teamOf_putTeam_same (s : State) (n : Nat) (t : Team) : teamOf (putTeam s n t) n = some t := by simp

theorem crewOf_modCrew_same {s : State} {u : Nat} {c : Crew} (crew : crewOf s u = some c) (f : Crew → Crew) :
    crewOf (modCrew s u f) u = some (f c) := by simp [crew]

@[simp] theorem kgetD_kset_same {α : Type} (m : KMap α) (k : Nat) (x d : α) : kgetD (kset m k x) k d = x := by
  simp [kgetD]

/-- A crew that waits for no trap is left alone. -/
theorem settleTrap_putCrew (s : State) (u : Nat) {c : Crew} (free : c.trapping = none) : settleTrap (putCrew s u c) u = putCrew s u c :=
  settleTrap_of (crewOf_putCrew_same s u c) free

/-! ## The barriers at the leader (R192, R193, R286) -/

/-- An id of 448 to 511 that the kernel has not declared leads to the leader of a team of several cores. -/
theorem barPlace_leader {l : Launch} {id : W64} (undeclared : l.kernel.barriers ≤ id.toNat) (cores : 1 < l.kernel.shape)
    (low : 448 ≤ id.toNat) (high : id.toNat ≤ 511) : barPlace l id = .leader := by
  simp [barPlace, Nat.not_lt.mpr undeclared, cores, low, high]

/-- With the leader's core unfenced its port shows its barriers as they are. -/
theorem barrierAt_leader {s : State} {t : Team} (held : leaderLost s t = false) (id : Nat) : barrierAt s t 0 id = t.barrier 0 id := by
  simp [barrierAt, held]

@[simp] theorem Team.barrier_putBarrier (t : Team) (core id : Nat) (b : Barrier) : (t.putBarrier core id b).barrier core id = b := by
  simp [Team.barrier, Team.putBarrier]

@[simp] theorem Team.sendCompletion_barrier (t : Team) (n : Nat) (p : Bool) (core id : Nat) :
    (t.sendCompletion n p).barrier core id = t.barrier core id := rfl

theorem Team.arriveAt_barrier (s : State) (t : Team) (core id : Nat) (m : RelMark) :
    (t.arriveAt s core id m).barrier core id = ((barrierAt s t core id).arrive m).1 := by
  simp only [Team.arriveAt]
  split <;> simp

/-- An arrival takes no request from the port and puts none there. -/
theorem Team.arriveAt_barReqs (s : State) (t : Team) (core id : Nat) (m : RelMark) : (t.arriveAt s core id m).barReqs = t.barReqs := by
  simp only [Team.arriveAt]
  split <;> rfl

/-! ## The request (R227, R286) -/

/-- The crew with the record of a reply that is to come. -/
def Crew.asks (c : Crew) (d : SReg) (n tag : Nat) (waits : Bool) : Crew :=
  { c with reply := c.reply ++ [{ reg := d, id := n, tag := tag, par := none, waits := waits }] }

/-- Away from the leader an arrival is sent to it, and the word of BARA is done. -/
theorem arriveWord_sends {s : State} {u : Nat} {c : Crew} {t : Team} {l : Launch} {id : W64} (team : teamOf s c.team = some t)
    (launch : crewLaunch s c = some l) (place : barPlace l id = .leader) (free : c.acquiring = false) (away : c.coreIdx ≠ 0)
    (held : leaderLost s t = false) (d : SReg) (k : State → Bool → Result) :
    arriveWord s u c d id false k = .next (putCrew (sendBar s u c id.toNat .arrive).1 u (c.asks d id.toNat s.nextTag false).next) := by
  simp [arriveWord, team, launch, place, free, away, held, sendBar, Crew.asks]

theorem execBara_sends {s : State} {u : Nat} {c : Crew} {t : Team} {l : Launch} {d a : SReg} {i : Imm13} (ready : ScalarReady s u c [d, a])
    (team : teamOf s c.team = some t) (launch : crewLaunch s c = some l) (place : barPlace l (barId c a i) = .leader)
    (free : c.acquiring = false) (away : c.coreIdx ≠ 0) (held : leaderLost s t = false) :
    execBara d a i s = .next (putCrew (sendBar s u c (barId c a i).toNat .arrive).1 u (c.asks d (barId c a i).toNat s.nextTag false).next) := by
  rw [execBara, withScalar_of ready]
  simp only [withBarrier, team, launch, place]
  exact arriveWord_sends team launch place free away held d _

/-! ## The leader's port (R286) -/

section
variable {s : State} {team : Nat} {t : Team} {q : BarReq} {qs : List BarReq}

/-- The port applies the oldest arrival and answers it with the parity that its phase will have (R193, R227). -/
theorem execTeamBarrierRequest_applies (here : teamOf s team = some t) (oldest : t.barReqs = q :: qs) (op : q.op = .arrive)
    (takes : (barrierAt s t 0 q.id).refuses = false) :
    execTeamBarrierRequest team 0 s =
      .next (modCrew (putTeam s team (({ t with barReqs := qs } : Team).arriveAt s 0 q.id q.mark)) q.crew
        fun c => c.answerBar q.tag (!(barrierAt s t 0 q.id).par)) := by
  simp [execTeamBarrierRequest, here, oldest, op, takes, ldel]

/-- An arrival at a barrier that no BARINIT has set is refused once its crew waits for no trap (R229; log 25). -/
theorem execTeamBarrierRequest_refuses (here : teamOf s team = some t) (oldest : t.barReqs = q :: qs) (op : q.op = .arrive)
    (refuses : (barrierAt s t 0 q.id).refuses = true) (free : trapWaits s q.crew = false) :
    execTeamBarrierRequest team 0 s = .next (refuseBar (putTeam s team { t with barReqs := qs }) q) := by
  simp [execTeamBarrierRequest, here, oldest, op, refuses, free, ldel]

end

/-! ## The way back (R286) -/

theorem execTeamBarrierCompletion_arrives {s : State} {team core id : Nat} {t : Team} {p : Bool} {ps : List Bool} (here : teamOf s team = some t)
    (sent : kgetD t.barSent (512 * core + id) [] = p :: ps) :
    execTeamBarrierCompletion team core id s = .next (putTeam s team
      { t with barSeen := kset t.barSeen (512 * core + id) p, barSent := kset t.barSent (512 * core + id) ps }) := by
  simp [execTeamBarrierCompletion, here, sent]

section
variable {s : State} {u : Nat} {c : Crew} {r : BarReply} {p : Bool}

/-- The answer to a BARA writes its register. -/
theorem execTeamBarrierReply_writes (crew : crewOf s u = some c) (free : c.trapping = none) (only : c.reply = [r]) (answer : r.par = some p)
    (bara : r.waits = false) : execTeamBarrierReply u s = .next (putCrew s u { c.ws r.reg (flag64 p) with reply := [] }) := by
  simp [execTeamBarrierReply, crew, only, answer, bara, settleTrap_putCrew, free]

/-- The answer to a BARAW is the parity that it goes on waiting for. -/
theorem execTeamBarrierReply_waits (crew : crewOf s u = some c) (only : c.reply = [r]) (answer : r.par = some p) (baraw : r.waits = true) :
    execTeamBarrierReply u s = .next (putCrew s u { c with reply := [], await := .phase p }) := by
  simp [execTeamBarrierReply, crew, only, answer, baraw]

end

/-- Settles O30: an arrival is sent (`execBara_sends`), applied or refused at the port (`execTeamBarrierRequest_applies` and `_refuses`), and its
answer and the phase return (`execTeamBarrierReply_writes` and `_waits`, `execTeamBarrierCompletion_arrives`). -/
theorem teamBarriersTravel : Obligations.TeamBarriersTravel := by
  intro s u c d a i t l team q core id p ps
  refine ⟨fun ready here launch away free undeclared cores low high held => ?sends,
    fun here only held op crew => ⟨fun expects asked => ?applies, fun unset runs untrapped => ?refuses⟩, fun here sent => ?completes,
    fun r crew untrapped only answer => ⟨execTeamBarrierReply_writes crew untrapped only answer, execTeamBarrierReply_waits crew only answer⟩⟩
  case sends =>
    exact ⟨_, _, execBara_sends ready here launch (barPlace_leader undeclared cores low high) free away held,
      crewOf_putCrew_same _ _ _, rfl, rfl, rfl, rfl⟩
  case applies =>
    have takes : (barrierAt s t 0 q.id).refuses = false := by simp [barrierAt_leader held, Barrier.refuses, expects]
    have still : barrierAt s { t with barReqs := [] } 0 q.id = t.barrier 0 q.id := barrierAt_leader held q.id
    refine ⟨_, _, _, execTeamBarrierRequest_applies here only op takes, teamOf_putTeam_same _ _ _,
      Team.arriveAt_barReqs _ _ _ _ _, ?_, crewOf_modCrew_same crew _, ?_⟩
    · rw [Team.arriveAt_barrier, still]
    · simp [Crew.answerBar, asked, barrierAt_leader held]
  case refuses =>
    have refuses : (barrierAt s t 0 q.id).refuses = true := by simp [barrierAt_leader held, Barrier.refuses, unset, runs]
    have free : trapWaits s q.crew = false := by simp [trapWaits, crew, untrapped]
    exact execTeamBarrierRequest_refuses here only op refuses free
  case completes =>
    exact ⟨_, _, execTeamBarrierCompletion_arrives here sent, teamOf_putTeam_same _ _ _, kgetD_kset_same _ _ _ _, kgetD_kset_same _ _ _ _, rfl⟩

end Sys2Proof.Machine
end
